-- ==== Sys2Proof/Word.lean ====
section
/-! DEFINITION. The word types of the OMK-1600 and their plainest readings (R7, R8). -/

namespace Sys2Proof

/-- A byte (R8). -/
abbrev Byte := BitVec 8

/-- A register word of a thread (R142). -/
abbrev Word := BitVec 32

/-- A 16-bit parcel or halfword (R153). -/
abbrev Half16 := BitVec 16

end Sys2Proof
end

