-- ==== Sys2Proof/Syntax.lean ====
section
/-! DEFINITION. The commands of the OMK-1600: one constructor per row of spec/opcode_table.json. Host commands carry the raw
parameter bytes of R410, core instructions carry the operand fields of R154 to R201, events carry what the outside world shows
the device. -/

namespace Sys2Proof

/-- The two halves (R15); the half index h of the manual is 0 for West and 1 for East. -/
inductive Hf where
  | west
  | east
  deriving DecidableEq, Repr

/-- A physical thread: station, core and thread number (R111, R131). -/
structure Tid where
  stn : Fin 17
  core : Fin 12
  thr : Fin 8
  deriving DecidableEq, Repr

/-- The guard of an instruction (R154, R155): a predicate and the N bit. -/
structure Guard where
  pred : BitVec 3
  neg : Bool
  deriving DecidableEq, Repr

/-- The width of an instruction (R153). -/
inductive Form where
  | short
  | long
  deriving DecidableEq, Repr

/-- What the target of a REP is, as far as R169 asks. -/
inductive RepTarget where
  | branch
  | wait
  | endInsn
  | rep
  | helperLock
  | other
  deriving DecidableEq, Repr

/-- An interface of the command channel (R403). -/
inductive Iface where
  | ring (n : Fin 8)
  | service
  deriving DecidableEq, Repr

/-- The header of a command packet but for its opcode and length (R406), and the interface it came in on. -/
structure CmdHdr where
  iface : Iface
  flags : BitVec 16
  tag : BitVec 32
  rsvd : BitVec 32
  deriving DecidableEq, Repr

/-- What the device's reads of host memory return for a submission entry and its command packet (R401, R404). Over PCIe the device reads its own
memory instead, whatever is said here (R396). -/
inductive Fetched where
  | entryFailed
  | packetTimeout (entry : List Byte)
  | packetPoison (entry : List Byte)
  | packet (entry : List Byte) (bytes : List Byte)
  | fromService
  deriving DecidableEq, Repr

/-- How the write of a reply and its completion entry to host memory ends (R404). -/
inductive WriteEnd where
  | ok
  | failed
  deriving DecidableEq, Repr

/-- What the boot sequence meets (R449 to R451): the lock of the root PLL, the channels of HBM that fail their test, the stations
that fail their self-check, and whether the host link trains. -/
structure BootEnv where
  mode : BitVec 2
  pllLocks : Bool
  hbmFailed : BitVec 16
  stnFailed : BitVec 17
  deriving DecidableEq, Repr

/-- The cause of an update reset (R447). -/
inductive UpdCause where
  | activation
  | fallback
  | expiry
  deriving DecidableEq, Repr

/-- Where an uncorrectable error of a station lies, or the drain cause (R132). -/
inductive StnError where
  | shared
  | threadScratch
  | taskStore
  | shelf
  | program
  | bus
  deriving DecidableEq, Repr

/-- The end of the RAM tests of a preparation or a self-check (R136, R137). -/
inductive CheckEnd where
  | pass
  | fail
  deriving DecidableEq, Repr

/-- What a read of a line of HBM meets (R379). -/
inductive HbmErr where
  | none
  | corrected
  | uncorrectable
  deriving DecidableEq, Repr

/-- How a line MAC came by a frame (R338, R339): whole; reassembled from mPackets of which `frags` were continuations; one whose assembly
failed; one whose SMD was bad. -/
inductive RxAsm where
  | whole
  | assembled (frags : Nat)
  | assemblyErr (frags : Nat)
  | smdErr
  deriving DecidableEq, Repr

/-- A frame as a line MAC has received it (R18): its bytes, FCS included, and how the MAC came by them. -/
structure RxFrame where
  bytes : List Byte := []
  asm : RxAsm := .whole
  deriving DecidableEq, Repr

/-- A host access to HBM through HDM or BAR2 (R381, R396), and what a read meets (R379). -/
inductive MemAccess where
  | read (err : HbmErr)
  | write (data : List Byte)
  deriving DecidableEq, Repr

/-- A JTAG operation (R488). -/
inductive JtagOp where
  | idcode
  | boundaryScan
  | extest
  | lockRead (group : Fin 64) (word : Fin 64)
  | lockWrite (group : Fin 64) (word : Fin 64) (value : BitVec 16)
  deriving DecidableEq, Repr

/-- The PTP messages that the Registrar originates (R356, R359). -/
inductive PtpMsg where
  | sync
  | announce
  | delayReq
  | pdelayReq
  | pdelayResp
  | followUp
  | pdelayRespFollowUp
  deriving DecidableEq, Repr

/-- The commands of the device: one constructor per row of the opcode table, in the table's order. -/
inductive Instr where
  -- command channel (R410)
  | nop (h : CmdHdr) (ps : List Byte)
  | deviceInfo (h : CmdHdr) (ps : List Byte)
  | deviceStatus (h : CmdHdr) (ps : List Byte)
  | ringControl (h : CmdHdr) (ps : List Byte)
  | paramGet (h : CmdHdr) (ps : List Byte)
  | paramSet (h : CmdHdr) (ps : List Byte)
  | editionOpen (h : CmdHdr) (ps : List Byte)
  | editionStage (h : CmdHdr) (ps : List Byte)
  | programLoad (h : CmdHdr) (ps : List Byte)
  | editionCommit (h : CmdHdr) (ps : List Byte)
  | editionAbort (h : CmdHdr) (ps : List Byte)
  | editionStatus (h : CmdHdr) (ps : List Byte)
  | contractQuery (h : CmdHdr) (ps : List Byte)
  | macFlush (h : CmdHdr) (ps : List Byte)
  | lpmRouteAdd (h : CmdHdr) (ps : List Byte)
  | lpmRouteDelete (h : CmdHdr) (ps : List Byte)
  | learnStatus (h : CmdHdr) (ps : List Byte)
  | timeGet (h : CmdHdr) (ps : List Byte)
  | timeSet (h : CmdHdr) (ps : List Byte)
  | timeStep (h : CmdHdr) (ps : List Byte)
  | timeAdjust (h : CmdHdr) (ps : List Byte)
  | timeFreq (h : CmdHdr) (ps : List Byte)
  | timeTxstampRead (h : CmdHdr) (ps : List Byte)
  | timeStatus (h : CmdHdr) (ps : List Byte)
  | captureTrigger (h : CmdHdr) (ps : List Byte)
  | captureRelease (h : CmdHdr) (ps : List Byte)
  | captureStatus (h : CmdHdr) (ps : List Byte)
  | stationRetire (h : CmdHdr) (ps : List Byte)
  | stationReadmit (h : CmdHdr) (ps : List Byte)
  | stationStatus (h : CmdHdr) (ps : List Byte)
  | taskRead (h : CmdHdr) (ps : List Byte)
  | threadHalt (h : CmdHdr) (ps : List Byte)
  | threadResume (h : CmdHdr) (ps : List Byte)
  | contextRead (h : CmdHdr) (ps : List Byte)
  | lockRead (h : CmdHdr) (ps : List Byte)
  | lockWrite (h : CmdHdr) (ps : List Byte)
  | channelFlush (h : CmdHdr) (ps : List Byte)
  | imageBegin (h : CmdHdr) (ps : List Byte)
  | imageData (h : CmdHdr) (ps : List Byte)
  | imageEnd (h : CmdHdr) (ps : List Byte)
  | imageActivate (h : CmdHdr) (ps : List Byte)
  | imageAbort (h : CmdHdr) (ps : List Byte)
  | imageStatus (h : CmdHdr) (ps : List Byte)
  | logRead (h : CmdHdr) (ps : List Byte)
  | faultStatus (h : CmdHdr) (ps : List Byte)
  | faultClear (h : CmdHdr) (ps : List Byte)
  -- core instructions (R158 to R179)
  | nopInsn (t : Tid) (p : Guard)
  | mov (t : Tid) (p : Guard) (rd rs : BitVec 4)
  | add (t : Tid) (p : Guard) (f : Form) (rd rs rt : BitVec 4)
  | sub (t : Tid) (p : Guard) (f : Form) (rd rs rt : BitVec 4)
  | and (t : Tid) (p : Guard) (f : Form) (rd rs rt : BitVec 4)
  | or (t : Tid) (p : Guard) (f : Form) (rd rs rt : BitVec 4)
  | xor (t : Tid) (p : Guard) (f : Form) (rd rs rt : BitVec 4)
  | andn (t : Tid) (p : Guard) (f : Form) (rd rs rt : BitVec 4)
  | shl (t : Tid) (p : Guard) (rd rs rt : BitVec 4)
  | shr (t : Tid) (p : Guard) (rd rs rt : BitVec 4)
  | sar (t : Tid) (p : Guard) (rd rs rt : BitVec 4)
  | rol (t : Tid) (p : Guard) (rd rs rt : BitVec 4)
  | min (t : Tid) (p : Guard) (rd rs rt : BitVec 4)
  | max (t : Tid) (p : Guard) (rd rs rt : BitVec 4)
  | minu (t : Tid) (p : Guard) (rd rs rt : BitVec 4)
  | maxu (t : Tid) (p : Guard) (rd rs rt : BitVec 4)
  | mul (t : Tid) (p : Guard) (rd rs rt : BitVec 4)
  | mulhu (t : Tid) (p : Guard) (rd rs rt : BitVec 4)
  | sxb (t : Tid) (p : Guard) (rd rs rt : BitVec 4)
  | sxh (t : Tid) (p : Guard) (rd rs rt : BitVec 4)
  | zxb (t : Tid) (p : Guard) (rd rs rt : BitVec 4)
  | zxh (t : Tid) (p : Guard) (rd rs rt : BitVec 4)
  | clz (t : Tid) (p : Guard) (rd rs rt : BitVec 4)
  | popc (t : Tid) (p : Guard) (rd rs rt : BitVec 4)
  | addi (t : Tid) (p : Guard) (f : Form) (rd rs : BitVec 4) (imm : BitVec 13)
  | andi (t : Tid) (p : Guard) (rd rs : BitVec 4) (imm : BitVec 13)
  | ori (t : Tid) (p : Guard) (rd rs : BitVec 4) (imm : BitVec 13)
  | xori (t : Tid) (p : Guard) (rd rs : BitVec 4) (imm : BitVec 13)
  | shi (t : Tid) (p : Guard) (f : Form) (rd rs : BitVec 4) (kind : BitVec 2) (n : BitVec 5)
  | movi (t : Tid) (p : Guard) (f : Form) (rd : BitVec 4) (imm : BitVec 16)
  | movhi (t : Tid) (p : Guard) (rd : BitVec 4) (imm : BitVec 16)
  | sel (t : Tid) (p : Guard) (rd rs rt : BitVec 4) (pa : BitVec 3)
  | cmp (t : Tid) (p : Guard) (f : Form) (pd : BitVec 3) (rs rt : BitVec 4) (cond : BitVec 4) (comb : BitVec 2)
  | cmpi (t : Tid) (p : Guard) (f : Form) (pd : BitVec 3) (rs : BitVec 4) (imm : BitVec 8) (cond : BitVec 4) (comb : BitVec 2)
  | pand (t : Tid) (p : Guard) (pd pa pb : BitVec 3)
  | por (t : Tid) (p : Guard) (pd pa pb : BitVec 3)
  | pxor (t : Tid) (p : Guard) (pd pa pb : BitVec 3)
  | pandn (t : Tid) (p : Guard) (pd pa pb : BitVec 3)
  | pnot (t : Tid) (p : Guard) (pd pa pb : BitVec 3)
  | pset (t : Tid) (p : Guard) (pd pa pb : BitVec 3)
  | pclr (t : Tid) (p : Guard) (pd pa pb : BitVec 3)
  | ext (t : Tid) (p : Guard) (rd rs : BitVec 4) (pos len1 : BitVec 5)
  | exts (t : Tid) (p : Guard) (rd rs : BitVec 4) (pos len1 : BitVec 5)
  | ins (t : Tid) (p : Guard) (rd rs : BitVec 4) (pos len1 : BitVec 5)
  | ldb (t : Tid) (p : Guard) (f : Form) (rd rs : BitVec 4) (off : BitVec 12) (pi : Bool)
  | ldh (t : Tid) (p : Guard) (rd rs : BitVec 4) (off : BitVec 12) (pi : Bool)
  | ldw (t : Tid) (p : Guard) (f : Form) (rd rs : BitVec 4) (off : BitVec 12) (pi : Bool)
  | ldbs (t : Tid) (p : Guard) (rd rs : BitVec 4) (off : BitVec 12) (pi : Bool)
  | ldhs (t : Tid) (p : Guard) (rd rs : BitVec 4) (off : BitVec 12) (pi : Bool)
  | stb (t : Tid) (p : Guard) (f : Form) (rd rs : BitVec 4) (off : BitVec 12) (pi : Bool)
  | sth (t : Tid) (p : Guard) (rd rs : BitVec 4) (off : BitVec 12) (pi : Bool)
  | stw (t : Tid) (p : Guard) (f : Form) (rd rs : BitVec 4) (off : BitVec 12) (pi : Bool)
  | cpy (t : Tid) (p : Guard) (gD gS : BitVec 4) (size : BitVec 2)
  | atomFadd (t : Tid) (p : Guard) (rd ra rt : BitVec 4)
  | atomSwap (t : Tid) (p : Guard) (rd ra rt : BitVec 4)
  | atomCas (t : Tid) (p : Guard) (rd ra rt : BitVec 4)
  | br (t : Tid) (p : Guard) (off : BitVec 17)
  | brs (t : Tid) (p : Guard) (off : BitVec 10)
  | rep (t : Tid) (gN : BitVec 3) (cap : BitVec 8) (target : RepTarget) (tf : Form)
  | wait (t : Tid) (p : Guard) (mask : BitVec 16) (tsel : BitVec 5)
  | signal (t : Tid) (p : Guard) (gT : BitVec 4) (f : BitVec 4)
  | endInsn (t : Tid) (p : Guard) (f : Form)
  | trap (t : Tid) (p : Guard) (code : BitVec 8)
  | hlock (t : Tid) (p : Guard) (f : BitVec 4)
  | hfree (t : Tid) (p : Guard) (f : BitVec 4)
  | chw (t : Tid) (p : Guard) (gS : BitVec 4) (ch : BitVec 8) (w : BitVec 4)
  | che (t : Tid) (p : Guard) (gS : BitVec 4) (ch : BitVec 8) (w : BitVec 4)
  | chp (t : Tid) (p : Guard) (gS : BitVec 4) (ch : BitVec 8) (w : BitVec 4)
  -- helper instructions (R188 to R201)
  | crc (t : Tid) (p : Guard) (rd gA : BitVec 4) (poly : BitVec 3) (size : BitVec 2) (pi : Bool)
  | csadd (t : Tid) (p : Guard) (rd rs rt : BitVec 4)
  | csupd (t : Tid) (p : Guard) (rd rs rt : BitVec 4)
  | csupd32 (t : Tid) (p : Guard) (rd rs rt : BitVec 4)
  | csnot (t : Tid) (p : Guard) (rd rs rt : BitVec 4)
  | bswap32 (t : Tid) (p : Guard) (rd rs : BitVec 4)
  | bswap16 (t : Tid) (p : Guard) (rd rs : BitVec 4)
  | bswapH (t : Tid) (p : Guard) (rd rs : BitVec 4)
  | fcmp (t : Tid) (p : Guard) (pd : BitVec 3) (gA gB : BitVec 4) (n1 : BitVec 4) (cond : BitVec 2)
  | hash (t : Tid) (p : Guard) (rd rs rt : BitVec 4) (ksel : Bool)
  | hfin (t : Tid) (p : Guard) (rd rs : BitVec 4)
  | lkupMac (t : Tid) (p : Guard) (gS tbl : BitVec 4) (r : BitVec 3) (f : BitVec 4)
  | lkupLpm4 (t : Tid) (p : Guard) (gS tbl : BitVec 4) (r : BitVec 3) (f : BitVec 4)
  | lkupLpm6 (t : Tid) (p : Guard) (gS tbl : BitVec 4) (r : BitVec 3) (f : BitVec 4)
  | lkupStream (t : Tid) (p : Guard) (gS tbl : BitVec 4) (r : BitVec 3) (f : BitVec 4)
  | lkupExact (t : Tid) (p : Guard) (gS tbl : BitVec 4) (r : BitVec 3) (f : BitVec 4)
  | lread (t : Tid) (p : Guard) (gI tbl : BitVec 4) (r : BitVec 3) (f : BitVec 4)
  | learn (t : Tid) (p : Guard) (gS tbl : BitVec 4)
  | cnt (t : Tid) (p : Guard) (gI tbl gB : BitVec 4)
  | gcm (t : Tid) (p : Guard) (gP : BitVec 4) (r : BitVec 3) (f : BitVec 4) (lim : BitVec 8)
  | hmac (t : Tid) (p : Guard) (gP : BitVec 4) (r : BitVec 3) (f : BitVec 4) (lim : BitVec 8)
  -- register accesses of threads and of the lock bank
  | fclrWrite (t : Tid) (v : BitVec 16)
  | nowLoRead (t : Tid) (rd : BitVec 4)
  | threadRegWrite (t : Tid) (off : BitVec 8) (v : BitVec 16)
  | lockAcquire (m : BitVec 12) (group word : Fin 64)
  | lockClearAbandoned (m : BitVec 12) (group word : Fin 64)
  | lockRelease (m : BitVec 12) (group word : Fin 64)
  -- BAR0 and the windows
  | cmdCfgEnable (n : Fin 8) (v : BitVec 32)
  | cmdSqTailWrite (n : Fin 8) (v : BitVec 16)
  | cmdCqHeadWrite (n : Fin 8) (v : BitVec 16)
  | eventDoorbellWrite (v : BitVec 16)
  | txDoorbellWrite (n : Fin 4) (v : BitVec 16)
  | rxDoorbellPosted (n : Fin 16) (v : BitVec 16)
  | rxDoorbellConsumed (n : Fin 16) (v : BitVec 16)
  | attnMaskWrite (v : BitVec 32)
  | registerWrite (off : BitVec 16) (v : BitVec 32)
  | tableWindowWrite (addr : BitVec 26) (data : List Byte)
  | tableEntryLock (addr : BitVec 26) (v : BitVec 32)
  | tableEntryStage (addr : BitVec 26) (v : BitVec 32)
  | tableEntryCommit (addr : BitVec 26) (v : BitVec 32)
  | hostMemoryAccess (off : BitVec 35) (len : Fin 65) (a : MemAccess)
  -- the command channel's own events
  | commandAccept (f : Fetched)
  | commandComplete (i : Iface) (w : WriteEnd)
  | serviceFrameReceived (bytes : List Byte)
  | serviceReassemblyTimeout
  | servicePendingReply
  | serviceLinkDownTimeout
  | smbusCommand (code : Byte)
  -- resets, supplies, clocks
  | powerOn
  | resetNAssert
  | resetNRelease (e : BootEnv)
  | bootComplete
  | updateReset (c : UpdCause)
  | perstNAssert
  | hostLinkLoss
  | vddCoreBrownout
  | supplyRangeEnter (v : Fin 10) (mv : BitVec 16)
  | supplyRangeExit (v : Fin 10) (mv : BitVec 16)
  | tempSample (t : List (BitVec 16))
  | refclkLineLoss (k : Fin 4)
  | coreRefclkLoss
  | linkDown (p : Fin 32)
  | linkUp (p : Fin 32)
  -- the traverse
  | frameReceived (p : Fin 32) (f : RxFrame) (latch : Nat) (interp : BitVec 4)
  | parse (h : Hf)
  | classify (h : Hf)
  | admissionCheck (h : Hf)
  | dispatch (s : Fin 17)
  | residencyScan (s : Fin 17)
  | taskComplete (t : Tid)
  | waitTimeout (t : Tid)
  | operationTimer (s : Fin 17) (idx : BitVec 12)
  | lookupServe (s : Fin 17) (port : Fin 2)
  | lookupResult (s : Fin 17)
  | cryptoComplete (s : Fin 17)
  | stationStall (s : Fin 17)
  | stationStallLong (s : Fin 17)
  | passComplete (h : Hf)
  | release (h : Hf)
  | recirculate (h : Hf)
  | spill
  | deepRead (p : Fin 32) (q : Fin 16) (err : HbmErr)
  | dequeueSelect (p : Fin 36) (h : Hf)
  | egressEdit (p : Fin 36)
  | transmitComplete (p : Fin 32)
  | hostRxDeliver
  | registrarRxDeliver
  | hostTxFetch (n : Fin 4) (desc : List Byte) (data : List Byte)
  | captureWrite
  | captureWindowFreeze (w : Fin 4)
  | trigInEdge (k : Fin 4) (rising : Bool) (stamp : Nat)
  | trigOutPulseEnd (k : Fin 2)
  -- stations
  | faultAbort (s : Fin 17) (e : StnError) (addr : BitVec 32)
  | ceRateDrain (s : Fin 17)
  | drainEnd (s : Fin 17)
  | preparationStart
  | stationAdmit (c : CheckEnd)
  | spareCheck (s : Fin 17) (c : CheckEnd)
  -- tables
  | learnEventApply
  | peerBatchSend
  | ageClockTick
  | dampingClockTick
  | macSweepVisit
  | streamSweepVisit (h : Hf)
  | tableLockTimeout (slot : Fin 256)
  | tableRepair (addr : BitVec 26)
  | clsRepair (h : Hf) (idx : Fin 16384) (comparator : Bool)
  -- egress timing
  | gateEntryChange (p : Fin 32)
  | preemptVerifyResult (p : Fin 32) (ok : Bool)
  | queueSample
  -- editions
  | editionRetire (tag : Fin 4)
  | retireStuckTimeout (tag : Fin 4)
  | retireStuckCritical (tag : Fin 4)
  | commitClaimApply
  | claimHoldExpiry
  -- time
  | timeStepClear
  | slewEnd
  | ptpServoCorrection (offset : Option Int)
  | laneCalibration (lane : Fin 32) (ok : Bool)
  | ppsInEdge (interp : BitVec 3)
  | ppsInLost
  | ppsOutPulse
  | holdOffsetUpdate (ppb : BitVec 32)
  | oscHoldLost
  | synceSquelch (k : Fin 2)
  | synceHoldoffExpiry (k : Fin 2)
  -- HBM
  | hbmRefresh (pc : Fin 32)
  | hbmSelfRefreshEntry (c : Fin 16)
  | hbmPatrolScrub (err : HbmErr)
  | hbmTempRead (t : BitVec 16)
  -- faults and the log
  | faultReport (src : BitVec 8) (ty : BitVec 5) (cls : Fin 5) (reporter : BitVec 16) (a0 a1 a2 : BitVec 32)
  | coalesceWindowClose (src : BitVec 8) (ty : BitVec 5)
  | logWrite
  -- firmware
  | activationPauseResume
  | overwriteBlock
  | trialConfirm
  | trialSelfCheckFail
  | healthWindowExpiry
  | rollbackStep
  -- rows added to the end of the table
  | forcedHalt (t : Tid)
  | ppsOutPulseEnd
  | ptpMessageInterval (p : Fin 32) (m : PtpMsg) (h : Hf) (frame : List Byte)
  | ptpReferenceLost
  | folioCacheRefill (b : Fin 16)
  | perstNRelease
  | hostLinkTrained (cxl : Bool) (ide : Bool) (width rate : Byte)
  | servicePortLinkDown
  | servicePortLinkUp
  | jtagAccess (op : JtagOp)
  deriving DecidableEq, Repr

end Sys2Proof
end

