-- ==== Sys2Proof/Config.lean ====
section
/-! DEFINITION. What one implementation fixes and the values that the manual leaves open: constants without a body, so that no proof
can see what they are. -/

namespace Sys2Proof.Config

/-- What a read-and-clear counter reads after the `n`-th count beyond its width: the manual gives only the width (log entry 6). -/
opaque counterPast (id n : Nat) : BitVec 64

/-- Parcel at which the image of a graph of the edition with this serial is placed in program memory (log entry 7). -/
opaque imageParcel (serial graph : Nat) : BitVec 17

/-- Whether the addition of TIME cycle `n` is rounded up to 2^-32 ns (R351; log entry 8). -/
opaque datumRound (n : Nat) : Bool

/-- The word at a table-memory address of the LPM regions, given the installed routes as numbers (R276; log entry 9). -/
opaque lpmWord (addr : Nat) (routes : List (List Nat)) : BitVec 32

/-- The route whose trie words or record lie at a table-memory address of the LPM regions (R276, R281; log entry 9). -/
opaque lpmRoute (addr : Nat) (routes : List (List Nat)) : BitVec 20

/-- The word at a table-memory address of the stream-gate schedules, given the gate's record (R276; log entry 10). -/
opaque sgateWord (addr record : Nat) : BitVec 32

/-- The timeout of a WAIT whose operation carries no entry of that number, which the verifier refuses (R171; log entry 15). -/
opaque absentTimeout (graph node tsel : Nat) : BitVec 16

/-- The index field of a result with CODE RANGE, which names no entry (R196; log entry 17). -/
opaque rangeIndex (asked : Nat) : BitVec 32

/-- What a lookup through a table that is unbound or of the wrong kind answers: the verifier refuses it, and no result is stated (R194;
log entry 18). -/
opaque unboundLookup (graph tbl word : Nat) : BitVec 32

/-- The tag of a GMAC job whose block gives data bytes beside the additional data: no result is stated (R201; log entry 19). -/
opaque gmacData (key iv aad data : List Byte) : BitVec 128

/-- The slots that the emulation handler of a crypto major takes, at most its published bound (R210; log entry 20). -/
opaque emuSlots (major a p : Nat) : BitVec 32

/-- The latency that an emulated crypto instruction writes into its result slot (R196, R210; log entry 20). -/
opaque emuLatency (major a p : Nat) : BitVec 16

/-- The type of a line port as the board configures it (R16): 0 none, 1-8 as R410 numbers them; no command sets it (log entry 21). -/
opaque portType (port : Nat) : BitVec 4

/-- The fused latency constants of a port in units of 2^-16 ns (R352; log entry 21). -/
opaque rxLatency (port : Nat) : BitVec 32
opaque txLatency (port : Nat) : BitVec 32

/-- Byte `i` of the data of the `n`-th result for which there is no entry: a miss, an index out of range (R196; log entry 45). -/
opaque noEntryByte (n i : Nat) : BitVec 8

/-- The position of the `n`-th transmit start within its TIME cycle in steps of 0.1 ns (R352; log entry 31). -/
opaque txInterp (n : Nat) : BitVec 4

/-- A byte that a splice would take from beyond the head window: no content is stated for an invalid splice of a packet that goes to the
host (R342; log entry 32). -/
opaque beyondWindow (i : Nat) : BitVec 8

/-- The capture rule that the record of a packet carries which a program itself sends to port 35: none is stated (R384; log entry 34). -/
opaque plainCaptureRule (pkt : Nat) : BitVec 6

/-- Where in the deep region a spilled copy lies, a multiple of 64 bytes from its start: none is stated (R340; log entry 35). -/
opaque deepPlace (n : Nat) : BitVec 27

/-- The tag of the edition whose classifier copy an error has met, and the word of a channel message: a report does not name them (R82, R97,
R271; log entry 22). -/
opaque damagedTag (n : Nat) : BitVec 2
opaque damagedWord (n : Nat) : BitVec 4

/-- Bank and row of a line of the stack (R379, R432; log entry 35). -/
opaque hbmBank (line : Nat) : BitVec 32
opaque hbmRow (line : Nat) : BitVec 32

/-- The slew rate that the servo chooses at its `n`-th free choice (R368; log entry 24). -/
opaque servoRate (n : Nat) : BitVec 32

/-- The frequency offset in 2^-16 ppb to which the servo steers at its `n`-th free choice (R362; log entry 24). -/
opaque servoSteer (n : Nat) : BitVec 64

/-- The peer link delay that the Registrar computes from the `n`-th exchange, in 2^-16 ns (R359, R370; log entry 82). -/
opaque linkDelay (n : Nat) : BitVec 32

/-- The frequency that holdover takes from the oscillator's offset in ppb, in 2^-16 ppb (R362; log entry 25). -/
opaque holdSteer (n : Nat) (ppb : BitVec 32) : BitVec 64

/-- The manufacturer code of the IDCODE, which the BSDL file gives (R488; log entry 39). -/
opaque jtagMaker : BitVec 11

/-- The level of GPIO pin `n` at CORE cycle `t` while the board drives it (R487; log entry 39). -/
opaque gpioPin (n t : Nat) : Bool

/-- What CONTEXT_READ returns of a shelf entry that is not in use (R410; log entry 38). -/
opaque unusedContext (stn entry : Nat) : BitVec 576

/-- Byte `i` of the image that a new part carries in firmware slot A, and its length; byte `i` of the fused hash of the release key (R452,
R455; log entry 40). -/
opaque shippedByte (i : Nat) : BitVec 8
opaque shippedLen : BitVec 25
opaque releaseKeyHash (i : Nat) : BitVec 8

/-- The duration in µs of the commit that takes a serial number, before its limit of R96 (R110; log entry 42). -/
opaque commitUs (serial : Nat) : BitVec 32

/-- `hlp.emu_cost` of a major: the bound that the runtime library publishes for it (R210; log entry 20). -/
opaque emuCost (major : Nat) : BitVec 32

end Sys2Proof.Config
end

