-- ==== Sys2Proof/Machine/State.lean ====
section
/-! DEFINITION. The state of the OMK-1600 as plain data: time base, parameters and counters, editions, packets, stations and
threads, tables, buffer, traffic manager, HBM, host interface, faults, firmware, and the queue of waiting commands. Each field's
docstring names the rule that gives it. -/

namespace Sys2Proof.Machine

/-- A map from numbers to values in one canonical form: keys strictly rising, and no entry equal to what an unlisted key reads as. -/
abbrev Sparse (α : Type) := List (Nat × α)

/-! ### Time base (R349 to R370) -/

/-- A slew in progress (R367): signed rate in ppb, signed offset in 2^-16 ns, and TIME cycles run so far. -/
structure Slew where
  rate : Int := 0
  offset : Int := 0
  cycles : Nat := 0
  deriving DecidableEq, Repr

/-- The TIME_STEP reason in force (R54, R365): the step instant S in 2^-32 ns on the new scale (none while an adjustment treated as a
step is in progress), the CORE cycle from which the residency limit is counted, and the limit in ms in force at that instant. -/
structure StepWin where
  s : Option Nat := none
  since : Nat := 0
  lim : Nat := 0
  deriving DecidableEq, Repr

/-- The registers of Datum (R351, R360 to R363, R368). -/
structure Datum where
  /-- Datum time in units of 2^-32 ns since the PTP epoch (R351). -/
  units : Nat := 0
  /-- Number of TIME cycles counted since the time base started. -/
  cycle : Nat := 0
  /-- Frequency offset in 2^-16 ppb (R364). -/
  freq : Int := 0
  slew : Option Slew := none
  stepWin : Option StepWin := none
  /-- TIME_VALID (R368). -/
  valid : Bool := false
  /-- `time.state`: 0 FREE_RUN, 1 LOCKED, 2 HOLDOVER (R362). -/
  st : Nat := 0
  /-- The source followed while LOCKED: 0 PTP, 1 PPS_IN (R362). -/
  src : Nat := 0
  /-- A PTP reference can be followed (R362). -/
  ptpUp : Bool := false
  /-- `ptp.domain` as it has been set, none while the default of the profile is in force (R359, R370). -/
  domain : Option Nat := none
  /-- CORE cycle of the last PPS_IN edge, none when no edge has come or the pulse is lost (R360). -/
  ppsInAt : Option Nat := none
  /-- Datum stamp of the last PPS_IN edge in 2^-32 ns (R360). -/
  ppsInLast : Nat := 0
  /-- Phase of that stamp against the whole second in 2^-16 ns, while the servo has not used it (R360). -/
  ppsPhase : Option Int := none
  /-- PPS_OUT is high until this CORE cycle (R361). -/
  ppsOutUntil : Option Nat := none
  /-- Datum second of the last PPS_OUT pulse (R361), cleared by a step. -/
  ppsOutSec : Option Nat := none
  /-- OSC_HOLD_IN is present (R362). -/
  oscHold : Bool := true
  /-- SyncE output k is squelched, as it is while off (R363), and until which CORE cycle after the lock returned it still holds off. -/
  squelch : Sparse Bool := [(0, true), (1, true)]
  holdoff : Sparse (Option Nat) := []
  /-- Lanes whose interpolator failed its calibration (R354). -/
  badLanes : List Nat := []
  /-- CORE cycle of each lane's last calibration (R354). -/
  calAt : Sparse (Option Nat) := []
  /-- Transmit stamp queues of ports 0-31, oldest first, at most 64 records of 24 bytes (R356). -/
  txStamps : Sparse (List (List Byte)) := []
  deriving DecidableEq, Repr

/-- A trap that an instruction raises (R128): type, code, faulting address. -/
structure TrapInfo where
  ty : Nat
  code : Nat := 0
  addr : Nat := 0
  deriving DecidableEq, Repr

/-! ### Editions (R88 to R110) -/

/-- The figures of one contract, computed at the commit (R38, R44, R56). Times are in 0.1 ns. -/
structure Figs where
  half : Nat := 0
  bound : Nat := 0
  maxBound : Nat := 0
  tIn : Nat := 0
  tDispatch : Nat := 0
  tGraph : Nat := 0
  tOrder : Nat := 0
  tRelease : Nat := 0
  tQueue : Nat := 0
  tEgress : Nat := 0
  tReentry : Nat := 0
  tAllowance : Nat := 0
  serialisation : Nat := 0
  queuePort : Nat := 0
  queue : Nat := 0
  slotDemand : Nat := 0
  slotCapacity : Nat := 0
  threadDemand : Nat := 0
  threadCapacity : Nat := 0
  ownerMinimum : Nat := 0
  deriving DecidableEq, Repr

/-- A live edition (R88, R93, R102, R103, R109). -/
structure Live where
  serial : Nat := 0
  /-- Program commit (R96). -/
  prog : Bool := false
  /-- Edition parameters by ID (R88, R412). -/
  vals : Sparse Nat := []
  /-- Program images by graph number (R212). -/
  images : Sparse (Option (List Byte)) := []
  figs : Sparse (Option Figs) := []
  /-- Verified slot counts by graph (R224). -/
  slots : Sparse Nat := []
  /-- The largest helper-lock span of each graph, 0 when no operation of it takes the lock (R206, R207). -/
  spans : Sparse Nat := []
  /-- U and S_max of each role, as U × 2^32 + S_max, when an operation takes the helper lock (R207). -/
  lockUse : Sparse Nat := []
  /-- `bound.slew_allowance` at the commit (R57). -/
  slew : Nat := 0
  /-- CORE cycle of activation, and of supersession with the residency limit in ms then in force (R98, R103). -/
  actAt : Nat := 0
  superAt : Option Nat := none
  limAtSuper : Nat := 0
  /-- 0 not stuck, 1 reported major, 2 reported critical (R103), and the CORE cycle of the report. -/
  stuck : Nat := 0
  stuckAt : Nat := 0
  deriving DecidableEq, Repr

/-- The staged edition (R90, R91). -/
structure Staged where
  owner : Iface
  vals : Sparse Nat := []
  images : Sparse (Option (List Byte)) := []
  deriving DecidableEq, Repr

/-- A commit that waits in step 5 for its buffer claim: its command, the edition, and the CORE cycle at which the longest time of the step
has passed (R96, R323). -/
structure CommitWait where
  hdr : CmdHdr
  cand : Live
  deadline : Nat := 0
  deriving DecidableEq, Repr

structure Editions where
  /-- Live editions by tag (R95, R97). -/
  live : Sparse (Option Live) := []
  /-- Tag of the newest live edition. -/
  newest : Option Nat := none
  staged : Option Staged := none
  wait : Option CommitWait := none
  /-- Tag counts, key 4 × half + tag (R102). -/
  tagCount : Sparse Nat := []
  /-- A commit has been started since reset (R280). -/
  committed : Bool := false
  deriving DecidableEq, Repr

/-! ### Packets (R22, R58, R68, R70) -/

/-- Where a packet stands on the traverse (R13). -/
inductive Stage where
  | received
  | parsed
  | classified
  | inStation
  | complete
  | checked
  | released
  deriving DecidableEq, Repr

/-- A packet between its reception and the departure of its last copy. Its number is the descriptor index (R230), the index of its
first folio. -/
structure Packet where
  half : Hf := .west
  stage : Stage := .received
  /-- The descriptor (R22), as one 512-bit value. -/
  desc : BitVec 512 := 0
  /-- Head window, bytes 0-255; unlisted bytes read zero (R58). -/
  head : Sparse Byte := []
  /-- Tail window, thread addresses 0x0100-0x011F as 0-31 (R58). -/
  tail : Sparse Byte := []
  /-- Metadata area, thread addresses 0x0160-0x01FF as 0-159 (R70). -/
  metadata : Sparse Byte := []
  /-- Folios of the frame, in order (R315). -/
  folios : List Nat := []
  /-- Length at which the pass's parser accepted the frame (R342). -/
  len0 : Nat := 0
  /-- Fraction of the ingress stamp in 2^-16 ns (R349, R352). -/
  frac : Nat := 0
  /-- The account charged, 0-63 owners, 64 internal; none before the admission check (R319). -/
  account : Option Nat := none
  contract : Option Nat := none
  policer : Option Nat := none
  capture : Option Nat := none
  /-- The exception reason 1-10, 0 when none (R83). -/
  reason : Nat := 0
  /-- The packet holds no accession number because its domain was full (R244). -/
  domainFull : Bool := false
  /-- A stream lookup marked it a duplicate (R308). -/
  duplicate : Bool := false
  /-- An internal bus corrupted its data (R426). -/
  corrupt : Bool := false
  /-- Its descriptor and the release unit's shadow of it have both failed: it never releases (R249, R427). -/
  dead : Bool := false
  /-- Egress port and queue to which the Registrar sends a packet of its own (R291). -/
  direct : Option (Nat × Nat) := none
  /-- The packet is to be released as a hole. -/
  hole : Bool := false
  /-- The packet has been recorded in this pass (R383). -/
  recorded : Bool := false
  /-- For each context byte that a task of the pass has written back, the END that wrote it: its completion cycle × 128 + lane (R147). -/
  wrote : Sparse Nat := []
  /-- The trap record of the first trapping task (R130, R131). -/
  trap : Option (List Byte) := none
  /-- A task of the pass has trapped, or the pass has been cancelled with this disposition (R130, R240, R241). -/
  cancel : Option Nat := none
  /-- The station that runs the pass (R117). -/
  station : Nat := 0
  /-- The CORE cycle in which its arrival was recorded. -/
  arrived : Nat := 0
  /-- Copies that still hold the packet (R317). -/
  copies : Nat := 0
  /-- CORE cycle from which a complete packet is releasable (R246). -/
  relAt : Nat := 0
  deriving DecidableEq, Repr

/-- The state of one half: the FIFOs between its blocks, its accession counters and pointers, and its faulty classifier entries. -/
structure HalfState where
  /-- Frames whose FCS verdict is complete, in verdict order (R61). -/
  rxQ : List Nat := []
  /-- Parsed packets, in parser order. -/
  clsQ : List Nat := []
  /-- Classified packets, in parser order. -/
  admQ : List Nat := []
  /-- Complete packets on which the release unit has not yet acted, and parked ones (R245, R246). -/
  relQ : List Nat := []
  /-- By order domain: the next accession number, and the number that releases next (R80, R84, R247). -/
  accession : Sparse Nat := []
  next : Sparse Nat := []
  /-- Classifier rules with a parity error by number and record, which together stand for a slot, and comparator copies by number and tag (R82,
  R97). -/
  badRules : List (Nat × Nat) := []
  badComps : List (Nat × Nat) := []
  deriving DecidableEq, Repr

/-! ### Stations and threads (R111 to R141, R142 to R181) -/

/-- What a thread does (R119). A SHELVED thread is one whose home shelf entry is occupied. -/
inductive ThrSt where
  | idle
  | running
  | trapped
  | halted
  | off
  deriving DecidableEq, Repr

/-- A pending WAIT (R173): its mask and the CORE cycle t + T. -/
structure WaitSt where
  mask : BitVec 16 := 0
  deadline : Nat := 0
  /-- The masked flags were all set in time while the task was shelved (R173). -/
  satisfied : Bool := false
  deriving DecidableEq, Repr

/-- An open channel message (R179, R265). -/
structure OpenMsg where
  ch : Nat := 0
  words : Sparse Word := []
  deriving DecidableEq, Repr

/-- A halt request that waits for its boundary (R272, R273). -/
structure HaltReq where
  entry : Nat := 0
  since : Nat := 0
  hdr : Option CmdHdr := none
  deriving DecidableEq, Repr

/-- A hardware thread (R120, R142, R148). -/
structure Thread where
  st : ThrSt := .idle
  /-- g1-g15; g0 is never listed and reads zero. -/
  g : Sparse Word := []
  /-- p1-p7 in bits 7:1; bit 0 is not used, p0 reads 1. -/
  preds : BitVec 8 := 0
  pc : BitVec 18 := 0
  repActive : Bool := false
  repLeft : BitVec 8 := 0
  wbank : BitVec 16 := 0
  lkgrp : BitVec 16 := 0
  tbase : BitVec 16 := 0
  chsel : BitVec 16 := 0
  nowHi : Word := 0
  slots : Word := 0
  /-- Index of the running task in the task store. -/
  task : Nat := 0
  wait : Option WaitSt := none
  /-- END has issued; the task completes later (R176). -/
  ended : Bool := false
  /-- CORE cycle from which the task may complete (R176). -/
  endAt : Nat := 0
  /-- The task's copies of the head window and the descriptor (R147). -/
  head : Sparse Byte := []
  desc : BitVec 512 := 0
  /-- Thread addresses 0x0000-0x015F that the task has stored to (R147). -/
  stored : List Nat := []
  openMsg : Option OpenMsg := none
  halt : Option HaltReq := none
  /-- The CORE cycle of the dispatch (R238). -/
  since : Nat := 0
  /-- The commit cycle of the thread's last instruction (R150), and the cycle of the last event that squashed what the thread had issued and
  not committed (R185). -/
  lastAt : Option Nat := none
  squashAt : Option Nat := none
  /-- The trap that a TRAPPED thread handles, and its short stamp (R119, R129, R131). -/
  trap : Option (TrapInfo × Nat) := none
  deriving DecidableEq, Repr

/-- A request for the helper lock (R205). -/
structure LockReq where
  lane : Nat := 0
  task : Nat := 0
  flag : Nat := 0
  bounded : Bool := false
  since : Nat := 0
  deriving DecidableEq, Repr

/-- What a shelf entry holds (R121): a context of a pre-empted task, of a trap, or of a debugger halt; `reserved` is a snapshot entry
taken by a halt that has not yet taken effect (R272). -/
inductive ShelfKind where
  | home
  | trapped
  | halted
  | reserved
  deriving DecidableEq, Repr

structure ShelfEnt where
  kind : ShelfKind := .home
  /-- core × 8 + thread that the context belongs to. -/
  lane : Nat := 0
  thread : Thread := {}
  /-- CORE cycles left of a WAIT frozen by a halt (R273). -/
  frozen : Nat := 0
  /-- A trap entry whose record has been sent may be used again (R131). -/
  reusable : Bool := false
  /-- The trap record kept with a trap context (R131). -/
  record : List Byte := []
  /-- A request for the helper lock that pre-emption has withdrawn and that is made again at the resumption (R205). -/
  relock : Option LockReq := none
  deriving DecidableEq, Repr

/-- The state of a task-store entry (R230). -/
inductive TaskSt where
  | free
  | pending
  | ready
  | running
  | shelved
  | done
  deriving DecidableEq, Repr

/-- A task-store entry (R230), and its operation timer (R231). -/
structure Task where
  gen : BitVec 12 := 0
  st : TaskSt := .free
  node : Nat := 0
  graph : Nat := 0
  cls : Nat := 0
  tag : Nat := 0
  pass : Nat := 0
  flags : BitVec 16 := 0
  mask : BitVec 16 := 0
  key : BitVec 32 := 0
  thread : Nat := 0
  pkt : Nat := 0
  /-- CORE cycle in which the task became ready (R234). -/
  readyAt : Nat := 0
  /-- The CORE cycle in which each event flag was last set (R173). -/
  flagAt : Sparse Nat := []
  /-- CORE cycle of the operation timer (R231). -/
  timerAt : Option Nat := none
  /-- The task was cancelled before it could run (R129, R241). -/
  cancelled : Bool := false
  deriving DecidableEq, Repr

/-- A lookup request in a port (R194, R198). -/
structure LookReq where
  lane : Nat := 0
  /-- Task-store index and generation of the requesting task, and its class. -/
  task : Nat := 0
  gen : BitVec 12 := 0
  cls : Nat := 0
  /-- 0-4 LKUP kind, 5 LREAD, 6 LEARN, 7 CNT. -/
  kind : Nat := 0
  part : Nat := 0
  key : List Byte := []
  index : Nat := 0
  bytes : Nat := 0
  slot : Nat := 0
  flag : Nat := 0
  issued : Nat := 0
  /-- The half whose engines perform it (R193). -/
  half : Nat := 0
  ingress : Nat := 0
  stamp : Nat := 0
  pkt : Nat := 0
  deriving DecidableEq, Repr

/-- A result on its way to its slot (R196). -/
structure LookRes where
  req : LookReq := {}
  code : Nat := 0
  index : Nat := 0
  data : List Byte := []
  deriving DecidableEq, Repr

/-- A helper result slot (R196) and the handle of its owner (R195). -/
structure Slot where
  st : Nat := 0
  kind : Nat := 0
  code : Nat := 0
  index : Nat := 0
  latency : Nat := 0
  data : List Byte := []
  owner : Nat := 0
  deriving DecidableEq, Repr

/-- A crypto job in progress (R202). -/
structure Job where
  lane : Nat := 0
  task : Nat := 0
  gen : BitVec 12 := 0
  cls : Nat := 0
  kind : Nat := 0
  slot : Nat := 0
  flag : Nat := 0
  issued : Nat := 0
  doneAt : Nat := 0
  code : Nat := 0
  tag : List Byte := []
  /-- Output bytes and the address they are written to. -/
  outAddr : Nat := 0
  out : List Byte := []
  deriving DecidableEq, Repr

/-- A refused crypto instruction in the emulation handler (R210): its job, the handler's slots still to be used, whether its budget ends
before it does, and the latency that its slot will show. -/
structure Emu where
  job : Job := {}
  left : Nat := 0
  spent : Bool := false
  latency : Nat := 0
  /-- What the thread and its slot were before the instruction, to which EMULATION_BUDGET returns them. -/
  pc : BitVec 18 := 0
  repActive : Bool := false
  repLeft : BitVec 8 := 0
  slot : Slot := {}
  deriving DecidableEq, Repr

/-- The issue slots of one core (R125): the CORE cycle they were last used in, the lanes that used them in it, those among them that won a
reclaimed slot, and the thread that last won one. -/
structure CoreSlots where
  cyc : Nat := 0
  used : List Nat := []
  won : Nat := 0
  last : Nat := 7
  deriving DecidableEq, Repr

/-- An image in a station's program memory (R97, R111): its first byte address, its bytes, and the edition serials and graphs that use it. -/
structure ProgSeg where
  addr : Nat := 0
  bytes : List Byte := []
  users : List (Nat × Nat) := []
  deriving DecidableEq, Repr

/-- A planned drain (R134): the CORE cycle at which it overruns, the state it ends in, and what follows. -/
structure Drain where
  deadline : Nat := 0
  toFailed : Bool := false
  readmit : Option CmdHdr := none
  deriving DecidableEq, Repr

/-- A station (R111): role, state, memories, threads, task store, shelf, helper ports, helper lock and crypto helper. -/
structure Station where
  /-- Role code (R114). -/
  role : Nat := 0x1F
  /-- 0 IN_SERVICE, 1 SPARE, 2 DRAINING, 3 PREPARING, 4 OUT, 5 FAILED (R141). -/
  st : Nat := 4
  halted : Bool := false
  threads : Sparse Thread := []
  /-- Program memory (R111). -/
  prog : List ProgSeg := []
  /-- Issue slots by core (R125). -/
  cores : Sparse CoreSlots := []
  /-- Threads in the emulation handler (R210). -/
  emu : List Emu := []
  /-- Station memory: bytes 0-98303 flow scratch (8 KiB per core), 98304-524287 shared data (13 banks), 524288-917503 thread scratch. -/
  mem : Sparse Byte := []
  tasks : Sparse Task := []
  shelf : Sparse (Option ShelfEnt) := []
  /-- Affinity table: core × 256 + graph (R237). -/
  affinity : Sparse (Option Nat) := []
  slots : Sparse Slot := []
  port0 : List LookReq := []
  port1 : List LookReq := []
  /-- Lane last served by each port (R198). -/
  last0 : Nat := 95
  last1 : Nat := 95
  results : List LookRes := []
  job : Option Job := none
  lockHolder : Option LockReq := none
  lockQueue : List LockReq := []
  /-- CORE cycle of the last issue of any thread, and of the start of the present stall count (R251). -/
  idleSince : Nat := 0
  /-- STATION_STALL (1) and STATION_STALL_LONG (2) reported in this episode. -/
  stallSeen : Nat := 0
  /-- CORE cycle in which the task store became empty, while it is: the stall count does not run (R251). -/
  emptyAt : Option Nat := none
  drain : Option Drain := none
  /-- CORE cycle of the last self-check or preparation (R139). -/
  checked : Nat := 0
  /-- Next entry of the residency scan (R241). -/
  scan : Nat := 0
  deriving DecidableEq, Repr

/-- The sources of event flags that arrive later than their cause (R231): a SIGNAL, a predecessor's completion, a grant of the helper
lock. -/
inductive FlagSrc where
  | signal
  | pred
  | grant
  deriving DecidableEq, Repr

/-- A delayed effect inside the device and the CORE cycle at which it falls due. -/
inductive Effect where
  /-- An event flag of a task (R174, R205, R225, R231). -/
  | setFlag (s task : Nat) (gen : BitVec 12) (flag : Nat) (src : FlagSrc)
  /-- A thread control register write (R148). -/
  | threadReg (s lane : Nat) (off : Nat) (v : BitVec 16)
  /-- A channel arrival (R267). -/
  | arrival (half : Nat) (ch : Nat)
  /-- The end of a thread's trap handling (R129). -/
  | trapEnd (s lane : Nat)
  /-- A store of CPY by a thread, at the latency of its source range (R165): to station memory, to a lock word, or to table memory. -/
  | memStore (s lane place : Nat) (bs : List Byte)
  | lockStore (s lane word v task : Nat) (refused : Bool)
  | tblStore (s lane a : Nat) (bs : List Byte)
  deriving DecidableEq, Repr

/-- A preparation in progress (R136): the station, its target role (none for a spare), the command that waits for its end. -/
structure Prep where
  s : Nat := 0
  target : Option Nat := none
  readmit : Option CmdHdr := none
  since : Nat := 0
  deriving DecidableEq, Repr

/-! ### Locks and channels (R253 to R275) -/

/-- A held bank lock: the master, the word (group × 64 + word), and the task that took it (R258, R260). -/
structure Held where
  master : Nat := 0
  word : Nat := 0
  task : Nat := 0
  deriving DecidableEq, Repr

/-- A channel (R265): published messages, oldest first, with their damage marks, and the number of open slots. -/
structure Chan where
  pub : List (Sparse Word × Bool) := []
  opens : Nat := 0
  deriving DecidableEq, Repr

/-! ### Tables (R276 to R314) -/

/-- An LPM route (R301, R302). -/
structure Route where
  family : Nat := 4
  len : Nat := 0
  pfx : Nat := 0
  result : Nat := 0
  deriving DecidableEq, Repr

/-- A policer's dynamic state (R312, R313). -/
structure Policer where
  enable : Bool := false
  mode : Nat := 0
  rate : Nat := 1
  burst : Nat := 1
  action : Nat := 0
  /-- Units of 1/65,536 packet or byte. -/
  tokens : Nat := 0
  /-- Remainder of the last refill, in units of 1/(65,536 × 10^9). -/
  remainder : Nat := 0
  /-- Short stamp of the last refill. -/
  last : Nat := 0
  conform : Nat := 0
  exceed : Nat := 0
  deriving DecidableEq, Repr

/-- What an event of the learn sequence does (R283, R284, R290, R297). -/
inductive LearnKind where
  | learn (logical : Nat) (peer : Bool)
  | delete (age : Nat)
  | peerDelete
  | flushPort (p : Nat)
  | flushCmd (sel port fid : Nat) (key : List Byte) (static : Bool) (hdr : CmdHdr)
  | lockEntry (idx : Nat)
  | commitEntry (idx : Nat) (bytes : List Byte)
  | unlockEntry (idx : Nat)
  deriving DecidableEq, Repr

/-- An event of the learn sequence with its sort key: stamp in ns, port, order of submission (R283). -/
structure LearnEv where
  stamp : Nat := 0
  port : Nat := 0
  order : Nat := 0
  half : Nat := 0
  key : List Byte := []
  kind : LearnKind := .learn 0 false
  deriving DecidableEq, Repr

/-- A staging slot of the window's lock protocol (R297). -/
structure LockSlot where
  addr : Nat := 0
  len : Nat := 0
  copy : List Byte := []
  since : Nat := 0
  deriving DecidableEq, Repr

structure Tables where
  /-- Table memory but for the policers and the LPM regions, one byte per address (R276). -/
  mem : Sparse Byte := []
  /-- Table-memory words (address ÷ 4) whose parity is bad (R281). -/
  bad : Sparse Bool := []
  slots : Sparse (Option LockSlot) := []
  routes : Sparse (Option Route) := []
  /-- Routes whose trie words or record have bad parity in a half's copy, by half × 2^20 + handle (R196, R281). -/
  badRoutes : Sparse Bool := []
  pol : Sparse Policer := []
  learnQ : List LearnEv := []
  learnOrder : Nat := 0
  /-- Age clock and damping clock (R287, R292), and the CORE cycles of their next ticks. -/
  age : BitVec 12 := 0
  ageNext : Nat := 0
  damp : BitVec 6 := 0
  dampNext : Nat := 0
  /-- Next MAC and stream entries of the sweepers, and the CORE cycles of their passes' starts (R292, R310). -/
  macSweep : Nat := 0
  macSweepAt : Int := 0
  strSweep : Sparse Nat := []
  strSweepAt : Sparse Int := []
  /-- Stream gates: the record in force before the present one, and the time in ns from which the present one is (R311). -/
  sgateOld : Sparse Nat := []
  sgateAt : Sparse Nat := []
  /-- Peer records that wait for a frame, and the CORE cycle of the first (R291). -/
  peerRecs : List (List Byte) := []
  peerSince : Nat := 0
  deriving DecidableEq, Repr

/-! ### Buffer and traffic manager (R315 to R348) -/

/-- A folio in use (R315, R317); an unlisted folio is free. -/
structure Folio where
  refs : Nat := 0
  data : List Byte := []
  next : Option Nat := none
  /-- An uncorrectable error lies in the data or the link word (R318). -/
  bad : Bool := false
  /-- The account charged (R319, R320): 0-63 owners, 64 internal, 65 not yet admitted (Q), 66 none. -/
  acct : Nat := 65
  deriving DecidableEq, Repr

/-- A bank's free folios (R316), as ordinals i of folio 16 × i + bank: the head cache, the folios freed onto the list (head first), and
the first ordinal never yet taken from the boot chain. -/
structure Bank where
  cache : List Nat := List.range 64
  freed : List Nat := []
  fresh : Nat := 64
  /-- End of the boot chain, cut by a damaged link word (R318). -/
  stop : Nat := 24576
  deriving DecidableEq, Repr

structure Buffer where
  folios : Sparse (Option Folio) := []
  banks : Sparse Bank := []
  /-- Bank pointers of the writers: line ports 0-31, ports 32, 33, 34 (R316). -/
  ptr : Sparse Nat := []
  /-- Folios charged to accounts 0-63 and 64, the internal account (R319, R320). -/
  used : Sparse Nat := []
  /-- Folios of frames that have not passed the admission check (R320). -/
  waiting : Nat := 0
  /-- The BUFFER demands in force for owners 0-63, and what the settings add to them: `buf.owner[o].floor`, and at 64 `buf.internal.min`, 1,024
  at reset (R44, R319, R323). -/
  minima : Sparse Nat := []
  floors : Sparse Nat := [(64, 1024)]
  /-- Pending claim C and the CORE cycle at which its hold time ends (R323). -/
  claim : Nat := 0
  claimUntil : Nat := 0
  deriving DecidableEq, Repr

/-- A queue entry of the traffic manager (R326, R327, R340). -/
structure Copy where
  pkt : Nat := 0
  cls : Nat := 0
  tag : Nat := 0
  half : Nat := 0
  /-- Frame length with the bytes its port adds, and the counted length (R327). -/
  len : Nat := 0
  counted : Nat := 0
  /-- Datum time of the enqueue in 2^-32 ns (R347). -/
  enq : Nat := 0
  /-- 0 in SRAM, 1 waiting for the spill writer, 2 in HBM, 3 read back (R340, R341). -/
  place : Nat := 0
  /-- The frame bytes of a copy whose data lie in HBM, and the folios of one that has been read back (R340, R341). -/
  data : List Byte := []
  own : List Nat := []
  /-- The device address of a copy whose data lie in HBM (R340). -/
  addr : Nat := 0
  reason : Nat := 0
  /-- Capture rule of a copy on port 35, and whether it is a hole's (R383). -/
  rule : Nat := 0
  disp : Nat := 0
  /-- Sequence number that a redundancy edit gives it (R343). -/
  seq : Nat := 0
  deriving DecidableEq, Repr

/-- A copy that a port has selected, and what the editor made of it (R331, R342, R345). -/
structure TxCopy where
  copy : Copy := {}
  queue : Nat := 0
  /-- The bytes sent, FCS included; none before the edit. Before the edit `egress` holds the time of the dequeue (R353). -/
  out : Option (List Byte) := none
  egress : Nat := 0
  deriving DecidableEq, Repr

/-- A token-bucket shaper (R332, R333): credit in 2^-24 byte, remainder in 2^-24 byte ÷ 10^7, PKT cycle of the last update. -/
structure Shaper where
  enable : Bool := false
  rate : Nat := 0
  burst : Nat := 64
  credit : Int := 0
  remainder : Nat := 0
  last : Nat := 0
  deriving DecidableEq, Repr

structure PortState where
  link : Bool := false
  tx : Option TxCopy := none
  /-- DWRR pointer, fresh marks and deficits (R330). -/
  ptr : Nat := 0
  fresh : BitVec 16 := 0xFFFF
  deficit : Sparse Nat := []
  /-- 0 pending, 1 verified, 2 failed (R339). -/
  verify : Nat := 0
  /-- A hold of the gate list is in force (R338). -/
  hold : Bool := false
  /-- The gate list that the port follows, 0xFF for none; the next one and the Datum time in 2^-32 ns of its first cycle start (R337). -/
  gcl : Nat := 0xFF
  gclNext : Option Nat := none
  gclAt : Nat := 0
  /-- Index of the entry that the port has last entered (R337). -/
  gateIdx : Nat := 0
  /-- A preemptable frame that an express frame or a hold has interrupted (R338). -/
  held : Option TxCopy := none
  deriving DecidableEq, Repr

structure TM where
  queues : Sparse (List Copy) := []
  ports : Sparse PortState := []
  /-- Key 17 × port + queue, queue 16 for the port shaper. -/
  shapers : Sparse Shaper := []
  /-- The whole microsecond of Datum time last sampled (R347). -/
  samples : Nat := 0
  deriving DecidableEq, Repr

/-! ### HBM and capture (R371 to R394) -/

/-- A capture window (R388, R389, R392). -/
structure Window where
  st : Nat := 0
  flags : Nat := 0
  sources : Nat := 0
  triggers : Nat := 0
  firstSeq : Nat := 0
  lastSeq : Nat := 0
  records : Nat := 0
  start : Nat := 0
  stop : Nat := 0
  /-- T in 2^-32 ns. -/
  trigger : Nat := 0
  /-- Datum time in 2^-32 ns at which the post extent ends. -/
  untilT : Nat := 0
  deriving DecidableEq, Repr

/-- A record of the archive that is still present: sequence number, HDM offset, length, the millisecond of Datum time it was written in, and
that of the record before it (R385, R389). -/
structure CapRec where
  seq : Nat := 0
  off : Nat := 0
  len : Nat := 0
  ms : Nat := 0
  prev : Option Nat := none
  pad : Bool := false
  deriving DecidableEq, Repr

structure Hbm where
  /-- Contents of the capture and host regions by HDM offset (R381). -/
  mem : Sparse Byte := []
  /-- Healthy channels (R373). -/
  healthy : BitVec 16 := 0
  /-- Sizes in force in units of 2^29 bytes: deep, capture, host (R371, R374). -/
  deep : Nat := 0
  capture : Nat := 0
  host : Nat := 0
  /-- Channels in self-refresh (R378), the CORE cycle of each channel's last request, and refreshes postponed per pseudo-channel (R377). -/
  selfRefresh : BitVec 16 := 0
  lastReq : Sparse Nat := []
  postponed : Sparse Nat := []
  /-- The refresh interval is halved: the die is above 85 °C (R377). -/
  hot : Bool := false
  /-- Next line of the patrol scrub, the CORE cycle from which the next pass may begin, and lines marked poisoned (R379, R380). -/
  scrub : Nat := 0
  scrubNext : Nat := 0
  poisoned : Sparse Bool := []
  /-- Capture-region lines that the host may hold, oldest first (R381). -/
  snoop : List Nat := []
  /-- The copies in the capture writer's staging buffer, oldest first (R377, R384), and the panic of the capture writer and of the deep reader
  (R377). -/
  staged : List Copy := []
  capPanic : Bool := false
  deepPanic : Bool := false
  /-- Next capture record: offset in the region and sequence number (R385, R386). -/
  head : Nat := 0
  seq : Nat := 0
  recs : List CapRec := []
  /-- Millisecond of Datum time of the newest record (R389), and that no unprotected space is left (R390). -/
  lastMs : Option Nat := none
  full : Bool := false
  windows : Sparse Window := []
  /-- TIME cycle of the last trigger and what became of it: its window, 8 more when it was merged, 4 when it was refused (R387), and the accepted edges of TRIG_IN (R387). -/
  lastTrig : Option (Nat × Nat) := none
  trigAt : Sparse (Option Nat) := []
  /-- TRIG_OUT[k] pulses end at these CORE cycles (R393). -/
  trigOut : Sparse (Option Nat) := []
  deriving DecidableEq, Repr

/-! ### Host interface (R395 to R423) -/

/-- A reply that waits for its completion (R402, R407). -/
structure Reply where
  iface : Iface := .service
  opcode : Nat := 0
  status : Nat := 0
  tag : BitVec 32 := 0
  payload : List Byte := []
  deriving DecidableEq, Repr

/-- A command accepted and not yet completed (R403). -/
structure Running where
  opcode : Nat := 0
  flags : BitVec 16 := 0
  tag : BitVec 32 := 0
  rsvd : BitVec 32 := 0
  params : List Byte := []
  since : Nat := 0
  replyCap : Nat := 0
  /-- Where the reply goes (R401). -/
  replyAddr : Nat := 0
  deriving DecidableEq, Repr

/-- A completion entry with the reply bytes written before it (R402, R407). -/
structure Completion where
  tag : BitVec 32 := 0
  status : Nat := 0
  sqHead : Nat := 0
  replyLen : Nat := 0
  phase : Bool := true
  truncated : Bool := false
  opcode : Nat := 0
  reply : List Byte := []
  deriving DecidableEq, Repr

/-- A command ring (R398 to R405). -/
structure Ring where
  baseLo : BitVec 32 := 0
  baseHi : BitVec 32 := 0
  enable : Bool := false
  error : Bool := false
  cause : Nat := 0
  log2n : Nat := 0
  sqTail : Nat := 0
  cqHead : Nat := 0
  /-- The device's submission head and completion tail (R400, R402). -/
  sqHead : Nat := 0
  cqTail : Nat := 0
  phase : Bool := true
  running : Option Running := none
  /-- Completions beyond CQ_HEAD, oldest first. -/
  cq : List Completion := []
  deriving DecidableEq, Repr

/-- A packet transmit ring (R416). -/
structure TxRing where
  prod : Nat := 0
  cons : Nat := 0
  stopped : Bool := false
  deriving DecidableEq, Repr

/-- A packet receive ring (R417): descriptors that the device has written and the host has not consumed. -/
structure RxRing where
  posted : Nat := 0
  consumed : Nat := 0
  filled : Nat := 0
  phase : Bool := true
  stopped : Bool := false
  /-- Bytes 8 to 63 of a descriptor, and the bytes written to its buffer. -/
  descs : List (List Byte × List Byte) := []
  deriving DecidableEq, Repr

/-- A command in reassembly on the service port (R419). -/
structure Reassembly where
  sa : List Byte := []
  nextSeg : Nat := 0
  bytes : List Byte := []
  since : Nat := 0
  deriving DecidableEq, Repr

structure Service where
  link : Bool := false
  downSince : Option Nat := none
  reasm : Option Reassembly := none
  /-- Waiting commands: requester and packet (R419). -/
  queue : List (List Byte × List Byte) := []
  running : Option (List Byte × Running) := none
  /-- CORE cycle of the last ST_PENDING reply (R419). -/
  pendingAt : Nat := 0
  /-- The last 16 completed commands: requester, tag, reply packet (R419). -/
  last16 : List (List Byte × BitVec 32 × List Byte) := []
  /-- Reply frames' packets sent and not yet taken: requester and reply packet, at most the last 16. -/
  sent : List (List Byte × List Byte) := []
  deriving DecidableEq, Repr

/-- An event-ring entry (R415). -/
structure Event where
  code : Nat := 0
  cls : Nat := 0
  phase : Bool := true
  seq : Nat := 0
  stamp : Nat := 0
  detail : List Byte := []
  deriving DecidableEq, Repr

structure HostIf where
  /-- The host link is trained (R395, R445), PERST_N is low, and LINK_INFO (R399). -/
  link : Bool := false
  perst : Bool := false
  cxl : Bool := true
  ide : Bool := false
  width : Byte := 0
  rate : Byte := 0
  scratch : BitVec 32 := 0
  attnMask : BitVec 32 := 0xFFF
  msixMode : BitVec 32 := 0
  eventBaseLo : BitVec 32 := 0
  eventBaseHi : BitVec 32 := 0
  eventCfg : BitVec 32 := 0
  eventHead : Nat := 0
  eventTail : Nat := 0
  eventPhase : Bool := true
  eventSeq : Nat := 0
  /-- Event-ring entries beyond the host head, oldest first (R415). -/
  events : List Event := []
  rings : Sparse Ring := []
  txRings : Sparse TxRing := []
  rxRings : Sparse RxRing := []
  /-- Interface last accepted, 0-7 rings, 8 the service port (R403). -/
  lastAcc : Nat := 8
  /-- Transmit ring last fetched (R416). -/
  lastTx : Nat := 3
  /-- Replies that wait for their completion, oldest first. -/
  done : List Reply := []
  /-- Words of the MSI-X table at BAR0 0x8000 (R397). -/
  msixTable : Sparse (BitVec 32) := []
  /-- MSI-X messages sent: vectors, latest first, at most 16 (R421). -/
  msix : List Nat := []
  /-- Pending-bit view of the last evaluation of ATTN_PENDING (R421). -/
  attnSeen : BitVec 32 := 0
  svc : Service := {}
  /-- Last SMBus answer (R486). -/
  smbus : List Byte := []
  /-- Data of the last host read of HBM: bytes, or poison (R379, R381). -/
  memRead : Option (List Byte) := none
  deriving DecidableEq, Repr

/-! ### Faults and the log (R430 to R444, R495) -/

/-- A pair record of the aggregator (R433, R438). -/
structure Pair where
  cls : Nat := 0
  openWin : Bool := false
  closeAt : Nat := 0
  latched : Bool := false
  count : Nat := 0
  first : Nat := 0
  last : Nat := 0
  /-- Class of the report that latched the pair. -/
  latchedCls : Nat := 0
  /-- Order in which the window was opened. -/
  order : Nat := 0
  /-- Index of the log entry of the open window, when written. -/
  logIdx : Option Nat := none
  deriving DecidableEq, Repr

/-- An entry of the event log (R441). -/
structure LogEnt where
  code : Nat := 0
  cls : Nat := 0
  flags : Nat := 0
  seq : Nat := 0
  time : List Byte := []
  boot : Nat := 0
  edition : Nat := 0
  detail : List Byte := []
  count : Nat := 1
  last : Nat := 0
  fw : Nat := 0
  timeState : Nat := 0
  /-- CORE cycle in which it was written, in the present boot (R442). -/
  wroteAt : Nat := 0
  deriving DecidableEq, Repr

structure Faults where
  pairs : Sparse (Option Pair) := []
  total : Nat := 0
  orders : Nat := 0
  fatal : Bool := false
  /-- Conditions that hold: temperature, supplies out of range, degraded HBM, editions stuck critical (R439). -/
  tempOut : Bool := false
  supplyOut : BitVec 10 := 0
  /-- Entries that wait for the Registrar's log write (R442). -/
  logQ : List LogEnt := []
  /-- Entries written in the present second, its start, and a dropped mark (R442). -/
  logCount : Nat := 0
  logSince : Nat := 0
  logLoss : Bool := false
  deriving DecidableEq, Repr

/-! ### Record store, fuses and firmware (R445 to R470) -/

/-- A journal record (R456). -/
structure Journal where
  seq : Nat := 0
  state : Nat := 0
  active : Nat := 0
  target : Nat := 0xFF
  slotA : Nat := 4
  slotB : Nat := 0
  cause : Nat := 0
  level : Nat := 0
  length : Nat := 0
  nextBlock : Nat := 0
  version : Nat := 0
  digest : List Byte := []
  boot : Nat := 0
  deriving DecidableEq, Repr

/-- The record store (R455): everything that survives a reset. -/
structure Store where
  slotA : List Byte := []
  slotB : List Byte := []
  journal : Journal := {}
  /-- Settings banks 0 and 1: the persistent parameters of R470 by ID. -/
  banks : Sparse (Option (Sparse Nat)) := []
  /-- Formats of the two banks. -/
  fmt0 : Option Nat := none
  fmt1 : Option Nat := none
  log : Sparse (Option LogEnt) := []
  logHead : Nat := 0
  logSeq : Nat := 0
  /-- Failed stations (R133). -/
  failed : BitVec 17 := 0
  /-- The last edition serial assigned (R94). -/
  serial : Nat := 0
  deriving DecidableEq, Repr

/-- The fuse array (R452). -/
structure Fuses where
  hostGroups : BitVec 9 := 0x17F
  svcGroups : BitVec 9 := 0x1FF
  keyHash : List Byte := List.replicate 48 0
  rollback : Nat := 0
  debug : Bool := false
  crypto : Bool := true
  inPlace : Bool := false
  serial : BitVec 64 := 0
  /-- 0 for grade -X, 1 for -C (R398). -/
  grade : BitVec 4 := 0
  /-- Channels whose fused delays fail their own check (R373). -/
  badDelays : BitVec 16 := 0
  deriving DecidableEq, Repr

/-- Firmware state: reset pin, boot, update machinery (R445 to R470). -/
structure Fw where
  /-- Supplies are up. -/
  powered : Bool := true
  resetN : Bool := false
  /-- The supply monitor flag that only the rise of VDD_CORE sets (R447). -/
  riseFlag : Bool := true
  bootStep : Nat := 0
  booting : Bool := false
  busy : Bool := true
  ready : Bool := false
  recovery : Bool := false
  trial : Bool := false
  /-- CORE cycle at which the trial started (R466), or the instant P of a pause that precedes it (R464). -/
  trialAt : Nat := 0
  cause : Nat := 0
  /-- Image whose parts run: version, level, settings and state format (R458). -/
  version : Nat := 0
  level : Nat := 0
  settingsFmt : Nat := 0
  stateFmt : Nat := 0
  /-- SerDes microcode digest of the running image (R460). -/
  serdes : List Byte := []
  components : List Nat := []
  /-- Bytes of a transfer in the staging region of HBM, in in-place mode (R460). -/
  staging : List Byte := []
  /-- The line ports stay down until the first commit (R465), or an overwrite has taken them down (R463). -/
  portsDown : Bool := false
  /-- An in-place overwrite runs (R463). -/
  overwrite : Bool := false
  /-- An activation pause is in step 2 to 5 (R464). -/
  pause : Bool := false
  /-- The rollback counter is being stepped (R454). -/
  stepping : Bool := false
  /-- Cause of an update reset that the update machinery has asked for and that has not yet come (R462, R463, R468). -/
  resetAsked : Option UpdCause := none
  /-- Settings bank in use: 0 or 1 (R465). -/
  bank : Nat := 0
  deriving DecidableEq, Repr

/-- Environment readings (R480, R489). -/
structure Env where
  /-- Tj and the lowest reading, 0.1 °C, signed (R489). -/
  tjMax : Int := 250
  tjMin : Int := 250
  /-- EXTEST has voided every bound until the next pin reset (R488). -/
  extest : Bool := false
  /-- What the JTAG port last shifted out: the IDCODE, or a lock word. -/
  jtag : BitVec 32 := 0
  deriving DecidableEq, Repr

/-! ### The machine -/

/-- Every thread of a station is OFF (R119, R133). -/
def offThreads : Sparse Thread := (List.range 96).map fun lane => (lane, { st := .off : Thread })

/-- The device. -/
structure State where
  /-- Commands that wait, first in, first out. -/
  pending : List Instr
  /-- CORE cycles since the root PLL locked (R122). -/
  clk : Nat
  datum : Datum
  /-- Device parameters and counters by parameter ID (R411 to R414); an unlisted ID reads its reset value. -/
  par : Sparse Nat
  /-- Tokens of the exception buckets in 10^-10 packet, none while a bucket is still full from reset, and the CORE cycle of the last refill
  (R84, R86). -/
  excTokens : Sparse (Option Nat)
  excLast : Sparse Nat
  ed : Editions
  pkts : Sparse (Option Packet)
  west : HalfState
  east : HalfState
  stn : Sparse Station
  delayed : List (Nat × Effect)
  prep : Option Prep
  /-- Preparations that STATION_READMIT has asked for and that wait for the one in progress (R137, R140). -/
  readmits : List Prep
  /-- Vacant roles, oldest first (R138), and the spare under check until a CORE cycle (R139). -/
  vacant : List Nat
  spareCheck : Option (Nat × Nat)
  locks : Sparse (BitVec 16)
  held : List Held
  /-- Key 256 × half + channel. -/
  chans : Sparse Chan
  tbl : Tables
  buf : Buffer
  tm : TM
  hbm : Hbm
  host : HostIf
  flt : Faults
  store : Store
  fuses : Fuses
  fw : Fw
  env : Env
  /-- The model's own counter, advanced by each free value taken (no statement rests on it). -/
  freeCtr : Nat
  deriving DecidableEq, Repr

/-- Reasons for a stop of the machine: none. The spec gives every command of the table an effect, so nothing raises a fault (safe: no
run ends in one). -/
inductive Fault where
  deriving DecidableEq, Repr

/-- Reasons for which a command has no meaning in the model. -/
inductive Refusal where
  /-- An instruction without a meaning yet, by its mnemonic. Safe: nothing runs. -/
  | notModelled (mnemonic : String)
  deriving DecidableEq, Repr

/-- The machine right after power-on with RESET_N low (R445, R446): volatile state lost, the record store and the fuses as a new part
with the default profile carries them; the bytes of its image and of its key hash are free values (log entry 40). -/
def State.reset : State where
  pending := []
  clk := 0
  datum := {}
  par := []
  excTokens := []
  excLast := []
  ed := {}
  pkts := []
  west := {}
  east := {}
  stn := (List.range 17).map fun k => (k, { threads := offThreads })
  delayed := []
  prep := none
  readmits := []
  vacant := []
  spareCheck := none
  locks := []
  held := []
  chans := []
  tbl := {}
  buf := {}
  tm := {}
  hbm := {}
  host := {}
  flt := {}
  store := { slotA := (List.range Config.shippedLen.toNat).map Config.shippedByte }
  fuses := { keyHash := (List.range 48).map Config.releaseKeyHash }
  fw := {}
  env := {}
  freeCtr := 0

end Sys2Proof.Machine
end

