-- ==== Sys2Proof/Machine/Bits.lean ====
section
/-! DEFINITION. The pure helpers of the machine: sparse maps in canonical form, byte orders (R8), bit fields, CRCs, and small
arithmetic. -/

namespace Sys2Proof.Machine

/-! ### Sparse maps -/

/-- The value of key `k`; an unlisted key reads `d`. -/
def sget {α : Type} (d : α) (m : Sparse α) (k : Nat) : α :=
  match m with
  | [] => d
  | (j, w) :: rest => if j = k then w else sget d rest k

/-- Removes key `k`. -/
def sdel {α : Type} (m : Sparse α) (k : Nat) : Sparse α := m.filter fun kv => kv.1 != k

/-- Puts an unlisted key `k` before the first larger key. -/
def sput {α : Type} (m : Sparse α) (k : Nat) (v : α) : Sparse α :=
  match m with
  | [] => [(k, v)]
  | (j, w) :: rest => if k < j then (k, v) :: (j, w) :: rest else (j, w) :: sput rest k v

/-- Writes key `k`; the canonical form stays: writing what an unlisted key reads removes the entry. -/
def sset {α : Type} [DecidableEq α] (d : α) (m : Sparse α) (k : Nat) (v : α) : Sparse α :=
  if v = d then sdel m k else sput (sdel m k) k v

/-- The canonical form: keys strictly above `lo` and rising, no entry equal to the default. -/
def swfFrom {α : Type} [DecidableEq α] (d : α) (lo : Nat) (m : Sparse α) : Bool :=
  match m with
  | [] => true
  | (j, w) :: rest => lo ≤ j && w != d && swfFrom d (j + 1) rest

/-- A sparse map is in canonical form. -/
def swf {α : Type} [DecidableEq α] (d : α) (m : Sparse α) : Bool := swfFrom d 0 m

/-- Changes one value. -/
def smod {α : Type} [DecidableEq α] (d : α) (m : Sparse α) (k : Nat) (f : α → α) : Sparse α :=
  sset d m k (f (sget d m k))

/-- Consecutive keys from `k`. -/
def sgetRange {α : Type} (d : α) (m : Sparse α) (k n : Nat) : List α :=
  (List.range n).map fun i => sget d m (k + i)

/-- Writes consecutive keys from `k`. -/
def ssetRange {α : Type} [DecidableEq α] (d : α) (m : Sparse α) (k : Nat) (vs : List α) : Sparse α :=
  match vs with
  | [] => m
  | v :: rest => ssetRange d (sset d m k v) (k + 1) rest

/-- The keys and values that are present in a map whose default is `none`. -/
def spresent {α : Type} (m : Sparse (Option α)) : List (Nat × α) :=
  m.filterMap fun kv => kv.2.map fun v => (kv.1, v)

/-- A byte of a byte-sparse map whose unlisted bytes read zero, as a number. -/
def bget (m : Sparse Byte) (k : Nat) : Byte := sget 0 m k

/-- Writes one byte of such a map. -/
def bset (m : Sparse Byte) (k : Nat) (v : Byte) : Sparse Byte := sset 0 m k v

/-! ### Numbers and bytes -/

/-- The `w` bits of `n` from bit `lo` on. -/
def bitsOf (n lo w : Nat) : Nat := n / 2 ^ lo % 2 ^ w

/-- Bit `i` of `n`. -/
def bitOf (n i : Nat) : Bool := n / 2 ^ i % 2 = 1

/-- `n` with the `w` bits from bit `lo` on replaced by `v`. -/
def putBits (n lo w v : Nat) : Nat :=
  n - bitsOf n lo w * 2 ^ lo + v % 2 ^ w * 2 ^ lo

/-- 1 for true, 0 for false. -/
def b2n (b : Bool) : Nat := if b then 1 else 0

/-- Number of one bits among the lowest `w`. -/
def popcount (n w : Nat) : Nat := (List.range w).foldl (fun c i => c + b2n (bitOf n i)) 0

/-- The lowest set bit below `w`. -/
def lowestBit (n w : Nat) : Option Nat := (List.range w).find? fun i => bitOf n i

/-- Division rounded up. -/
def ceilDiv (a b : Nat) : Nat := (a + b - 1) / b

/-- `n` as `k` bytes, lowest first. -/
def leBytes (k n : Nat) : List Byte :=
  match k with
  | 0 => []
  | k + 1 => BitVec.ofNat 8 n :: leBytes k (n / 256)

/-- `n` as `k` bytes, highest first. -/
def beBytes (k n : Nat) : List Byte := (leBytes k n).reverse

/-- The number that little-endian bytes stand for. -/
def leNat (bs : List Byte) : Nat :=
  match bs with
  | [] => 0
  | b :: rest => b.toNat + 256 * leNat rest

/-- The number that big-endian bytes stand for. -/
def beNat (bs : List Byte) : Nat := leNat bs.reverse

/-- Byte `i` of a list, zero beyond its end. -/
def byteAt (bs : List Byte) (i : Nat) : Byte := bs.getD i 0

/-- `n` bytes from offset `off`, zero beyond the end. -/
def bytesAt (bs : List Byte) (off n : Nat) : List Byte :=
  let r := (bs.drop off).take n
  r ++ List.replicate (n - r.length) 0

/-- A little-endian field of `n` bytes at `off` (R8). -/
def leAt (bs : List Byte) (off n : Nat) : Nat := leNat (bytesAt bs off n)

/-- A big-endian field of `n` bytes at `off` (R8). -/
def beAt (bs : List Byte) (off n : Nat) : Nat := beNat (bytesAt bs off n)

/-- Replaces the bytes from `off` on; bytes beyond the end are dropped. -/
def putBytes (bs : List Byte) (off : Nat) (new : List Byte) : List Byte :=
  if bs.length ≤ off then bs
  else bs.take off ++ new.take (bs.length - off) ++ bs.drop (off + new.length)

/-- Zero bytes up to a length of `n`; longer lists are cut. -/
def fitBytes (bs : List Byte) (n : Nat) : List Byte := bs.take n ++ List.replicate (n - bs.length) 0

/-- Zero bytes up to a multiple of `n`. -/
def padTo (bs : List Byte) (n : Nat) : List Byte := fitBytes bs (ceilDiv bs.length n * n)

/-- A signed number of `w` bits in two's complement. -/
def toSigned (w n : Nat) : Int := if n % 2 ^ w < 2 ^ (w - 1) then (n % 2 ^ w : Nat) else (n % 2 ^ w : Nat) - (2 ^ w : Nat)

/-- Two's complement of a signed number in `w` bits. -/
def ofSigned (w : Nat) (i : Int) : Nat := (i % (2 ^ w : Nat)).toNat

/-- The difference `a − b` modulo 2^32. -/
def sub32 (a b : Nat) : Nat := (a + 2 ^ 32 - b % 2 ^ 32) % 2 ^ 32

/-- Saturating addition at `w` bits. -/
def satAdd (w a b : Nat) : Nat := min (a + b) (2 ^ w - 1)

/-! ### Lists -/

/-- Changes element `i` of a list. -/
def lmod {α : Type} (l : List α) (i : Nat) (f : α → α) : List α := l.modify i f

/-- The first element of rising rank, among those of a list: the smallest rank wins, and the earlier of two equal ranks. -/
def argMin {α : Type} (rank : α → Nat) (l : List α) : Option α :=
  match l with
  | [] => none
  | x :: rest =>
    match argMin rank rest with
    | none => some x
    | some y => if rank x ≤ rank y then some x else some y

/-- Round robin (R198, R245, R403): the first of `n` positions after `last` that satisfies `p`. -/
def roundRobin (n last : Nat) (p : Nat → Bool) : Option Nat :=
  ((List.range n).map fun i => (last + 1 + i) % n).find? p

/-- Inserts by rising key, after equal keys. -/
def insertBy {α : Type} (key : α → Nat) (x : α) (l : List α) : List α :=
  match l with
  | [] => [x]
  | y :: rest => if key y ≤ key x then y :: insertBy key x rest else x :: y :: rest

/-- Sorts by rising key, stably. -/
def sortBy {α : Type} (key : α → Nat) (l : List α) : List α := l.foldl (fun acc x => insertBy key x acc) []

/-- Removes the first element that satisfies `p`. -/
def dropFirst {α : Type} (p : α → Bool) (l : List α) : List α :=
  match l with
  | [] => []
  | x :: rest => if p x then rest else x :: dropFirst p rest

/-! ### Checks over bytes -/

/-- One bit step of a reflected CRC register. -/
def crcBit (poly : BitVec 32) (r : BitVec 32) : BitVec 32 :=
  if r.getLsbD 0 then (r >>> 1) ^^^ poly else r >>> 1

/-- One byte of a reflected CRC register. -/
def crcByte (poly : BitVec 32) (r : BitVec 32) (b : Byte) : BitVec 32 :=
  (List.range 8).foldl (fun r _ => crcBit poly r) (r ^^^ b.setWidth 32)

/-- The CRC of IEEE 802.3 (R186): reflected, initial value and final exclusive-or all ones. -/
def crc32 (bs : List Byte) : BitVec 32 := ~~~ (bs.foldl (crcByte 0xEDB88320) 0xFFFFFFFF)

/-- The FCS bytes of a frame's content, in wire order. -/
def fcsOf (bs : List Byte) : List Byte := leBytes 4 (crc32 bs).toNat

/-- The one's-complement 16-bit sum of words in big-endian order, an odd last byte padded with zero (RFC 1071). -/
def ocSum16 (bs : List Byte) : Nat :=
  match bs with
  | a :: b :: rest =>
    let t := a.toNat * 256 + b.toNat + ocSum16 rest
    t % 65536 + t / 65536
  | [a] => a.toNat * 256
  | [] => 0

/-- Field of `w` bits at bit `lo` of a 512-bit descriptor. -/
def dget (d : BitVec 512) (lo w : Nat) : Nat := bitsOf d.toNat lo w

/-- Writes such a field. -/
def dput (d : BitVec 512) (lo w v : Nat) : BitVec 512 := BitVec.ofNat 512 (putBits d.toNat lo w v)

end Sys2Proof.Machine
end

