-- ==== Sys2Proof/Machine/Ids.lean ====
section
/-! DEFINITION. The catalogue of parameters and counters (R411 to R414): every name of the manual's tables with its class, field,
index ranges, scope, form, range and reset value, and the parameter ID of each. -/

namespace Sys2Proof.Machine

/-- The scope of a parameter: device (RW), edition, read-only, read-and-clear (R9, R87, R411). -/
inductive PScope where
  | dev
  | ed
  | ro
  | rc
  deriving DecidableEq, Repr

/-- A row of the catalogue: inclusive index ranges (first index first), scope, value length in bytes (0: a record of varying
length), sign, range, and reset value by indices. -/
structure PSpec where
  dims : List (Nat × Nat)
  scope : PScope
  len : Nat
  signed : Bool
  lo : Int
  hi : Int
  reset : List Nat → Nat

/-- Default token rates of the exception reasons (R83). -/
def excRate (r : Nat) : Nat :=
  if r ≤ 7 then 5000 else if r = 8 then 40000 else if r = 9 then 20000 else 5000

/-- The reset calendar entry e (R123). -/
def calReset (e : Nat) : Nat := 128 + (e % 8) * 16 + 8 + (e + 4) % 8

/-- Thread t7 of every core (R211). -/
def lockUsersReset : Nat := (List.range 12).foldl (fun m c => m + 2 ^ (8 * c + 7)) 0

/-- Reset values of the way keys (R314). -/
def wayKeyReset (w : Nat) : Nat :=
  [0x3A1F0C55, 0x71B296E3, 0xC4D82B07, 0x0E69F4A9].getD w 0

/-- Reset values of the histogram edges in ns (R348). -/
def histEdgeReset (b : Nat) : Nat :=
  [100, 200, 500, 1000, 2000, 5000, 10000, 20000, 50000, 100000, 200000, 500000, 1000000, 2000000, 5000000].getD b 0

/-- Class 0x01 (R413), fields in the order of R414. -/
def catClass01 : List PSpec := [
  { dims := [(0, 3)], scope := .dev, len := 8, signed := false, lo := 0, hi := 2 ^ 64 - 1, reset := fun _ => 0 }, -- host.txring.base
  { dims := [(0, 3)], scope := .dev, len := 4, signed := false, lo := 16, hi := 4096, reset := fun _ => 16 }, -- host.txring.entries
  { dims := [(0, 3)], scope := .dev, len := 4, signed := false, lo := 0, hi := 1, reset := fun _ => 0 }, -- host.txring.enable
  { dims := [(0, 15)], scope := .dev, len := 8, signed := false, lo := 0, hi := 2 ^ 64 - 1, reset := fun _ => 0 }, -- host.rxring.base
  { dims := [(0, 15)], scope := .dev, len := 4, signed := false, lo := 16, hi := 4096, reset := fun _ => 16 }, -- host.rxring.entries
  { dims := [(0, 15)], scope := .dev, len := 4, signed := false, lo := 256, hi := 16384, reset := fun _ => 2048 }, -- host.rxring.buf_len
  { dims := [(0, 15)], scope := .dev, len := 4, signed := false, lo := 0, hi := 1, reset := fun _ => 0 }, -- host.rxring.enable
  { dims := [(0, 3)], scope := .rc, len := 4, signed := false, lo := 0, hi := 0, reset := fun _ => 0 }, -- host.txring.bad
  { dims := [], scope := .rc, len := 4, signed := false, lo := 0, hi := 0, reset := fun _ => 0 }, -- host.event.lost
  { dims := [], scope := .rc, len := 4, signed := false, lo := 0, hi := 0, reset := fun _ => 0 }, -- host.denied
  { dims := [], scope := .rc, len := 4, signed := false, lo := 0, hi := 0, reset := fun _ => 0 }, -- host.window_bad
  { dims := [(0, 15)], scope := .dev, len := 4, signed := false, lo := 0, hi := 2, reset := fun _ => 0 }, -- host.gpio.func
  { dims := [], scope := .dev, len := 4, signed := false, lo := 0, hi := 65535, reset := fun _ => 0 }, -- host.gpio.out
  { dims := [], scope := .ro, len := 4, signed := false, lo := 0, hi := 0, reset := fun _ => 0 } ] -- host.gpio.in

/-- Class 0x02 (R413), fields in the order of R414. -/
def catClass02 : List PSpec := [
  { dims := [(0, 31)], scope := .rc, len := 8, signed := false, lo := 0, hi := 0, reset := fun _ => 0 }, -- mac.port.rx_fcs_err
  { dims := [(0, 31)], scope := .rc, len := 8, signed := false, lo := 0, hi := 0, reset := fun _ => 0 }, -- mac.port.rx_runt
  { dims := [(0, 31)], scope := .rc, len := 8, signed := false, lo := 0, hi := 0, reset := fun _ => 0 }, -- mac.port.rx_oversize
  { dims := [(0, 31)], scope := .rc, len := 8, signed := false, lo := 0, hi := 0, reset := fun _ => 0 }, -- mac.port.rx_no_folio
  { dims := [(0, 31)], scope := .dev, len := 4, signed := false, lo := 64, hi := 9216, reset := fun _ => 9216 }, -- mac.port.max_frame
  { dims := [(0, 31)], scope := .dev, len := 4, signed := false, lo := 0, hi := 1, reset := fun _ => 0 }, -- mac.port.preempt
  { dims := [(0, 31)], scope := .dev, len := 4, signed := false, lo := 0, hi := 1, reset := fun _ => 1 }, -- mac.port.preempt_verify
  { dims := [(0, 31)], scope := .dev, len := 4, signed := false, lo := 1, hi := 128, reset := fun _ => 10 }, -- mac.port.verify_ms
  { dims := [(0, 31)], scope := .rc, len := 8, signed := false, lo := 0, hi := 0, reset := fun _ => 0 }, -- mac.port.fec_corrected
  { dims := [(0, 31)], scope := .rc, len := 8, signed := false, lo := 0, hi := 0, reset := fun _ => 0 } ] -- mac.port.fec_uncorrected

/-- Class 0x03 (R413), fields in the order of R414. -/
def catClass03 : List PSpec := [
  { dims := [], scope := .dev, len := 4, signed := false, lo := 1, hi := 1000, reset := fun _ => 10 }, -- path.residency_limit
  { dims := [(0, 1), (0, 15)], scope := .rc, len := 8, signed := false, lo := 0, hi := 0, reset := fun _ => 0 }, -- path.half.disp
  { dims := [(0, 1)], scope := .rc, len := 4, signed := false, lo := 0, hi := 0, reset := fun _ => 0 } ] -- path.half.disp_invalid

/-- Class 0x04 (R413), fields in the order of R414. -/
def catClass04 : List PSpec := [
  { dims := [], scope := .dev, len := 4, signed := false, lo := 0, hi := 1000, reset := fun _ => 100 }, -- bound.slew_allowance
  { dims := [(0, 1)], scope := .ro, len := 4, signed := false, lo := 0, hi := 0, reset := fun _ => 0 }, -- bound.half.state
  { dims := [(0, 1)], scope := .ro, len := 4, signed := false, lo := 0, hi := 0, reset := fun _ => 0 }, -- bound.half.reason
  { dims := [(1, 2)], scope := .dev, len := 4, signed := false, lo := 0, hi := 1, reset := fun _ => 0 }, -- bound.class.late_action
  { dims := [(0, 35), (1, 2)], scope := .rc, len := 8, signed := false, lo := 0, hi := 0, reset := fun _ => 0 }, -- bound.port.class.checked
  { dims := [(0, 35), (1, 2)], scope := .rc, len := 8, signed := false, lo := 0, hi := 0, reset := fun _ => 0 }, -- bound.port.class.late
  { dims := [(0, 35), (1, 2)], scope := .rc, len := 8, signed := false, lo := 0, hi := 0, reset := fun _ => 0 }, -- bound.port.class.late_suspended
  { dims := [(0, 35), (1, 2)], scope := .rc, len := 4, signed := false, lo := 0, hi := 0, reset := fun _ => 0 }, -- bound.port.class.late_max
  { dims := [(0, 1)], scope := .rc, len := 8, signed := false, lo := 0, hi := 0, reset := fun _ => 0 } ] -- bound.half.late_check_skipped

/-- Class 0x05 (R413), fields in the order of R414. -/
def catClass05 : List PSpec := [
  { dims := [(0, 8191)], scope := .ed, len := 4, signed := false, lo := 1, hi := 2, reset := fun _ => 0 }, -- bound.contract.class
  { dims := [(0, 8191)], scope := .ed, len := 4, signed := false, lo := 0, hi := 2 ^ 32 - 1, reset := fun _ => 0 }, -- bound.contract.ingress_ports
  { dims := [(0, 8191)], scope := .ed, len := 4, signed := false, lo := 1, hi := 3, reset := fun _ => 0 }, -- bound.contract.passes
  { dims := [(0, 8191), (0, 2)], scope := .ed, len := 4, signed := false, lo := 0, hi := 255, reset := fun _ => 0 }, -- bound.contract.graph
  { dims := [(0, 8191)], scope := .ed, len := 4, signed := false, lo := 1, hi := 1490000000, reset := fun _ => 0 }, -- bound.contract.rate
  { dims := [(0, 8191)], scope := .ed, len := 4, signed := false, lo := 1, hi := 4096, reset := fun _ => 0 }, -- bound.contract.burst
  { dims := [(0, 8191)], scope := .ed, len := 4, signed := false, lo := 64, hi := 9216, reset := fun _ => 0 }, -- bound.contract.max_len
  { dims := [(0, 8191)], scope := .ed, len := 4, signed := false, lo := 1, hi := 2 ^ 32 - 1, reset := fun _ => 0 }, -- bound.contract.egress_ports
  { dims := [(0, 8191)], scope := .ed, len := 4, signed := false, lo := 0, hi := 15, reset := fun _ => 0 }, -- bound.contract.queue
  { dims := [(0, 8191)], scope := .ed, len := 4, signed := false, lo := 0, hi := 8191, reset := fun _ => 0 }, -- bound.contract.policer
  { dims := [(0, 8191)], scope := .ed, len := 4, signed := false, lo := 0, hi := 10000000, reset := fun _ => 0 }, -- bound.contract.max_bound
  { dims := [(0, 8191)], scope := .rc, len := 8, signed := false, lo := 0, hi := 0, reset := fun _ => 0 } ] -- bound.contract.oversize

/-- Class 0x06 (R413), fields in the order of R414. -/
def catClass06 : List PSpec := [
  { dims := [], scope := .dev, len := 4, signed := false, lo := 0, hi := 65535, reset := fun _ => 0 }, -- parse.tpid_extra
  { dims := [(0, 31)], scope := .ed, len := 8, signed := false, lo := 0, hi := 2 ^ 64 - 1, reset := fun _ => 0 }, -- cls.profile_sel
  { dims := [(0, 7), (0, 19)], scope := .ed, len := 8, signed := false, lo := 0, hi := 2 ^ 64 - 1, reset := fun _ => 0 }, -- cls.profile.word
  { dims := [(0, 7)], scope := .ed, len := 4, signed := false, lo := 0, hi := 2 ^ 20 - 1, reset := fun _ => 0 }, -- cls.profile.hash_words
  { dims := [], scope := .ed, len := 4, signed := false, lo := 0, hi := 2 ^ 32 - 1, reset := fun _ => 0 }, -- cls.hash_key
  { dims := [(0, 1023)], scope := .ed, len := 8, signed := false, lo := 0, hi := 2 ^ 64 - 1, reset := fun _ => 255 }, -- cls.range
  { dims := [(0, 16383)], scope := .ed, len := 112, signed := false, lo := 0, hi := 2 ^ 896 - 1, reset := fun _ => 0 }, -- cls.rule
  { dims := [(1, 10)], scope := .dev, len := 4, signed := false, lo := 0, hi := 1000000, reset := fun ix => excRate (ix.headD 0) }, -- exc.reason.rate
  { dims := [(1, 10)], scope := .dev, len := 4, signed := false, lo := 1, hi := 1024, reset := fun _ => 64 }, -- exc.reason.burst
  { dims := [(1, 10)], scope := .dev, len := 4, signed := false, lo := 0, hi := 15, reset := fun _ => 0 }, -- exc.reason.queue
  { dims := [(1, 10)], scope := .dev, len := 4, signed := false, lo := 0, hi := 255, reset := fun _ => 255 }, -- exc.reason.capture
  { dims := [(0, 1)], scope := .rc, len := 8, signed := false, lo := 0, hi := 0, reset := fun _ => 0 }, -- parse.half.frames
  { dims := [(0, 1), (1, 7)], scope := .rc, len := 8, signed := false, lo := 0, hi := 0, reset := fun _ => 0 }, -- parse.half.reason
  { dims := [(0, 1), (0, 16383)], scope := .rc, len := 8, signed := false, lo := 0, hi := 0, reset := fun _ => 0 }, -- cls.half.rule.hits
  { dims := [(0, 1)], scope := .rc, len := 8, signed := false, lo := 0, hi := 0, reset := fun _ => 0 }, -- cls.half.miss
  { dims := [(1, 10)], scope := .rc, len := 8, signed := false, lo := 0, hi := 0, reset := fun _ => 0 }, -- exc.reason.sent
  { dims := [(1, 10)], scope := .rc, len := 8, signed := false, lo := 0, hi := 0, reset := fun _ => 0 } ] -- exc.reason.dropped

/-- Class 0x07 (R413), fields in the order of R414. -/
def catClass07 : List PSpec := [
  { dims := [], scope := .rc, len := 4, signed := false, lo := 0, hi := 0, reset := fun _ => 0 }, -- edition.commits
  { dims := [(0, 66)], scope := .rc, len := 4, signed := false, lo := 0, hi := 0, reset := fun _ => 0 }, -- edition.refused
  { dims := [], scope := .ro, len := 4, signed := false, lo := 0, hi := 0, reset := fun _ => 0 }, -- edition.last_commit_us
  { dims := [(0, 1), (0, 3)], scope := .ro, len := 4, signed := false, lo := 0, hi := 0, reset := fun _ => 0 }, -- edition.half.tag_count
  { dims := [(0, 1)], scope := .rc, len := 8, signed := false, lo := 0, hi := 0, reset := fun _ => 0 } ] -- edition.half.no_edition

/-- Class 0x08 (R413), fields in the order of R414. -/
def catClass08 : List PSpec := [
  { dims := [], scope := .dev, len := 4, signed := false, lo := 1, hi := 65535, reset := fun _ => 64 }, -- stn.ce_limit
  { dims := [(0, 15), (0, 11), (0, 15)], scope := .ed, len := 4, signed := false, lo := 0, hi := 255, reset := fun ix => calReset (ix.getD 2 0) }, -- stn.role.core.cal
  { dims := [(0, 15), (0, 11), (0, 7)], scope := .ed, len := 4, signed := false, lo := 0, hi := 1, reset := fun _ => 1 }, -- stn.role.core.pool
  { dims := [], scope := .ed, len := 4, signed := false, lo := 1, hi := 8, reset := fun _ => 4 }, -- stn.map.pool_weight
  { dims := [(0, 1)], scope := .dev, len := 4, signed := false, lo := 0, hi := 4096, reset := fun _ => 2048 }, -- stn.half.std_task_limit
  { dims := [], scope := .dev, len := 4, signed := false, lo := 1, hi := 3600, reset := fun _ => 10 }, -- stn.spare_check_s
  { dims := [(0, 16)], scope := .ro, len := 4, signed := false, lo := 0, hi := 0, reset := fun _ => 0 }, -- stn.s.role
  { dims := [(0, 16)], scope := .ro, len := 4, signed := false, lo := 0, hi := 0, reset := fun _ => 0 }, -- stn.s.state
  { dims := [(0, 16)], scope := .ro, len := 4, signed := false, lo := 0, hi := 0, reset := fun _ => 0 }, -- stn.s.halted
  { dims := [(0, 16), (1, 7)], scope := .rc, len := 4, signed := false, lo := 0, hi := 0, reset := fun _ => 0 }, -- stn.s.trap
  { dims := [(0, 16)], scope := .rc, len := 4, signed := false, lo := 0, hi := 0, reset := fun _ => 0 }, -- stn.s.snapshot_lost
  { dims := [(0, 16)], scope := .rc, len := 4, signed := false, lo := 0, hi := 0, reset := fun _ => 0 }, -- stn.s.signal_stale
  { dims := [(0, 16), (0, 11)], scope := .rc, len := 8, signed := false, lo := 0, hi := 0, reset := fun _ => 0 }, -- stn.s.core.reclaimed
  { dims := [(0, 16)], scope := .rc, len := 4, signed := false, lo := 0, hi := 0, reset := fun _ => 0 }, -- stn.s.ce_count
  { dims := [(0, 16)], scope := .rc, len := 4, signed := false, lo := 0, hi := 0, reset := fun _ => 0 }, -- stn.s.abort_packets
  { dims := [(0, 1)], scope := .rc, len := 8, signed := false, lo := 0, hi := 0, reset := fun _ => 0 } ] -- stn.half.task_drop

/-- Class 0x09 (R413), fields in the order of R414. -/
def catClass09 : List PSpec := [
  { dims := [(0, 15)], scope := .ed, len := 12, signed := false, lo := 0, hi := 2 ^ 96 - 1, reset := fun _ => lockUsersReset }, -- hlp.role.lock_users
  { dims := [(0, 255)], scope := .dev, len := 66, signed := false, lo := 0, hi := 2 ^ 528 - 1, reset := fun _ => 0 }, -- crypto.key
  { dims := [(0, 63)], scope := .ro, len := 4, signed := false, lo := 0, hi := 0, reset := fun _ => 0 }, -- hlp.emu_cost
  { dims := [(0, 16)], scope := .rc, len := 8, signed := false, lo := 0, hi := 0, reset := fun _ => 0 }, -- hlp.s.kills
  { dims := [(0, 16)], scope := .rc, len := 8, signed := false, lo := 0, hi := 0, reset := fun _ => 0 }, -- hlp.s.orphans
  { dims := [(0, 16), (0, 3)], scope := .rc, len := 4, signed := false, lo := 0, hi := 0, reset := fun _ => 0 }, -- hlp.s.helper_err
  { dims := [(0, 16), (0, 63)], scope := .rc, len := 4, signed := false, lo := 0, hi := 0, reset := fun _ => 0 }, -- hlp.s.refused
  { dims := [(0, 16), (0, 63)], scope := .rc, len := 4, signed := false, lo := 0, hi := 0, reset := fun _ => 0 }, -- hlp.s.emulated
  { dims := [(0, 16), (0, 1)], scope := .rc, len := 8, signed := false, lo := 0, hi := 0, reset := fun _ => 0 }, -- hlp.s.port.served
  { dims := [(0, 16), (0, 1)], scope := .rc, len := 4, signed := false, lo := 0, hi := 0, reset := fun _ => 0 }, -- hlp.s.port.latency_max
  { dims := [(0, 16)], scope := .rc, len := 4, signed := false, lo := 0, hi := 0, reset := fun _ => 0 }, -- hlp.s.hlock.grants
  { dims := [(0, 16)], scope := .rc, len := 4, signed := false, lo := 0, hi := 0, reset := fun _ => 0 }, -- hlp.s.hlock.abandoned
  { dims := [(0, 16)], scope := .rc, len := 4, signed := false, lo := 0, hi := 0, reset := fun _ => 0 }, -- hlp.s.hlock.wait_max
  { dims := [(0, 16)], scope := .rc, len := 8, signed := false, lo := 0, hi := 0, reset := fun _ => 0 }, -- hlp.s.crypto.jobs
  { dims := [(0, 16)], scope := .rc, len := 8, signed := false, lo := 0, hi := 0, reset := fun _ => 0 } ] -- hlp.s.crypto.errors

/-- Class 0x0A (R413), fields in the order of R414. -/
def catClass0A : List PSpec := [
  { dims := [(0, 255), (0, 7)], scope := .ed, len := 4, signed := false, lo := 0, hi := 15, reset := fun _ => 14 }, -- disp.graph.op.arrival_flag
  { dims := [(0, 255), (0, 7)], scope := .ed, len := 4, signed := false, lo := 0, hi := 65535, reset := fun _ => 65535 }, -- disp.graph.op.arrival_ch
  { dims := [(0, 255), (0, 7)], scope := .ed, len := 4, signed := false, lo := 0, hi := 15, reset := fun _ => 15 }, -- disp.graph.op.timer_flag
  { dims := [(0, 255), (0, 7)], scope := .ed, len := 4, signed := false, lo := 0, hi := 65535, reset := fun _ => 0 }, -- disp.graph.op.timer
  { dims := [(0, 16)], scope := .rc, len := 4, signed := false, lo := 0, hi := 0, reset := fun _ => 0 }, -- disp.s.stall
  { dims := [(0, 255)], scope := .ed, len := 4, signed := false, lo := 0, hi := 1, reset := fun _ => 0 }, -- disp.graph.trap_action
  { dims := [(0, 16)], scope := .rc, len := 8, signed := false, lo := 0, hi := 0, reset := fun _ => 0 }, -- disp.s.dispatched
  { dims := [(0, 16)], scope := .rc, len := 8, signed := false, lo := 0, hi := 0, reset := fun _ => 0 }, -- disp.s.preempted
  { dims := [(0, 16)], scope := .rc, len := 8, signed := false, lo := 0, hi := 0, reset := fun _ => 0 }, -- disp.s.resumed
  { dims := [(0, 16)], scope := .rc, len := 4, signed := false, lo := 0, hi := 0, reset := fun _ => 0 }, -- disp.s.no_thread
  { dims := [(0, 16)], scope := .rc, len := 4, signed := false, lo := 0, hi := 0, reset := fun _ => 0 }, -- disp.s.stall_max
  { dims := [(0, 1)], scope := .rc, len := 8, signed := false, lo := 0, hi := 0, reset := fun _ => 0 }, -- ord.half.released
  { dims := [(0, 1)], scope := .rc, len := 8, signed := false, lo := 0, hi := 0, reset := fun _ => 0 }, -- ord.half.holes
  { dims := [(0, 1)], scope := .rc, len := 4, signed := false, lo := 0, hi := 0, reset := fun _ => 0 }, -- ord.half.parked_max
  { dims := [(0, 1)], scope := .rc, len := 8, signed := false, lo := 0, hi := 0, reset := fun _ => 0 } ] -- ord.half.domain_full

/-- Class 0x0B (R413), fields in the order of R414. -/
def catClass0B : List PSpec := [
  { dims := [(0, 65535)], scope := .ro, len := 4, signed := false, lo := 0, hi := 0, reset := fun _ => 0 } ] -- ord.west.next

/-- Class 0x0C (R413), fields in the order of R414. -/
def catClass0C : List PSpec := [
  { dims := [(0, 65535)], scope := .ro, len := 4, signed := false, lo := 0, hi := 0, reset := fun _ => 0 } ] -- ord.east.next

/-- Class 0x0D (R413), fields in the order of R414. -/
def catClass0D : List PSpec := [
  { dims := [], scope := .rc, len := 4, signed := false, lo := 0, hi := 0, reset := fun _ => 0 }, -- lock.limit_refused
  { dims := [], scope := .rc, len := 8, signed := false, lo := 0, hi := 0, reset := fun _ => 0 }, -- lock.contended
  { dims := [], scope := .rc, len := 4, signed := false, lo := 0, hi := 0, reset := fun _ => 0 }, -- lock.bad_write
  { dims := [], scope := .rc, len := 4, signed := false, lo := 0, hi := 0, reset := fun _ => 0 }, -- lock.end_held
  { dims := [(0, 63)], scope := .dev, len := 4, signed := false, lo := 0, hi := 2 ^ 32 - 1, reset := fun _ => 0x001FFFFF }, -- lock.group.mask
  { dims := [(0, 63)], scope := .rc, len := 4, signed := false, lo := 0, hi := 0, reset := fun _ => 0 }, -- lock.group.abandoned
  { dims := [(0, 1), (0, 255)], scope := .ro, len := 4, signed := false, lo := 0, hi := 0, reset := fun _ => 0 }, -- chan.half.ch.depth
  { dims := [(0, 1), (0, 255)], scope := .rc, len := 8, signed := false, lo := 0, hi := 0, reset := fun _ => 0 }, -- chan.half.ch.published
  { dims := [(0, 1), (0, 255)], scope := .rc, len := 8, signed := false, lo := 0, hi := 0, reset := fun _ => 0 }, -- chan.half.ch.freed
  { dims := [(0, 1), (0, 255)], scope := .rc, len := 4, signed := false, lo := 0, hi := 0, reset := fun _ => 0 }, -- chan.half.ch.full
  { dims := [(0, 1), (0, 255)], scope := .rc, len := 4, signed := false, lo := 0, hi := 0, reset := fun _ => 0 }, -- chan.half.ch.aborted
  { dims := [(0, 1), (0, 255)], scope := .rc, len := 4, signed := false, lo := 0, hi := 0, reset := fun _ => 0 } ] -- chan.half.ch.damaged

/-- Class 0x0E (R413), fields in the order of R414. -/
def catClass0E : List PSpec := [
  { dims := [(5, 63)], scope := .ro, len := 4, signed := false, lo := 0, hi := 0, reset := fun _ => 0 }, -- tbl.part.kind
  { dims := [(5, 63)], scope := .ro, len := 4, signed := false, lo := 0, hi := 0, reset := fun _ => 0 }, -- tbl.part.base
  { dims := [(5, 63)], scope := .ro, len := 4, signed := false, lo := 0, hi := 0, reset := fun _ => 0 }, -- tbl.part.size
  { dims := [(5, 63)], scope := .ro, len := 4, signed := false, lo := 0, hi := 0, reset := fun _ => 0 }, -- tbl.part.key_len
  { dims := [(5, 63)], scope := .dev, len := 16, signed := false, lo := 0, hi := 2 ^ 128 - 1, reset := fun _ => 0 }, -- tbl.part
  { dims := [(0, 3)], scope := .dev, len := 4, signed := false, lo := 0, hi := 2 ^ 32 - 1, reset := fun ix => wayKeyReset (ix.headD 0) }, -- tbl.way_key
  { dims := [], scope := .dev, len := 4, signed := false, lo := 0, hi := 1, reset := fun _ => 0 }, -- tbl.learn.mode
  { dims := [], scope := .dev, len := 4, signed := false, lo := 2000, hi := 100000, reset := fun _ => 10000 }, -- tbl.learn.settle_ns
  { dims := [(0, 31)], scope := .dev, len := 4, signed := false, lo := 0, hi := 1, reset := fun _ => 1 }, -- tbl.learn.port.enable
  { dims := [(0, 31)], scope := .dev, len := 4, signed := false, lo := 0, hi := 31, reset := fun ix => ix.headD 0 }, -- tbl.learn.port.logical
  { dims := [(0, 31)], scope := .dev, len := 4, signed := false, lo := 0, hi := 524288, reset := fun _ => 524288 }, -- tbl.learn.port.limit
  { dims := [(0, 31)], scope := .dev, len := 4, signed := false, lo := 0, hi := 1, reset := fun _ => 0 }, -- tbl.learn.port.excess
  { dims := [], scope := .dev, len := 4, signed := false, lo := 10, hi := 60000, reset := fun _ => 1000 }, -- tbl.age_tick_ms
  { dims := [], scope := .dev, len := 4, signed := false, lo := 0, hi := 4095, reset := fun _ => 300 }, -- tbl.mac.age_limit
  { dims := [], scope := .dev, len := 4, signed := false, lo := 10, hi := 2000, reset := fun _ => 250 }, -- tbl.mac.sweep_ms
  { dims := [(0, 31)], scope := .dev, len := 4, signed := false, lo := 0, hi := 1, reset := fun _ => 1 }, -- tbl.mac.flush_on_down
  { dims := [], scope := .dev, len := 4, signed := false, lo := 0, hi := 63, reset := fun _ => 63 }, -- tbl.peer.port
  { dims := [], scope := .dev, len := 4, signed := false, lo := 0, hi := 15, reset := fun _ => 7 }, -- tbl.peer.queue
  { dims := [], scope := .dev, len := 8, signed := false, lo := 0, hi := 2 ^ 48 - 1, reset := fun _ => 0 }, -- tbl.peer.dst
  { dims := [], scope := .dev, len := 8, signed := false, lo := 0, hi := 2 ^ 48 - 1, reset := fun _ => 0 }, -- tbl.peer.src
  { dims := [], scope := .dev, len := 4, signed := false, lo := 0, hi := 2 ^ 32 - 1, reset := fun _ => 20 }, -- tbl.peer.batch_us
  { dims := [(0, 63)], scope := .dev, len := 4, signed := false, lo := 0, hi := 63, reset := fun ix => ix.headD 0 }, -- tbl.peer.port_map
  { dims := [], scope := .dev, len := 4, signed := false, lo := 1, hi := 10000, reset := fun _ => 100 }, -- tbl.window.lock_timeout_ms
  { dims := [], scope := .dev, len := 4, signed := false, lo := 10, hi := 10000, reset := fun _ => 100 }, -- tbl.stream.sweep_ms
  { dims := [], scope := .dev, len := 4, signed := false, lo := 1, hi := 128, reset := fun _ => 32 }, -- tbl.stream.create_hlen
  { dims := [], scope := .dev, len := 4, signed := false, lo := 0, hi := 65535, reset := fun _ => 400 }, -- tbl.stream.create_reset_ms
  { dims := [(0, 511)], scope := .dev, len := 0, signed := false, lo := 0, hi := 2 ^ 4224 - 1, reset := fun _ => 0 }, -- tbl.sgate
  { dims := [(0, 1)], scope := .rc, len := 8, signed := false, lo := 0, hi := 0, reset := fun _ => 0 }, -- learn.half.submitted
  { dims := [(0, 1)], scope := .rc, len := 8, signed := false, lo := 0, hi := 0, reset := fun _ => 0 }, -- learn.half.applied
  { dims := [(0, 1)], scope := .rc, len := 8, signed := false, lo := 0, hi := 0, reset := fun _ => 0 }, -- learn.half.dropped
  { dims := [(0, 1)], scope := .rc, len := 8, signed := false, lo := 0, hi := 0, reset := fun _ => 0 }, -- learn.half.late
  { dims := [(0, 1)], scope := .rc, len := 8, signed := false, lo := 0, hi := 0, reset := fun _ => 0 }, -- learn.half.full
  { dims := [(0, 1)], scope := .rc, len := 8, signed := false, lo := 0, hi := 0, reset := fun _ => 0 }, -- learn.half.locked
  { dims := [(0, 1)], scope := .rc, len := 8, signed := false, lo := 0, hi := 0, reset := fun _ => 0 }, -- learn.half.static_conflict
  { dims := [(0, 1)], scope := .rc, len := 8, signed := false, lo := 0, hi := 0, reset := fun _ => 0 }, -- learn.half.frozen_ignored
  { dims := [(0, 1)], scope := .rc, len := 8, signed := false, lo := 0, hi := 0, reset := fun _ => 0 }, -- learn.half.limit_dropped
  { dims := [(0, 1)], scope := .rc, len := 8, signed := false, lo := 0, hi := 0, reset := fun _ => 0 }, -- learn.half.flushed
  { dims := [], scope := .rc, len := 4, signed := false, lo := 0, hi := 0, reset := fun _ => 0 }, -- tbl.mac.flap
  { dims := [(0, 7)], scope := .rc, len := 4, signed := false, lo := 0, hi := 0, reset := fun _ => 0 }, -- tbl.parity
  { dims := [], scope := .rc, len := 4, signed := false, lo := 0, hi := 0, reset := fun _ => 0 }, -- tbl.window.lock_refused
  { dims := [], scope := .rc, len := 4, signed := false, lo := 0, hi := 0, reset := fun _ => 0 }, -- tbl.window.lock_timeout
  { dims := [], scope := .rc, len := 4, signed := false, lo := 0, hi := 0, reset := fun _ => 0 }, -- tbl.window.ro_write
  { dims := [], scope := .rc, len := 4, signed := false, lo := 0, hi := 0, reset := fun _ => 0 }, -- tbl.window.unlocked_write
  { dims := [(0, 1)], scope := .rc, len := 4, signed := false, lo := 0, hi := 0, reset := fun _ => 0 }, -- stream.half.create_full
  { dims := [(0, 1)], scope := .rc, len := 4, signed := false, lo := 0, hi := 0, reset := fun _ => 0 }, -- stream.half.bad_func
  { dims := [(0, 1)], scope := .rc, len := 4, signed := false, lo := 0, hi := 0, reset := fun _ => 0 }, -- stream.half.bad_key
  { dims := [], scope := .rc, len := 8, signed := false, lo := 0, hi := 0, reset := fun _ => 0 }, -- peer.tx_records
  { dims := [], scope := .rc, len := 8, signed := false, lo := 0, hi := 0, reset := fun _ => 0 }, -- peer.rx_records
  { dims := [], scope := .rc, len := 8, signed := false, lo := 0, hi := 0, reset := fun _ => 0 }, -- peer.rx_bad
  { dims := [], scope := .ro, len := 4, signed := false, lo := 0, hi := 0, reset := fun _ => 0 }, -- lpm.routes4
  { dims := [], scope := .ro, len := 4, signed := false, lo := 0, hi := 0, reset := fun _ => 0 }, -- lpm.routes6
  { dims := [(0, 255), (0, 15)], scope := .ed, len := 4, signed := false, lo := 0, hi := 255, reset := fun _ => 255 } ] -- tbl.bind

/-- Class 0x0F (R413), fields in the order of R414. -/
def catClass0F : List PSpec := [
  { dims := [(0, 8191)], scope := .dev, len := 4, signed := false, lo := 0, hi := 1, reset := fun _ => 0 }, -- pol.p.enable
  { dims := [(0, 8191)], scope := .dev, len := 4, signed := false, lo := 0, hi := 1, reset := fun _ => 0 }, -- pol.p.mode
  { dims := [(0, 8191)], scope := .dev, len := 4, signed := false, lo := 1, hi := 1490000000, reset := fun _ => 1 }, -- pol.p.rate
  { dims := [(0, 8191)], scope := .dev, len := 4, signed := false, lo := 1, hi := 16777215, reset := fun _ => 1 }, -- pol.p.burst
  { dims := [(0, 8191)], scope := .dev, len := 4, signed := false, lo := 0, hi := 1, reset := fun _ => 0 }, -- pol.p.action
  { dims := [(0, 8191)], scope := .rc, len := 8, signed := false, lo := 0, hi := 0, reset := fun _ => 0 }, -- pol.p.conform
  { dims := [(0, 8191)], scope := .rc, len := 8, signed := false, lo := 0, hi := 0, reset := fun _ => 0 } ] -- pol.p.exceed

/-- Class 0x10 (R413), fields in the order of R414. -/
def catClass10 : List PSpec := [
  { dims := [], scope := .dev, len := 4, signed := false, lo := 0, hi := 389120, reset := fun _ => 294912 }, -- buf.reserve_limit
  { dims := [(0, 31), (0, 1)], scope := .dev, len := 4, signed := false, lo := 0, hi := 63, reset := fun ix => ix.headD 0 + 32 * ix.getD 1 0 }, -- buf.map
  { dims := [(0, 63)], scope := .dev, len := 4, signed := false, lo := 0, hi := 393216, reset := fun _ => 0 }, -- buf.owner.floor
  { dims := [(0, 63)], scope := .dev, len := 4, signed := false, lo := 1, hi := 393216, reset := fun _ => 393216 }, -- buf.owner.max
  { dims := [(0, 63)], scope := .ro, len := 4, signed := false, lo := 0, hi := 0, reset := fun _ => 0 }, -- buf.owner.min
  { dims := [(0, 63)], scope := .ro, len := 4, signed := false, lo := 0, hi := 0, reset := fun _ => 0 }, -- buf.owner.used
  { dims := [], scope := .ro, len := 4, signed := false, lo := 0, hi := 0, reset := fun _ => 0 }, -- buf.internal.used
  { dims := [], scope := .ro, len := 4, signed := false, lo := 0, hi := 0, reset := fun _ => 0 }, -- buf.free
  { dims := [], scope := .ro, len := 4, signed := false, lo := 0, hi := 0, reset := fun _ => 0 }, -- buf.shared
  { dims := [], scope := .dev, len := 4, signed := false, lo := 0, hi := 32768, reset := fun _ => 1024 }, -- buf.internal.min
  { dims := [], scope := .dev, len := 4, signed := false, lo := 1, hi := 393216, reset := fun _ => 32768 }, -- buf.internal.max
  { dims := [], scope := .dev, len := 4, signed := false, lo := 1, hi := 1000, reset := fun _ => 20 }, -- buf.claim_hold_ms
  { dims := [(0, 63)], scope := .rc, len := 8, signed := false, lo := 0, hi := 0, reset := fun _ => 0 }, -- buf.owner.drop_max
  { dims := [(0, 63)], scope := .rc, len := 8, signed := false, lo := 0, hi := 0, reset := fun _ => 0 }, -- buf.owner.drop_shared
  { dims := [], scope := .ro, len := 4, signed := false, lo := 0, hi := 0, reset := fun _ => 0 } ] -- buf.lost

/-- Class 0x11 (R413), fields in the order of R414. -/
def catClass11 : List PSpec := [
  { dims := [(0, 35), (0, 15)], scope := .dev, len := 4, signed := false, lo := 0, hi := 67108864, reset := fun _ => 262144 }, -- tm.q.limit
  { dims := [(0, 35), (0, 15)], scope := .dev, len := 4, signed := false, lo := 0, hi := 1, reset := fun _ => 0 }, -- tm.q.mode
  { dims := [(0, 35), (0, 15)], scope := .dev, len := 4, signed := false, lo := 64, hi := 1048575, reset := fun _ => 9236 }, -- tm.q.quantum
  { dims := [(0, 35), (0, 15)], scope := .dev, len := 16, signed := false, lo := 0, hi := 2 ^ 128 - 1, reset := fun _ => 274877906944 }, -- tm.q.shaper
  { dims := [(0, 35)], scope := .dev, len := 16, signed := false, lo := 0, hi := 2 ^ 128 - 1, reset := fun _ => 274877906944 }, -- tm.port.shaper
  { dims := [(0, 35), (0, 15)], scope := .dev, len := 4, signed := false, lo := 0, hi := 2 ^ 32 - 1, reset := fun _ => 0 }, -- tm.q.fanout
  { dims := [(0, 35), (0, 15)], scope := .dev, len := 4, signed := false, lo := 0, hi := 1, reset := fun _ => 1 }, -- tm.q.express
  { dims := [(0, 35), (0, 15)], scope := .dev, len := 4, signed := false, lo := 0, hi := 1, reset := fun _ => 0 }, -- tm.q.deep
  { dims := [(0, 35), (0, 15)], scope := .dev, len := 4, signed := false, lo := 0, hi := 67108864, reset := fun _ => 131072 }, -- tm.q.spill_at
  { dims := [(0, 35), (0, 15)], scope := .dev, len := 4, signed := false, lo := 0, hi := 4294967295, reset := fun _ => 67108864 }, -- tm.q.deep_limit
  { dims := [], scope := .dev, len := 4, signed := false, lo := 16384, hi := 262144, reset := fun _ => 65536 }, -- tm.deep.prefetch
  { dims := [(0, 35)], scope := .dev, len := 4, signed := true, lo := -32, hi := 63, reset := fun _ => 20 }, -- tm.port.overhead
  { dims := [(0, 31)], scope := .ed, len := 4, signed := false, lo := 0, hi := 255, reset := fun _ => 255 }, -- tm.port.gcl
  { dims := [(0, 63)], scope := .dev, len := 0, signed := false, lo := 0, hi := 2 ^ 16512 - 1, reset := fun _ => 0 }, -- tm.gcl
  { dims := [(0, 35)], scope := .dev, len := 4, signed := false, lo := 0, hi := 1, reset := fun _ => 0 }, -- tm.port.down_action
  { dims := [(0, 31)], scope := .dev, len := 4, signed := false, lo := 0, hi := 4, reset := fun _ => 0 }, -- egr.port.red_mode
  { dims := [(0, 31)], scope := .dev, len := 4, signed := false, lo := 0, hi := 31, reset := fun ix => ix.headD 0 }, -- egr.port.red_partner
  { dims := [(0, 31)], scope := .dev, len := 4, signed := false, lo := 0, hi := 7, reset := fun _ => 0 }, -- egr.port.net_id
  { dims := [(0, 31)], scope := .dev, len := 4, signed := false, lo := 0, hi := 65535, reset := fun _ => 0 }, -- egr.red.seq
  { dims := [(0, 14)], scope := .dev, len := 4, signed := false, lo := 0, hi := 2 ^ 32 - 1, reset := fun ix => histEdgeReset (ix.headD 0) }, -- tm.hist_edge
  { dims := [(0, 35), (0, 15)], scope := .ro, len := 4, signed := false, lo := 0, hi := 0, reset := fun _ => 0 }, -- tm.q.depth_last
  { dims := [(0, 35), (0, 15)], scope := .rc, len := 4, signed := false, lo := 0, hi := 0, reset := fun _ => 0xFFFFFFFF }, -- tm.q.depth_min
  { dims := [(0, 35), (0, 15)], scope := .rc, len := 4, signed := false, lo := 0, hi := 0, reset := fun _ => 0 }, -- tm.q.depth_max
  { dims := [(0, 35), (0, 15)], scope := .ro, len := 4, signed := false, lo := 0, hi := 0, reset := fun _ => 0 }, -- tm.q.sojourn_last
  { dims := [(0, 35), (0, 15)], scope := .rc, len := 4, signed := false, lo := 0, hi := 0, reset := fun _ => 0xFFFFFFFF }, -- tm.q.sojourn_min
  { dims := [(0, 35), (0, 15)], scope := .rc, len := 4, signed := false, lo := 0, hi := 0, reset := fun _ => 0 }, -- tm.q.sojourn_max
  { dims := [(0, 35), (0, 15), (0, 15)], scope := .rc, len := 4, signed := false, lo := 0, hi := 0, reset := fun _ => 0 }, -- tm.q.hist
  { dims := [(0, 35), (0, 15)], scope := .rc, len := 8, signed := false, lo := 0, hi := 0, reset := fun _ => 0 }, -- tm.q.enqueued
  { dims := [(0, 35), (0, 15)], scope := .rc, len := 8, signed := false, lo := 0, hi := 0, reset := fun _ => 0 }, -- tm.q.dequeued
  { dims := [(0, 35), (0, 15)], scope := .rc, len := 8, signed := false, lo := 0, hi := 0, reset := fun _ => 0 }, -- tm.q.tail_drop
  { dims := [(0, 35), (0, 15)], scope := .rc, len := 8, signed := false, lo := 0, hi := 0, reset := fun _ => 0 }, -- tm.q.deep_ecc_drop
  { dims := [(0, 35)], scope := .rc, len := 8, signed := false, lo := 0, hi := 0, reset := fun _ => 0 }, -- tm.port.too_long
  { dims := [(0, 35)], scope := .rc, len := 8, signed := false, lo := 0, hi := 0, reset := fun _ => 0 }, -- tm.port.down_drop
  { dims := [(0, 35)], scope := .rc, len := 8, signed := false, lo := 0, hi := 0, reset := fun _ => 0 }, -- tm.port.tx_abort
  { dims := [(0, 35)], scope := .rc, len := 8, signed := false, lo := 0, hi := 0, reset := fun _ => 0 }, -- tm.port.protected_drop
  { dims := [(0, 31)], scope := .rc, len := 4, signed := false, lo := 0, hi := 0, reset := fun _ => 0 } ] -- egr.port.stomped

/-- Class 0x12 (R413), fields in the order of R414. -/
def catClass12 : List PSpec := [
  { dims := [], scope := .dev, len := 4, signed := false, lo := 0, hi := 2, reset := fun _ => 0 }, -- ptp.tc_mode
  { dims := [(0, 31)], scope := .ro, len := 4, signed := false, lo := 0, hi := 0, reset := fun _ => 0 }, -- time.port.link_delay
  { dims := [], scope := .rc, len := 4, signed := false, lo := 0, hi := 0, reset := fun _ => 0 }, -- time.onestep_skip
  { dims := [(0, 31)], scope := .ro, len := 4, signed := false, lo := 0, hi := 0, reset := fun _ => 0 }, -- time.port.rx_latency
  { dims := [(0, 31)], scope := .ro, len := 4, signed := false, lo := 0, hi := 0, reset := fun _ => 0 }, -- time.port.tx_latency
  { dims := [], scope := .dev, len := 4, signed := false, lo := 1, hi := 3600, reset := fun _ => 60 }, -- time.cal_interval_s
  { dims := [], scope := .ro, len := 4, signed := false, lo := 0, hi := 0, reset := fun _ => 0 }, -- time.state
  { dims := [], scope := .ro, len := 4, signed := false, lo := 0, hi := 0, reset := fun _ => 0 }, -- time.valid
  { dims := [], scope := .dev, len := 4, signed := false, lo := 10, hi := 1000000, reset := fun _ => 1000 }, -- time.step_threshold_ns
  { dims := [], scope := .dev, len := 4, signed := false, lo := 0, hi := 1000, reset := fun _ => 0 }, -- time.pps_in_delay
  { dims := [], scope := .ro, len := 16, signed := false, lo := 0, hi := 0, reset := fun _ => 0 }, -- time.pps_in.last
  { dims := [], scope := .dev, len := 4, signed := false, lo := 0, hi := 2, reset := fun _ => 0 }, -- time.pps_out_enable
  { dims := [], scope := .dev, len := 4, signed := true, lo := -1000, hi := 1000, reset := fun _ => 0 }, -- time.pps_out_offset
  { dims := [], scope := .dev, len := 4, signed := false, lo := 1, hi := 500000, reset := fun _ => 100000 }, -- time.pps_out_width_us
  { dims := [], scope := .ro, len := 4, signed := false, lo := 0, hi := 0, reset := fun _ => 0 }, -- time.hold.offset_ppb
  { dims := [(0, 1)], scope := .dev, len := 4, signed := false, lo := 0, hi := 255, reset := fun _ => 255 }, -- time.synce.lane
  { dims := [(0, 1)], scope := .dev, len := 4, signed := false, lo := 1, hi := 64, reset := fun _ => 1 }, -- time.synce.div
  { dims := [(0, 1)], scope := .dev, len := 4, signed := false, lo := 0, hi := 10000, reset := fun _ => 100 }, -- time.synce.holdoff_ms
  { dims := [], scope := .dev, len := 4, signed := false, lo := 0, hi := 3, reset := fun _ => 2 }, -- ptp.profile
  { dims := [], scope := .dev, len := 4, signed := false, lo := 0, hi := 2, reset := fun _ => 0 }, -- ptp.clock_type
  { dims := [], scope := .dev, len := 4, signed := false, lo := 0, hi := 255, reset := fun _ => 0 }, -- ptp.domain
  { dims := [], scope := .dev, len := 4, signed := false, lo := 0, hi := 1, reset := fun _ => 0 }, -- ptp.source
  { dims := [(0, 31)], scope := .dev, len := 4, signed := false, lo := 0, hi := 1, reset := fun _ => 0 }, -- ptp.port.enable
  { dims := [(0, 31)], scope := .dev, len := 4, signed := false, lo := 0, hi := 1, reset := fun _ => 1 }, -- ptp.port.two_step
  { dims := [(0, 31)], scope := .dev, len := 8, signed := true, lo := -6553600000, hi := 6553600000, reset := fun _ => 0 }, -- ptp.port.asymmetry
  { dims := [(0, 31)], scope := .dev, len := 8, signed := true, lo := -6553600000, hi := 6553600000, reset := fun _ => 0 }, -- ptp.port.ext_rx
  { dims := [(0, 31)], scope := .dev, len := 8, signed := true, lo := -6553600000, hi := 6553600000, reset := fun _ => 0 }, -- ptp.port.ext_tx
  { dims := [(0, 31)], scope := .rc, len := 4, signed := false, lo := 0, hi := 0, reset := fun _ => 0 } ] -- time.port.txstamp_lost

/-- Class 0x13 (R413), fields in the order of R414. -/
def catClass13 : List PSpec := [
  { dims := [], scope := .dev, len := 4, signed := false, lo := 0, hi := 8, reset := fun _ => 2 }, -- hbm.deep_gib
  { dims := [], scope := .dev, len := 4, signed := false, lo := 0, hi := 20, reset := fun _ => 16 }, -- hbm.capture_gib
  { dims := [], scope := .ro, len := 16, signed := false, lo := 0, hi := 0, reset := fun _ => 0 }, -- hbm.layout
  { dims := [(0, 63)], scope := .dev, len := 4, signed := false, lo := 0, hi := 1, reset := fun _ => 0 }, -- cap.rule.enable
  { dims := [(0, 63)], scope := .dev, len := 4, signed := false, lo := 0, hi := 9216, reset := fun _ => 0 }, -- cap.rule.trunc
  { dims := [(0, 63)], scope := .dev, len := 4, signed := false, lo := 0, hi := 15, reset := fun _ => 0 }, -- cap.rule.queue
  { dims := [(0, 63)], scope := .dev, len := 4, signed := false, lo := 0, hi := 1, reset := fun _ => 0 }, -- cap.rule.discards
  { dims := [(0, 63)], scope := .dev, len := 4, signed := false, lo := 0, hi := 1, reset := fun _ => 0 }, -- cap.rule.trigger
  { dims := [(0, 3)], scope := .dev, len := 4, signed := false, lo := 0, hi := 2, reset := fun _ => 0 }, -- cap.trig_in.mode
  { dims := [(0, 3)], scope := .dev, len := 4, signed := false, lo := 0, hi := 1000000, reset := fun _ => 1000 }, -- cap.trig_in.holdoff_us
  { dims := [(0, 3)], scope := .dev, len := 4, signed := false, lo := 0, hi := 1000, reset := fun _ => 0 }, -- cap.trig_in.delay_ns
  { dims := [], scope := .dev, len := 4, signed := false, lo := 0, hi := 10000, reset := fun _ => 20 }, -- hbm.sr_idle_us
  { dims := [], scope := .dev, len := 4, signed := false, lo := 1, hi := 168, reset := fun _ => 24 }, -- hbm.scrub_hours
  { dims := [], scope := .dev, len := 4, signed := false, lo := 0, hi := 60000000, reset := fun _ => 500000 }, -- cap.pre_us
  { dims := [], scope := .dev, len := 4, signed := false, lo := 0, hi := 60000000, reset := fun _ => 2000000 }, -- cap.post_us
  { dims := [(0, 1)], scope := .dev, len := 4, signed := false, lo := 0, hi := 3, reset := fun _ => 0 }, -- cap.trig_out.mode
  { dims := [(0, 1)], scope := .dev, len := 4, signed := false, lo := 1, hi := 500000, reset := fun _ => 1000 }, -- cap.trig_out.width_us
  { dims := [(0, 15)], scope := .rc, len := 4, signed := false, lo := 0, hi := 0, reset := fun _ => 0 }, -- hbm.ch.ce
  { dims := [(0, 15)], scope := .rc, len := 4, signed := false, lo := 0, hi := 0, reset := fun _ => 0 }, -- hbm.ch.ue
  { dims := [], scope := .rc, len := 4, signed := false, lo := 0, hi := 0, reset := fun _ => 0 }, -- hbm.host_ro_write
  { dims := [(0, 63)], scope := .rc, len := 8, signed := false, lo := 0, hi := 0, reset := fun _ => 0 }, -- cap.rule.recorded
  { dims := [(0, 63)], scope := .rc, len := 8, signed := false, lo := 0, hi := 0, reset := fun _ => 0 }, -- cap.rule.dropped
  { dims := [], scope := .rc, len := 8, signed := false, lo := 0, hi := 0, reset := fun _ => 0 }, -- cap.lost_full
  { dims := [], scope := .rc, len := 4, signed := false, lo := 0, hi := 0, reset := fun _ => 0 }, -- cap.trig_merged
  { dims := [], scope := .rc, len := 4, signed := false, lo := 0, hi := 0, reset := fun _ => 0 } ] -- cap.trig_refused

/-- Class 0x14 (R413), fields in the order of R414. -/
def catClass14 : List PSpec := [
  { dims := [(0, 3)], scope := .ed, len := 4, signed := false, lo := 0, hi := 1, reset := fun _ => 0 }, -- integ.class.fcs_carry_check
  { dims := [], scope := .dev, len := 4, signed := false, lo := 10, hi := 1000000, reset := fun _ => 1000 }, -- integ.coalesce_us
  { dims := [], scope := .dev, len := 4, signed := false, lo := 0, hi := 86400, reset := fun _ => 3600 }, -- integ.info_hold_s
  { dims := [], scope := .ro, len := 4, signed := false, lo := 0, hi := 0, reset := fun _ => 0 }, -- integ.log.head
  { dims := [], scope := .ro, len := 4, signed := false, lo := 0, hi := 0, reset := fun _ => 0 }, -- integ.log.seq
  { dims := [(0, 136), (0, 31)], scope := .rc, len := 4, signed := false, lo := 0, hi := 0, reset := fun _ => 0 }, -- integ.pair.total
  { dims := [(0, 8)], scope := .rc, len := 8, signed := false, lo := 0, hi := 0, reset := fun _ => 0 }, -- integ.ce
  { dims := [(0, 8)], scope := .rc, len := 8, signed := false, lo := 0, hi := 0, reset := fun _ => 0 }, -- integ.ue
  { dims := [(0, 31)], scope := .rc, len := 8, signed := false, lo := 0, hi := 0, reset := fun _ => 0 }, -- integ.port.fcs_carry_fail
  { dims := [(0, 31)], scope := .rc, len := 8, signed := false, lo := 0, hi := 0, reset := fun _ => 0 }, -- integ.port.fcs_carry_skipped
  { dims := [], scope := .rc, len := 4, signed := false, lo := 0, hi := 0, reset := fun _ => 0 }, -- integ.log.dropped
  { dims := [(0, 3)], scope := .rc, len := 4, signed := false, lo := 0, hi := 0, reset := fun _ => 0 }, -- integ.refclk_loss
  { dims := [(0, 23)], scope := .ro, len := 4, signed := false, lo := 0, hi := 0, reset := fun _ => 0 }, -- integ.temp
  { dims := [(0, 9)], scope := .ro, len := 4, signed := false, lo := 0, hi := 0, reset := fun _ => 0 } ] -- integ.supply_mv

/-- Class 0x15 (R413), fields in the order of R414. -/
def catClass15 : List PSpec := [
  { dims := [], scope := .rc, len := 8, signed := false, lo := 0, hi := 0, reset := fun _ => 0 }, -- fw.pause_rx_drop
  { dims := [], scope := .dev, len := 4, signed := false, lo := 10, hi := 3600, reset := fun _ => 120 }, -- fw.health_window_s
  { dims := [], scope := .ro, len := 4, signed := false, lo := 0, hi := 0, reset := fun _ => 0 }, -- fw.reset_cause
  { dims := [], scope := .ro, len := 4, signed := false, lo := 0, hi := 0, reset := fun _ => 0 }, -- fw.boot_count
  { dims := [], scope := .ro, len := 4, signed := false, lo := 0, hi := 0, reset := fun _ => 0 }, -- fw.rollback_step
  { dims := [], scope := .ro, len := 4, signed := false, lo := 0, hi := 0, reset := fun _ => 0 }, -- fw.settings_format
  { dims := [], scope := .dev, len := 4, signed := false, lo := 0, hi := 1, reset := fun _ => 1 }, -- svc.mode
  { dims := [], scope := .dev, len := 8, signed := false, lo := 0, hi := 2 ^ 48 - 1, reset := fun _ => 0 }, -- svc.mac
  { dims := [], scope := .rc, len := 4, signed := false, lo := 0, hi := 0, reset := fun _ => 0 } ] -- svc.rx_ignored

/-- The rows of a class (R413); other classes are reserved. -/
def catClass (c : Nat) : List PSpec :=
  if c = 0x01 then catClass01
  else if c = 0x02 then catClass02
  else if c = 0x03 then catClass03
  else if c = 0x04 then catClass04
  else if c = 0x05 then catClass05
  else if c = 0x06 then catClass06
  else if c = 0x07 then catClass07
  else if c = 0x08 then catClass08
  else if c = 0x09 then catClass09
  else if c = 0x0A then catClass0A
  else if c = 0x0B then catClass0B
  else if c = 0x0C then catClass0C
  else if c = 0x0D then catClass0D
  else if c = 0x0E then catClass0E
  else if c = 0x0F then catClass0F
  else if c = 0x10 then catClass10
  else if c = 0x11 then catClass11
  else if c = 0x12 then catClass12
  else if c = 0x13 then catClass13
  else if c = 0x14 then catClass14
  else if c = 0x15 then catClass15
  else []

/-- `host.txring.base` (R414). -/
def pidHostTxringBase (a : Nat) : Nat := 0x01000000 + 256 * a

/-- `host.txring.entries` (R414). -/
def pidHostTxringEntries (a : Nat) : Nat := 0x01000001 + 256 * a

/-- `host.txring.enable` (R414). -/
def pidHostTxringEnable (a : Nat) : Nat := 0x01000002 + 256 * a

/-- `host.rxring.base` (R414). -/
def pidHostRxringBase (a : Nat) : Nat := 0x01000003 + 256 * a

/-- `host.rxring.entries` (R414). -/
def pidHostRxringEntries (a : Nat) : Nat := 0x01000004 + 256 * a

/-- `host.rxring.buf_len` (R414). -/
def pidHostRxringBufLen (a : Nat) : Nat := 0x01000005 + 256 * a

/-- `host.rxring.enable` (R414). -/
def pidHostRxringEnable (a : Nat) : Nat := 0x01000006 + 256 * a

/-- `host.txring.bad` (R414). -/
def pidHostTxringBad (a : Nat) : Nat := 0x01000007 + 256 * a

/-- `host.event.lost` (R414). -/
def pidHostEventLost : Nat := 0x01000008

/-- `host.denied` (R414). -/
def pidHostDenied : Nat := 0x01000009

/-- `host.window_bad` (R414). -/
def pidHostWindowBad : Nat := 0x0100000A

/-- `host.gpio.func` (R414). -/
def pidHostGpioFunc (a : Nat) : Nat := 0x0100000B + 256 * a

/-- `host.gpio.out` (R414). -/
def pidHostGpioOut : Nat := 0x0100000C

/-- `host.gpio.in` (R414). -/
def pidHostGpioIn : Nat := 0x0100000D

/-- `mac.port.rx_fcs_err` (R414). -/
def pidMacPortRxFcsErr (a : Nat) : Nat := 0x02000000 + 256 * a

/-- `mac.port.rx_runt` (R414). -/
def pidMacPortRxRunt (a : Nat) : Nat := 0x02000001 + 256 * a

/-- `mac.port.rx_oversize` (R414). -/
def pidMacPortRxOversize (a : Nat) : Nat := 0x02000002 + 256 * a

/-- `mac.port.rx_no_folio` (R414). -/
def pidMacPortRxNoFolio (a : Nat) : Nat := 0x02000003 + 256 * a

/-- `mac.port.max_frame` (R414). -/
def pidMacPortMaxFrame (a : Nat) : Nat := 0x02000004 + 256 * a

/-- `mac.port.preempt` (R414). -/
def pidMacPortPreempt (a : Nat) : Nat := 0x02000005 + 256 * a

/-- `mac.port.preempt_verify` (R414). -/
def pidMacPortPreemptVerify (a : Nat) : Nat := 0x02000006 + 256 * a

/-- `mac.port.verify_ms` (R414). -/
def pidMacPortVerifyMs (a : Nat) : Nat := 0x02000007 + 256 * a

/-- `mac.port.fec_corrected` (R414). -/
def pidMacPortFecCorrected (a : Nat) : Nat := 0x02000008 + 256 * a

/-- `mac.port.fec_uncorrected` (R414). -/
def pidMacPortFecUncorrected (a : Nat) : Nat := 0x02000009 + 256 * a

/-- `path.residency_limit` (R414). -/
def pidPathResidencyLimit : Nat := 0x03000000

/-- `path.half.disp` (R414). -/
def pidPathHalfDisp (a b : Nat) : Nat := 0x03000001 + 256 * (a * 16 + b)

/-- `path.half.disp_invalid` (R414). -/
def pidPathHalfDispInvalid (a : Nat) : Nat := 0x03000002 + 256 * a

/-- `bound.slew_allowance` (R414). -/
def pidBoundSlewAllowance : Nat := 0x04000000

/-- `bound.half.state` (R414). -/
def pidBoundHalfState (a : Nat) : Nat := 0x04000001 + 256 * a

/-- `bound.half.reason` (R414). -/
def pidBoundHalfReason (a : Nat) : Nat := 0x04000002 + 256 * a

/-- `bound.class.late_action` (R414). -/
def pidBoundClassLateAction (a : Nat) : Nat := 0x04000003 + 256 * a

/-- `bound.port.class.checked` (R414). -/
def pidBoundPortClassChecked (a b : Nat) : Nat := 0x04000004 + 256 * (a * 4 + b)

/-- `bound.port.class.late` (R414). -/
def pidBoundPortClassLate (a b : Nat) : Nat := 0x04000005 + 256 * (a * 4 + b)

/-- `bound.port.class.late_suspended` (R414). -/
def pidBoundPortClassLateSuspended (a b : Nat) : Nat := 0x04000006 + 256 * (a * 4 + b)

/-- `bound.port.class.late_max` (R414). -/
def pidBoundPortClassLateMax (a b : Nat) : Nat := 0x04000007 + 256 * (a * 4 + b)

/-- `bound.half.late_check_skipped` (R414). -/
def pidBoundHalfLateCheckSkipped (a : Nat) : Nat := 0x04000008 + 256 * a

/-- `bound.contract.class` (R414). -/
def pidBoundContractClass (a : Nat) : Nat := 0x05000000 + 256 * a

/-- `bound.contract.ingress_ports` (R414). -/
def pidBoundContractIngressPorts (a : Nat) : Nat := 0x05000001 + 256 * a

/-- `bound.contract.passes` (R414). -/
def pidBoundContractPasses (a : Nat) : Nat := 0x05000002 + 256 * a

/-- `bound.contract.graph` (R414). -/
def pidBoundContractGraph (a b : Nat) : Nat := 0x05000003 + 256 * (a * 4 + b)

/-- `bound.contract.rate` (R414). -/
def pidBoundContractRate (a : Nat) : Nat := 0x05000004 + 256 * a

/-- `bound.contract.burst` (R414). -/
def pidBoundContractBurst (a : Nat) : Nat := 0x05000005 + 256 * a

/-- `bound.contract.max_len` (R414). -/
def pidBoundContractMaxLen (a : Nat) : Nat := 0x05000006 + 256 * a

/-- `bound.contract.egress_ports` (R414). -/
def pidBoundContractEgressPorts (a : Nat) : Nat := 0x05000007 + 256 * a

/-- `bound.contract.queue` (R414). -/
def pidBoundContractQueue (a : Nat) : Nat := 0x05000008 + 256 * a

/-- `bound.contract.policer` (R414). -/
def pidBoundContractPolicer (a : Nat) : Nat := 0x05000009 + 256 * a

/-- `bound.contract.max_bound` (R414). -/
def pidBoundContractMaxBound (a : Nat) : Nat := 0x0500000A + 256 * a

/-- `bound.contract.oversize` (R414). -/
def pidBoundContractOversize (a : Nat) : Nat := 0x0500000B + 256 * a

/-- `parse.tpid_extra` (R414). -/
def pidParseTpidExtra : Nat := 0x06000000

/-- `cls.profile_sel` (R414). -/
def pidClsProfileSel (a : Nat) : Nat := 0x06000001 + 256 * a

/-- `cls.profile.word` (R414). -/
def pidClsProfileWord (a b : Nat) : Nat := 0x06000002 + 256 * (a * 32 + b)

/-- `cls.profile.hash_words` (R414). -/
def pidClsProfileHashWords (a : Nat) : Nat := 0x06000003 + 256 * a

/-- `cls.hash_key` (R414). -/
def pidClsHashKey : Nat := 0x06000004

/-- `cls.range` (R414). -/
def pidClsRange (a : Nat) : Nat := 0x06000005 + 256 * a

/-- `cls.rule` (R414). -/
def pidClsRule (a : Nat) : Nat := 0x06000006 + 256 * a

/-- `exc.reason.rate` (R414). -/
def pidExcReasonRate (a : Nat) : Nat := 0x06000007 + 256 * a

/-- `exc.reason.burst` (R414). -/
def pidExcReasonBurst (a : Nat) : Nat := 0x06000008 + 256 * a

/-- `exc.reason.queue` (R414). -/
def pidExcReasonQueue (a : Nat) : Nat := 0x06000009 + 256 * a

/-- `exc.reason.capture` (R414). -/
def pidExcReasonCapture (a : Nat) : Nat := 0x0600000A + 256 * a

/-- `parse.half.frames` (R414). -/
def pidParseHalfFrames (a : Nat) : Nat := 0x0600000B + 256 * a

/-- `parse.half.reason` (R414). -/
def pidParseHalfReason (a b : Nat) : Nat := 0x0600000C + 256 * (a * 8 + b)

/-- `cls.half.rule.hits` (R414). -/
def pidClsHalfRuleHits (a b : Nat) : Nat := 0x0600000D + 256 * (a * 16384 + b)

/-- `cls.half.miss` (R414). -/
def pidClsHalfMiss (a : Nat) : Nat := 0x0600000E + 256 * a

/-- `exc.reason.sent` (R414). -/
def pidExcReasonSent (a : Nat) : Nat := 0x0600000F + 256 * a

/-- `exc.reason.dropped` (R414). -/
def pidExcReasonDropped (a : Nat) : Nat := 0x06000010 + 256 * a

/-- `edition.commits` (R414). -/
def pidEditionCommits : Nat := 0x07000000

/-- `edition.refused` (R414). -/
def pidEditionRefused (a : Nat) : Nat := 0x07000001 + 256 * a

/-- `edition.last_commit_us` (R414). -/
def pidEditionLastCommitUs : Nat := 0x07000002

/-- `edition.half.tag_count` (R414). -/
def pidEditionHalfTagCount (a b : Nat) : Nat := 0x07000003 + 256 * (a * 4 + b)

/-- `edition.half.no_edition` (R414). -/
def pidEditionHalfNoEdition (a : Nat) : Nat := 0x07000004 + 256 * a

/-- `stn.ce_limit` (R414). -/
def pidStnCeLimit : Nat := 0x08000000

/-- `stn.role.core.cal` (R414). -/
def pidStnRoleCoreCal (a b e : Nat) : Nat := 0x08000001 + 256 * ((a * 16 + b) * 16 + e)

/-- `stn.role.core.pool` (R414). -/
def pidStnRoleCorePool (a b e : Nat) : Nat := 0x08000002 + 256 * ((a * 16 + b) * 8 + e)

/-- `stn.map.pool_weight` (R414). -/
def pidStnMapPoolWeight : Nat := 0x08000003

/-- `stn.half.std_task_limit` (R414). -/
def pidStnHalfStdTaskLimit (a : Nat) : Nat := 0x08000004 + 256 * a

/-- `stn.spare_check_s` (R414). -/
def pidStnSpareCheckS : Nat := 0x08000005

/-- `stn.s.role` (R414). -/
def pidStnSRole (a : Nat) : Nat := 0x08000006 + 256 * a

/-- `stn.s.state` (R414). -/
def pidStnSState (a : Nat) : Nat := 0x08000007 + 256 * a

/-- `stn.s.halted` (R414). -/
def pidStnSHalted (a : Nat) : Nat := 0x08000008 + 256 * a

/-- `stn.s.trap` (R414). -/
def pidStnSTrap (a b : Nat) : Nat := 0x08000009 + 256 * (a * 8 + b)

/-- `stn.s.snapshot_lost` (R414). -/
def pidStnSSnapshotLost (a : Nat) : Nat := 0x0800000A + 256 * a

/-- `stn.s.signal_stale` (R414). -/
def pidStnSSignalStale (a : Nat) : Nat := 0x0800000B + 256 * a

/-- `stn.s.core.reclaimed` (R414). -/
def pidStnSCoreReclaimed (a b : Nat) : Nat := 0x0800000C + 256 * (a * 16 + b)

/-- `stn.s.ce_count` (R414). -/
def pidStnSCeCount (a : Nat) : Nat := 0x0800000D + 256 * a

/-- `stn.s.abort_packets` (R414). -/
def pidStnSAbortPackets (a : Nat) : Nat := 0x0800000E + 256 * a

/-- `stn.half.task_drop` (R414). -/
def pidStnHalfTaskDrop (a : Nat) : Nat := 0x0800000F + 256 * a

/-- `hlp.role.lock_users` (R414). -/
def pidHlpRoleLockUsers (a : Nat) : Nat := 0x09000000 + 256 * a

/-- `crypto.key` (R414). -/
def pidCryptoKey (a : Nat) : Nat := 0x09000001 + 256 * a

/-- `hlp.emu_cost` (R414). -/
def pidHlpEmuCost (a : Nat) : Nat := 0x09000002 + 256 * a

/-- `hlp.s.kills` (R414). -/
def pidHlpSKills (a : Nat) : Nat := 0x09000003 + 256 * a

/-- `hlp.s.orphans` (R414). -/
def pidHlpSOrphans (a : Nat) : Nat := 0x09000004 + 256 * a

/-- `hlp.s.helper_err` (R414). -/
def pidHlpSHelperErr (a b : Nat) : Nat := 0x09000005 + 256 * (a * 4 + b)

/-- `hlp.s.refused` (R414). -/
def pidHlpSRefused (a b : Nat) : Nat := 0x09000006 + 256 * (a * 64 + b)

/-- `hlp.s.emulated` (R414). -/
def pidHlpSEmulated (a b : Nat) : Nat := 0x09000007 + 256 * (a * 64 + b)

/-- `hlp.s.port.served` (R414). -/
def pidHlpSPortServed (a b : Nat) : Nat := 0x09000008 + 256 * (a * 2 + b)

/-- `hlp.s.port.latency_max` (R414). -/
def pidHlpSPortLatencyMax (a b : Nat) : Nat := 0x09000009 + 256 * (a * 2 + b)

/-- `hlp.s.hlock.grants` (R414). -/
def pidHlpSHlockGrants (a : Nat) : Nat := 0x0900000A + 256 * a

/-- `hlp.s.hlock.abandoned` (R414). -/
def pidHlpSHlockAbandoned (a : Nat) : Nat := 0x0900000B + 256 * a

/-- `hlp.s.hlock.wait_max` (R414). -/
def pidHlpSHlockWaitMax (a : Nat) : Nat := 0x0900000C + 256 * a

/-- `hlp.s.crypto.jobs` (R414). -/
def pidHlpSCryptoJobs (a : Nat) : Nat := 0x0900000D + 256 * a

/-- `hlp.s.crypto.errors` (R414). -/
def pidHlpSCryptoErrors (a : Nat) : Nat := 0x0900000E + 256 * a

/-- `disp.graph.op.arrival_flag` (R414). -/
def pidDispGraphOpArrivalFlag (a b : Nat) : Nat := 0x0A000000 + 256 * (a * 8 + b)

/-- `disp.graph.op.arrival_ch` (R414). -/
def pidDispGraphOpArrivalCh (a b : Nat) : Nat := 0x0A000001 + 256 * (a * 8 + b)

/-- `disp.graph.op.timer_flag` (R414). -/
def pidDispGraphOpTimerFlag (a b : Nat) : Nat := 0x0A000002 + 256 * (a * 8 + b)

/-- `disp.graph.op.timer` (R414). -/
def pidDispGraphOpTimer (a b : Nat) : Nat := 0x0A000003 + 256 * (a * 8 + b)

/-- `disp.s.stall` (R414). -/
def pidDispSStall (a : Nat) : Nat := 0x0A000004 + 256 * a

/-- `disp.graph.trap_action` (R414). -/
def pidDispGraphTrapAction (a : Nat) : Nat := 0x0A000005 + 256 * a

/-- `disp.s.dispatched` (R414). -/
def pidDispSDispatched (a : Nat) : Nat := 0x0A000006 + 256 * a

/-- `disp.s.preempted` (R414). -/
def pidDispSPreempted (a : Nat) : Nat := 0x0A000007 + 256 * a

/-- `disp.s.resumed` (R414). -/
def pidDispSResumed (a : Nat) : Nat := 0x0A000008 + 256 * a

/-- `disp.s.no_thread` (R414). -/
def pidDispSNoThread (a : Nat) : Nat := 0x0A000009 + 256 * a

/-- `disp.s.stall_max` (R414). -/
def pidDispSStallMax (a : Nat) : Nat := 0x0A00000A + 256 * a

/-- `ord.half.released` (R414). -/
def pidOrdHalfReleased (a : Nat) : Nat := 0x0A00000B + 256 * a

/-- `ord.half.holes` (R414). -/
def pidOrdHalfHoles (a : Nat) : Nat := 0x0A00000C + 256 * a

/-- `ord.half.parked_max` (R414). -/
def pidOrdHalfParkedMax (a : Nat) : Nat := 0x0A00000D + 256 * a

/-- `ord.half.domain_full` (R414). -/
def pidOrdHalfDomainFull (a : Nat) : Nat := 0x0A00000E + 256 * a

/-- `ord.west.next` (R414). -/
def pidOrdWestNext (a : Nat) : Nat := 0x0B000000 + 256 * a

/-- `ord.east.next` (R414). -/
def pidOrdEastNext (a : Nat) : Nat := 0x0C000000 + 256 * a

/-- `lock.limit_refused` (R414). -/
def pidLockLimitRefused : Nat := 0x0D000000

/-- `lock.contended` (R414). -/
def pidLockContended : Nat := 0x0D000001

/-- `lock.bad_write` (R414). -/
def pidLockBadWrite : Nat := 0x0D000002

/-- `lock.end_held` (R414). -/
def pidLockEndHeld : Nat := 0x0D000003

/-- `lock.group.mask` (R414). -/
def pidLockGroupMask (a : Nat) : Nat := 0x0D000004 + 256 * a

/-- `lock.group.abandoned` (R414). -/
def pidLockGroupAbandoned (a : Nat) : Nat := 0x0D000005 + 256 * a

/-- `chan.half.ch.depth` (R414). -/
def pidChanHalfChDepth (a b : Nat) : Nat := 0x0D000006 + 256 * (a * 256 + b)

/-- `chan.half.ch.published` (R414). -/
def pidChanHalfChPublished (a b : Nat) : Nat := 0x0D000007 + 256 * (a * 256 + b)

/-- `chan.half.ch.freed` (R414). -/
def pidChanHalfChFreed (a b : Nat) : Nat := 0x0D000008 + 256 * (a * 256 + b)

/-- `chan.half.ch.full` (R414). -/
def pidChanHalfChFull (a b : Nat) : Nat := 0x0D000009 + 256 * (a * 256 + b)

/-- `chan.half.ch.aborted` (R414). -/
def pidChanHalfChAborted (a b : Nat) : Nat := 0x0D00000A + 256 * (a * 256 + b)

/-- `chan.half.ch.damaged` (R414). -/
def pidChanHalfChDamaged (a b : Nat) : Nat := 0x0D00000B + 256 * (a * 256 + b)

/-- `tbl.part.kind` (R414). -/
def pidTblPartKind (a : Nat) : Nat := 0x0E000000 + 256 * a

/-- `tbl.part.base` (R414). -/
def pidTblPartBase (a : Nat) : Nat := 0x0E000001 + 256 * a

/-- `tbl.part.size` (R414). -/
def pidTblPartSize (a : Nat) : Nat := 0x0E000002 + 256 * a

/-- `tbl.part.key_len` (R414). -/
def pidTblPartKeyLen (a : Nat) : Nat := 0x0E000003 + 256 * a

/-- `tbl.part` (R414). -/
def pidTblPart (a : Nat) : Nat := 0x0E000004 + 256 * a

/-- `tbl.way_key` (R414). -/
def pidTblWayKey (a : Nat) : Nat := 0x0E000005 + 256 * a

/-- `tbl.learn.mode` (R414). -/
def pidTblLearnMode : Nat := 0x0E000006

/-- `tbl.learn.settle_ns` (R414). -/
def pidTblLearnSettleNs : Nat := 0x0E000007

/-- `tbl.learn.port.enable` (R414). -/
def pidTblLearnPortEnable (a : Nat) : Nat := 0x0E000008 + 256 * a

/-- `tbl.learn.port.logical` (R414). -/
def pidTblLearnPortLogical (a : Nat) : Nat := 0x0E000009 + 256 * a

/-- `tbl.learn.port.limit` (R414). -/
def pidTblLearnPortLimit (a : Nat) : Nat := 0x0E00000A + 256 * a

/-- `tbl.learn.port.excess` (R414). -/
def pidTblLearnPortExcess (a : Nat) : Nat := 0x0E00000B + 256 * a

/-- `tbl.age_tick_ms` (R414). -/
def pidTblAgeTickMs : Nat := 0x0E00000C

/-- `tbl.mac.age_limit` (R414). -/
def pidTblMacAgeLimit : Nat := 0x0E00000D

/-- `tbl.mac.sweep_ms` (R414). -/
def pidTblMacSweepMs : Nat := 0x0E00000E

/-- `tbl.mac.flush_on_down` (R414). -/
def pidTblMacFlushOnDown (a : Nat) : Nat := 0x0E00000F + 256 * a

/-- `tbl.peer.port` (R414). -/
def pidTblPeerPort : Nat := 0x0E000010

/-- `tbl.peer.queue` (R414). -/
def pidTblPeerQueue : Nat := 0x0E000011

/-- `tbl.peer.dst` (R414). -/
def pidTblPeerDst : Nat := 0x0E000012

/-- `tbl.peer.src` (R414). -/
def pidTblPeerSrc : Nat := 0x0E000013

/-- `tbl.peer.batch_us` (R414). -/
def pidTblPeerBatchUs : Nat := 0x0E000014

/-- `tbl.peer.port_map` (R414). -/
def pidTblPeerPortMap (a : Nat) : Nat := 0x0E000015 + 256 * a

/-- `tbl.window.lock_timeout_ms` (R414). -/
def pidTblWindowLockTimeoutMs : Nat := 0x0E000016

/-- `tbl.stream.sweep_ms` (R414). -/
def pidTblStreamSweepMs : Nat := 0x0E000017

/-- `tbl.stream.create_hlen` (R414). -/
def pidTblStreamCreateHlen : Nat := 0x0E000018

/-- `tbl.stream.create_reset_ms` (R414). -/
def pidTblStreamCreateResetMs : Nat := 0x0E000019

/-- `tbl.sgate` (R414). -/
def pidTblSgate (a : Nat) : Nat := 0x0E00001A + 256 * a

/-- `learn.half.submitted` (R414). -/
def pidLearnHalfSubmitted (a : Nat) : Nat := 0x0E00001B + 256 * a

/-- `learn.half.applied` (R414). -/
def pidLearnHalfApplied (a : Nat) : Nat := 0x0E00001C + 256 * a

/-- `learn.half.dropped` (R414). -/
def pidLearnHalfDropped (a : Nat) : Nat := 0x0E00001D + 256 * a

/-- `learn.half.late` (R414). -/
def pidLearnHalfLate (a : Nat) : Nat := 0x0E00001E + 256 * a

/-- `learn.half.full` (R414). -/
def pidLearnHalfFull (a : Nat) : Nat := 0x0E00001F + 256 * a

/-- `learn.half.locked` (R414). -/
def pidLearnHalfLocked (a : Nat) : Nat := 0x0E000020 + 256 * a

/-- `learn.half.static_conflict` (R414). -/
def pidLearnHalfStaticConflict (a : Nat) : Nat := 0x0E000021 + 256 * a

/-- `learn.half.frozen_ignored` (R414). -/
def pidLearnHalfFrozenIgnored (a : Nat) : Nat := 0x0E000022 + 256 * a

/-- `learn.half.limit_dropped` (R414). -/
def pidLearnHalfLimitDropped (a : Nat) : Nat := 0x0E000023 + 256 * a

/-- `learn.half.flushed` (R414). -/
def pidLearnHalfFlushed (a : Nat) : Nat := 0x0E000024 + 256 * a

/-- `tbl.mac.flap` (R414). -/
def pidTblMacFlap : Nat := 0x0E000025

/-- `tbl.parity` (R414). -/
def pidTblParity (a : Nat) : Nat := 0x0E000026 + 256 * a

/-- `tbl.window.lock_refused` (R414). -/
def pidTblWindowLockRefused : Nat := 0x0E000027

/-- `tbl.window.lock_timeout` (R414). -/
def pidTblWindowLockTimeout : Nat := 0x0E000028

/-- `tbl.window.ro_write` (R414). -/
def pidTblWindowRoWrite : Nat := 0x0E000029

/-- `tbl.window.unlocked_write` (R414). -/
def pidTblWindowUnlockedWrite : Nat := 0x0E00002A

/-- `stream.half.create_full` (R414). -/
def pidStreamHalfCreateFull (a : Nat) : Nat := 0x0E00002B + 256 * a

/-- `stream.half.bad_func` (R414). -/
def pidStreamHalfBadFunc (a : Nat) : Nat := 0x0E00002C + 256 * a

/-- `stream.half.bad_key` (R414). -/
def pidStreamHalfBadKey (a : Nat) : Nat := 0x0E00002D + 256 * a

/-- `peer.tx_records` (R414). -/
def pidPeerTxRecords : Nat := 0x0E00002E

/-- `peer.rx_records` (R414). -/
def pidPeerRxRecords : Nat := 0x0E00002F

/-- `peer.rx_bad` (R414). -/
def pidPeerRxBad : Nat := 0x0E000030

/-- `lpm.routes4` (R414). -/
def pidLpmRoutes4 : Nat := 0x0E000031

/-- `lpm.routes6` (R414). -/
def pidLpmRoutes6 : Nat := 0x0E000032

/-- `tbl.bind` (R414). -/
def pidTblBind (a b : Nat) : Nat := 0x0E000033 + 256 * (a * 16 + b)

/-- `pol.p.enable` (R414). -/
def pidPolPEnable (a : Nat) : Nat := 0x0F000000 + 256 * a

/-- `pol.p.mode` (R414). -/
def pidPolPMode (a : Nat) : Nat := 0x0F000001 + 256 * a

/-- `pol.p.rate` (R414). -/
def pidPolPRate (a : Nat) : Nat := 0x0F000002 + 256 * a

/-- `pol.p.burst` (R414). -/
def pidPolPBurst (a : Nat) : Nat := 0x0F000003 + 256 * a

/-- `pol.p.action` (R414). -/
def pidPolPAction (a : Nat) : Nat := 0x0F000004 + 256 * a

/-- `pol.p.conform` (R414). -/
def pidPolPConform (a : Nat) : Nat := 0x0F000005 + 256 * a

/-- `pol.p.exceed` (R414). -/
def pidPolPExceed (a : Nat) : Nat := 0x0F000006 + 256 * a

/-- `buf.reserve_limit` (R414). -/
def pidBufReserveLimit : Nat := 0x10000000

/-- `buf.map` (R414). -/
def pidBufMap (a b : Nat) : Nat := 0x10000001 + 256 * (a * 2 + b)

/-- `buf.owner.floor` (R414). -/
def pidBufOwnerFloor (a : Nat) : Nat := 0x10000002 + 256 * a

/-- `buf.owner.max` (R414). -/
def pidBufOwnerMax (a : Nat) : Nat := 0x10000003 + 256 * a

/-- `buf.owner.min` (R414). -/
def pidBufOwnerMin (a : Nat) : Nat := 0x10000004 + 256 * a

/-- `buf.owner.used` (R414). -/
def pidBufOwnerUsed (a : Nat) : Nat := 0x10000005 + 256 * a

/-- `buf.internal.used` (R414). -/
def pidBufInternalUsed : Nat := 0x10000006

/-- `buf.free` (R414). -/
def pidBufFree : Nat := 0x10000007

/-- `buf.shared` (R414). -/
def pidBufShared : Nat := 0x10000008

/-- `buf.internal.min` (R414). -/
def pidBufInternalMin : Nat := 0x10000009

/-- `buf.internal.max` (R414). -/
def pidBufInternalMax : Nat := 0x1000000A

/-- `buf.claim_hold_ms` (R414). -/
def pidBufClaimHoldMs : Nat := 0x1000000B

/-- `buf.owner.drop_max` (R414). -/
def pidBufOwnerDropMax (a : Nat) : Nat := 0x1000000C + 256 * a

/-- `buf.owner.drop_shared` (R414). -/
def pidBufOwnerDropShared (a : Nat) : Nat := 0x1000000D + 256 * a

/-- `buf.lost` (R414). -/
def pidBufLost : Nat := 0x1000000E

/-- `tm.q.limit` (R414). -/
def pidTmQLimit (a b : Nat) : Nat := 0x11000000 + 256 * (a * 16 + b)

/-- `tm.q.mode` (R414). -/
def pidTmQMode (a b : Nat) : Nat := 0x11000001 + 256 * (a * 16 + b)

/-- `tm.q.quantum` (R414). -/
def pidTmQQuantum (a b : Nat) : Nat := 0x11000002 + 256 * (a * 16 + b)

/-- `tm.q.shaper` (R414). -/
def pidTmQShaper (a b : Nat) : Nat := 0x11000003 + 256 * (a * 16 + b)

/-- `tm.port.shaper` (R414). -/
def pidTmPortShaper (a : Nat) : Nat := 0x11000004 + 256 * a

/-- `tm.q.fanout` (R414). -/
def pidTmQFanout (a b : Nat) : Nat := 0x11000005 + 256 * (a * 16 + b)

/-- `tm.q.express` (R414). -/
def pidTmQExpress (a b : Nat) : Nat := 0x11000006 + 256 * (a * 16 + b)

/-- `tm.q.deep` (R414). -/
def pidTmQDeep (a b : Nat) : Nat := 0x11000007 + 256 * (a * 16 + b)

/-- `tm.q.spill_at` (R414). -/
def pidTmQSpillAt (a b : Nat) : Nat := 0x11000008 + 256 * (a * 16 + b)

/-- `tm.q.deep_limit` (R414). -/
def pidTmQDeepLimit (a b : Nat) : Nat := 0x11000009 + 256 * (a * 16 + b)

/-- `tm.deep.prefetch` (R414). -/
def pidTmDeepPrefetch : Nat := 0x1100000A

/-- `tm.port.overhead` (R414). -/
def pidTmPortOverhead (a : Nat) : Nat := 0x1100000B + 256 * a

/-- `tm.port.gcl` (R414). -/
def pidTmPortGcl (a : Nat) : Nat := 0x1100000C + 256 * a

/-- `tm.gcl` (R414). -/
def pidTmGcl (a : Nat) : Nat := 0x1100000D + 256 * a

/-- `tm.port.down_action` (R414). -/
def pidTmPortDownAction (a : Nat) : Nat := 0x1100000E + 256 * a

/-- `egr.port.red_mode` (R414). -/
def pidEgrPortRedMode (a : Nat) : Nat := 0x1100000F + 256 * a

/-- `egr.port.red_partner` (R414). -/
def pidEgrPortRedPartner (a : Nat) : Nat := 0x11000010 + 256 * a

/-- `egr.port.net_id` (R414). -/
def pidEgrPortNetId (a : Nat) : Nat := 0x11000011 + 256 * a

/-- `egr.red.seq` (R414). -/
def pidEgrRedSeq (a : Nat) : Nat := 0x11000012 + 256 * a

/-- `tm.hist_edge` (R414). -/
def pidTmHistEdge (a : Nat) : Nat := 0x11000013 + 256 * a

/-- `tm.q.depth_last` (R414). -/
def pidTmQDepthLast (a b : Nat) : Nat := 0x11000014 + 256 * (a * 16 + b)

/-- `tm.q.depth_min` (R414). -/
def pidTmQDepthMin (a b : Nat) : Nat := 0x11000015 + 256 * (a * 16 + b)

/-- `tm.q.depth_max` (R414). -/
def pidTmQDepthMax (a b : Nat) : Nat := 0x11000016 + 256 * (a * 16 + b)

/-- `tm.q.sojourn_last` (R414). -/
def pidTmQSojournLast (a b : Nat) : Nat := 0x11000017 + 256 * (a * 16 + b)

/-- `tm.q.sojourn_min` (R414). -/
def pidTmQSojournMin (a b : Nat) : Nat := 0x11000018 + 256 * (a * 16 + b)

/-- `tm.q.sojourn_max` (R414). -/
def pidTmQSojournMax (a b : Nat) : Nat := 0x11000019 + 256 * (a * 16 + b)

/-- `tm.q.hist` (R414). -/
def pidTmQHist (a b e : Nat) : Nat := 0x1100001A + 256 * ((a * 16 + b) * 16 + e)

/-- `tm.q.enqueued` (R414). -/
def pidTmQEnqueued (a b : Nat) : Nat := 0x1100001B + 256 * (a * 16 + b)

/-- `tm.q.dequeued` (R414). -/
def pidTmQDequeued (a b : Nat) : Nat := 0x1100001C + 256 * (a * 16 + b)

/-- `tm.q.tail_drop` (R414). -/
def pidTmQTailDrop (a b : Nat) : Nat := 0x1100001D + 256 * (a * 16 + b)

/-- `tm.q.deep_ecc_drop` (R414). -/
def pidTmQDeepEccDrop (a b : Nat) : Nat := 0x1100001E + 256 * (a * 16 + b)

/-- `tm.port.too_long` (R414). -/
def pidTmPortTooLong (a : Nat) : Nat := 0x1100001F + 256 * a

/-- `tm.port.down_drop` (R414). -/
def pidTmPortDownDrop (a : Nat) : Nat := 0x11000020 + 256 * a

/-- `tm.port.tx_abort` (R414). -/
def pidTmPortTxAbort (a : Nat) : Nat := 0x11000021 + 256 * a

/-- `tm.port.protected_drop` (R414). -/
def pidTmPortProtectedDrop (a : Nat) : Nat := 0x11000022 + 256 * a

/-- `egr.port.stomped` (R414). -/
def pidEgrPortStomped (a : Nat) : Nat := 0x11000023 + 256 * a

/-- `ptp.tc_mode` (R414). -/
def pidPtpTcMode : Nat := 0x12000000

/-- `time.port.link_delay` (R414). -/
def pidTimePortLinkDelay (a : Nat) : Nat := 0x12000001 + 256 * a

/-- `time.onestep_skip` (R414). -/
def pidTimeOnestepSkip : Nat := 0x12000002

/-- `time.port.rx_latency` (R414). -/
def pidTimePortRxLatency (a : Nat) : Nat := 0x12000003 + 256 * a

/-- `time.port.tx_latency` (R414). -/
def pidTimePortTxLatency (a : Nat) : Nat := 0x12000004 + 256 * a

/-- `time.cal_interval_s` (R414). -/
def pidTimeCalIntervalS : Nat := 0x12000005

/-- `time.state` (R414). -/
def pidTimeState : Nat := 0x12000006

/-- `time.valid` (R414). -/
def pidTimeValid : Nat := 0x12000007

/-- `time.step_threshold_ns` (R414). -/
def pidTimeStepThresholdNs : Nat := 0x12000008

/-- `time.pps_in_delay` (R414). -/
def pidTimePpsInDelay : Nat := 0x12000009

/-- `time.pps_in.last` (R414). -/
def pidTimePpsInLast : Nat := 0x1200000A

/-- `time.pps_out_enable` (R414). -/
def pidTimePpsOutEnable : Nat := 0x1200000B

/-- `time.pps_out_offset` (R414). -/
def pidTimePpsOutOffset : Nat := 0x1200000C

/-- `time.pps_out_width_us` (R414). -/
def pidTimePpsOutWidthUs : Nat := 0x1200000D

/-- `time.hold.offset_ppb` (R414). -/
def pidTimeHoldOffsetPpb : Nat := 0x1200000E

/-- `time.synce.lane` (R414). -/
def pidTimeSynceLane (a : Nat) : Nat := 0x1200000F + 256 * a

/-- `time.synce.div` (R414). -/
def pidTimeSynceDiv (a : Nat) : Nat := 0x12000010 + 256 * a

/-- `time.synce.holdoff_ms` (R414). -/
def pidTimeSynceHoldoffMs (a : Nat) : Nat := 0x12000011 + 256 * a

/-- `ptp.profile` (R414). -/
def pidPtpProfile : Nat := 0x12000012

/-- `ptp.clock_type` (R414). -/
def pidPtpClockType : Nat := 0x12000013

/-- `ptp.domain` (R414). -/
def pidPtpDomain : Nat := 0x12000014

/-- `ptp.source` (R414). -/
def pidPtpSource : Nat := 0x12000015

/-- `ptp.port.enable` (R414). -/
def pidPtpPortEnable (a : Nat) : Nat := 0x12000016 + 256 * a

/-- `ptp.port.two_step` (R414). -/
def pidPtpPortTwoStep (a : Nat) : Nat := 0x12000017 + 256 * a

/-- `ptp.port.asymmetry` (R414). -/
def pidPtpPortAsymmetry (a : Nat) : Nat := 0x12000018 + 256 * a

/-- `ptp.port.ext_rx` (R414). -/
def pidPtpPortExtRx (a : Nat) : Nat := 0x12000019 + 256 * a

/-- `ptp.port.ext_tx` (R414). -/
def pidPtpPortExtTx (a : Nat) : Nat := 0x1200001A + 256 * a

/-- `time.port.txstamp_lost` (R414). -/
def pidTimePortTxstampLost (a : Nat) : Nat := 0x1200001B + 256 * a

/-- `hbm.deep_gib` (R414). -/
def pidHbmDeepGib : Nat := 0x13000000

/-- `hbm.capture_gib` (R414). -/
def pidHbmCaptureGib : Nat := 0x13000001

/-- `hbm.layout` (R414). -/
def pidHbmLayout : Nat := 0x13000002

/-- `cap.rule.enable` (R414). -/
def pidCapRuleEnable (a : Nat) : Nat := 0x13000003 + 256 * a

/-- `cap.rule.trunc` (R414). -/
def pidCapRuleTrunc (a : Nat) : Nat := 0x13000004 + 256 * a

/-- `cap.rule.queue` (R414). -/
def pidCapRuleQueue (a : Nat) : Nat := 0x13000005 + 256 * a

/-- `cap.rule.discards` (R414). -/
def pidCapRuleDiscards (a : Nat) : Nat := 0x13000006 + 256 * a

/-- `cap.rule.trigger` (R414). -/
def pidCapRuleTrigger (a : Nat) : Nat := 0x13000007 + 256 * a

/-- `cap.trig_in.mode` (R414). -/
def pidCapTrigInMode (a : Nat) : Nat := 0x13000008 + 256 * a

/-- `cap.trig_in.holdoff_us` (R414). -/
def pidCapTrigInHoldoffUs (a : Nat) : Nat := 0x13000009 + 256 * a

/-- `cap.trig_in.delay_ns` (R414). -/
def pidCapTrigInDelayNs (a : Nat) : Nat := 0x1300000A + 256 * a

/-- `hbm.sr_idle_us` (R414). -/
def pidHbmSrIdleUs : Nat := 0x1300000B

/-- `hbm.scrub_hours` (R414). -/
def pidHbmScrubHours : Nat := 0x1300000C

/-- `cap.pre_us` (R414). -/
def pidCapPreUs : Nat := 0x1300000D

/-- `cap.post_us` (R414). -/
def pidCapPostUs : Nat := 0x1300000E

/-- `cap.trig_out.mode` (R414). -/
def pidCapTrigOutMode (a : Nat) : Nat := 0x1300000F + 256 * a

/-- `cap.trig_out.width_us` (R414). -/
def pidCapTrigOutWidthUs (a : Nat) : Nat := 0x13000010 + 256 * a

/-- `hbm.ch.ce` (R414). -/
def pidHbmChCe (a : Nat) : Nat := 0x13000011 + 256 * a

/-- `hbm.ch.ue` (R414). -/
def pidHbmChUe (a : Nat) : Nat := 0x13000012 + 256 * a

/-- `hbm.host_ro_write` (R414). -/
def pidHbmHostRoWrite : Nat := 0x13000013

/-- `cap.rule.recorded` (R414). -/
def pidCapRuleRecorded (a : Nat) : Nat := 0x13000014 + 256 * a

/-- `cap.rule.dropped` (R414). -/
def pidCapRuleDropped (a : Nat) : Nat := 0x13000015 + 256 * a

/-- `cap.lost_full` (R414). -/
def pidCapLostFull : Nat := 0x13000016

/-- `cap.trig_merged` (R414). -/
def pidCapTrigMerged : Nat := 0x13000017

/-- `cap.trig_refused` (R414). -/
def pidCapTrigRefused : Nat := 0x13000018

/-- `integ.class.fcs_carry_check` (R414). -/
def pidIntegClassFcsCarryCheck (a : Nat) : Nat := 0x14000000 + 256 * a

/-- `integ.coalesce_us` (R414). -/
def pidIntegCoalesceUs : Nat := 0x14000001

/-- `integ.info_hold_s` (R414). -/
def pidIntegInfoHoldS : Nat := 0x14000002

/-- `integ.log.head` (R414). -/
def pidIntegLogHead : Nat := 0x14000003

/-- `integ.log.seq` (R414). -/
def pidIntegLogSeq : Nat := 0x14000004

/-- `integ.pair.total` (R414). -/
def pidIntegPairTotal (a b : Nat) : Nat := 0x14000005 + 256 * (a * 32 + b)

/-- `integ.ce` (R414). -/
def pidIntegCe (a : Nat) : Nat := 0x14000006 + 256 * a

/-- `integ.ue` (R414). -/
def pidIntegUe (a : Nat) : Nat := 0x14000007 + 256 * a

/-- `integ.port.fcs_carry_fail` (R414). -/
def pidIntegPortFcsCarryFail (a : Nat) : Nat := 0x14000008 + 256 * a

/-- `integ.port.fcs_carry_skipped` (R414). -/
def pidIntegPortFcsCarrySkipped (a : Nat) : Nat := 0x14000009 + 256 * a

/-- `integ.log.dropped` (R414). -/
def pidIntegLogDropped : Nat := 0x1400000A

/-- `integ.refclk_loss` (R414). -/
def pidIntegRefclkLoss (a : Nat) : Nat := 0x1400000B + 256 * a

/-- `integ.temp` (R414). -/
def pidIntegTemp (a : Nat) : Nat := 0x1400000C + 256 * a

/-- `integ.supply_mv` (R414). -/
def pidIntegSupplyMv (a : Nat) : Nat := 0x1400000D + 256 * a

/-- `fw.pause_rx_drop` (R414). -/
def pidFwPauseRxDrop : Nat := 0x15000000

/-- `fw.health_window_s` (R414). -/
def pidFwHealthWindowS : Nat := 0x15000001

/-- `fw.reset_cause` (R414). -/
def pidFwResetCause : Nat := 0x15000002

/-- `fw.boot_count` (R414). -/
def pidFwBootCount : Nat := 0x15000003

/-- `fw.rollback_step` (R414). -/
def pidFwRollbackStep : Nat := 0x15000004

/-- `fw.settings_format` (R414). -/
def pidFwSettingsFormat : Nat := 0x15000005

/-- `svc.mode` (R414). -/
def pidSvcMode : Nat := 0x15000006

/-- `svc.mac` (R414). -/
def pidSvcMac : Nat := 0x15000007

/-- `svc.rx_ignored` (R414). -/
def pidSvcRxIgnored : Nat := 0x15000008

end Sys2Proof.Machine
end

