-- ==== Sys2Proof/Machine/Params.lean ====
section
/-! DEFINITION. Reading and writing parameters and counters by parameter ID (R411 to R414), and counting (R444 and the tables of the
manual). -/

namespace Sys2Proof.Machine

/-- Fewest bits that hold `n` (R412). -/
def idxWidth (n : Nat) : Nat := if n = 0 then 0 else Nat.log2 n + 1

/-- Splits an instance into indices; `dims` is given last index first, and the result is given first index first. -/
def splitInstance (dims : List (Nat × Nat)) (inst : Nat) (acc : List Nat) : Option (List Nat) :=
  match dims with
  | [] => if inst = 0 then some acc else none
  | (lo, hi) :: rest =>
    let w := 2 ^ idxWidth hi
    let i := inst % w
    if lo ≤ i ∧ i ≤ hi then splitInstance rest (inst / w) (i :: acc) else none

/-- The row and the indices that a parameter ID names (R412 to R414); none for an ID that names nothing. -/
def pinfo (id : Nat) : Option (PSpec × List Nat) :=
  match (catClass (id / 2 ^ 24))[id % 256]? with
  | none => none
  | some p =>
    match splitInstance p.dims.reverse (id / 256 % 2 ^ 16) [] with
    | none => none
    | some ix => some (p, ix)

/-- The reset value of a parameter or counter. -/
def preset (id : Nat) : Nat :=
  match pinfo id with
  | none => 0
  | some (p, ix) => p.reset ix

/-- The value length of a parameter or counter in bytes; 8 for a name that the catalogue does not hold. -/
def plen (id : Nat) : Nat :=
  match pinfo id with
  | none => 8
  | some (p, _) => p.len

/-- The present value of a device parameter or counter. -/
def pget (s : State) (id : Nat) : Nat := sget (preset id) s.par id

/-- Writes a device parameter or counter. -/
def pset (s : State) (id v : Nat) : State := { s with par := sset (preset id) s.par id v }

/-- The value of a counter of `len` bytes after `n` more counts; beyond its width the manual gives no value. -/
def counterPlus (id len old n : Nat) : Nat :=
  if old + n < 2 ^ (8 * len) then old + n
  else (Config.counterPast id (old + n - 2 ^ (8 * len))).toNat % 2 ^ (8 * len)

/-- Counts `n` in a counter. -/
def pcount (s : State) (id n : Nat) : State := pset s id (counterPlus id (plen id) (pget s id) n)

/-- Counts one. -/
def pinc (s : State) (id : Nat) : State := pcount s id 1

/-- Keeps the largest value (the `_max` figures of the manual), saturating at the figure's width. -/
def pmax (s : State) (id v : Nat) : State :=
  let v := min v (2 ^ (8 * plen id) - 1)
  if pget s id < v then pset s id v else s

/-- Counts one, saturating (R433). -/
def psat (s : State) (id : Nat) : State := pset s id (satAdd (8 * plen id) (pget s id) 1)

/-! ### Edition parameters (R88, R89) -/

/-- The live edition that carries a tag (R95). -/
def liveEd (s : State) (tag : Nat) : Option Live := sget none s.ed.live tag

/-- A parameter of a live edition; an unlisted ID reads the catalogue's reset value. -/
def Live.get (e : Live) (id : Nat) : Nat := sget (preset id) e.vals id

/-- A parameter of the edition with a tag, the reset value when the tag is not live. -/
def edGet (s : State) (tag id : Nat) : Nat :=
  match liveEd s tag with
  | none => preset id
  | some e => e.get id

/-- The newest live edition (R89). -/
def newestEd (s : State) : Option Live :=
  match s.ed.newest with
  | none => none
  | some t => liveEd s t

/-- Every live edition with its tag. -/
def liveEds (s : State) : List (Nat × Live) := spresent s.ed.live

end Sys2Proof.Machine
end

