-- ==== Sys2Proof/Machine/HbmMem.lean ====
section
/-! DEFINITION. The layout of the in-package memory (R371, R372, R374): regions, channels, requests, lines and their poison (R378, R379), and
the host region as the device itself reaches it (R396). -/

namespace Sys2Proof.Machine

/-! ### Regions and channels (R371, R372, R374) -/

/-- The unit of the region sizes: 512 MiB. -/
def hbmUnit : Nat := 2 ^ 29

/-- Bytes of the capture region, and of what the host reaches: the capture region, then the host region (R381). -/
def captureBytes (s : State) : Nat := s.hbm.capture * hbmUnit
def hdmBytes (s : State) : Nat := (s.hbm.capture + s.hbm.host) * hbmUnit

/-- The device address of an HDM offset: the Registrar's 512 MiB and the deep region come first (R371). -/
def deviceAddr (s : State) (off : Nat) : Nat := (1 + s.hbm.deep) * hbmUnit + off

/-- Healthy channels in ascending order. -/
def healthyChannels (s : State) : List Nat := (List.range 16).filter fun c => s.hbm.healthy.getLsbD c

/-- The channel of a device address: 256-byte units, over the healthy pseudo-channels (R372). -/
def channelOf (s : State) (a : Nat) : Nat :=
  let cs := healthyChannels s
  cs.getD (a / 256 % (2 * cs.length) / 2) 0

/-- The pseudo-channel of a device address. -/
def pseudoOf (s : State) (a : Nat) : Nat := 2 * channelOf s a + a / 256 % 2

/-- A request to a channel: self-refresh ends (R378). -/
def requestChannel (s : State) (c : Nat) : State :=
  { s with hbm := { s.hbm with
      lastReq := sset 0 s.hbm.lastReq c s.clk
      selfRefresh := s.hbm.selfRefresh &&& ~~~ BitVec.ofNat 16 (2 ^ c) } }

/-- The requests of an access of `n` bytes from a device address on (R372, R378). -/
def requestRange (s : State) (a n : Nat) : State :=
  (List.range (ceilDiv (a % 256 + n) 256)).foldl (fun s i => requestChannel s (channelOf s (a + 256 * i))) s

/-! ### Lines (R379 to R381) -/

/-- A line of HBM has 64 bytes (PRESUMED, log entry 35). -/
def lineBytes : Nat := 64

/-- Lines that a range of addresses touches. -/
def linesOf (a n : Nat) : List Nat :=
  if n = 0 then [] else (List.range ((a + n - 1) / lineBytes - a / lineBytes + 1)).map (· + a / lineBytes)

/-- Writes bytes at an HDM offset; a line that is written is no longer poisoned (R379). -/
def writeHdm (s : State) (off : Nat) (bs : List Byte) : State :=
  let s := requestRange s (deviceAddr s off) bs.length
  let bad := (linesOf (deviceAddr s off) bs.length).foldl (fun m l => sset false m l false) s.hbm.poisoned
  { s with hbm := { s.hbm with mem := ssetRange 0 s.hbm.mem off bs, poisoned := bad } }

/-- A range of HDM offsets meets a poisoned line. -/
def rangePoisoned (s : State) (off n : Nat) : Bool := (linesOf (deviceAddr s off) n).any fun l => sget false s.hbm.poisoned l

/-! ### The Registrar's region of HBM (R371, R379) -/

/-- Bytes of the edition staging area, from device address 0, and of the station image copy, which follows it (R371). -/
def editionArea : Nat := 2 ^ 28
def imageArea : Nat := 2 ^ 26

/-- A line of `n` bytes from a device address on is poisoned: a read of the area meets an uncorrectable error (R379). -/
def areaPoisoned (s : State) (a n : Nat) : Bool :=
  s.hbm.poisoned.any fun lb => lb.2 && a ≤ lb.1 * lineBytes && lb.1 * lineBytes < a + n

/-- An area is written anew: its lines are no longer poisoned (R379). -/
def writeArea (s : State) (a n : Nat) : State :=
  { s with hbm := { s.hbm with poisoned := s.hbm.poisoned.filter fun lb => !(a ≤ lb.1 * lineBytes && lb.1 * lineBytes < a + n) } }

/-! ### Host memory over PCIe (R396) -/

/-- A range of BAR2 offsets lies in the host region (R396). -/
def inHost (s : State) (a n : Nat) : Bool := captureBytes s ≤ a && a + n ≤ hdmBytes s

/-- The bytes at a BAR2 offset. -/
def pcieBytes (s : State) (a n : Nat) : List Byte := sgetRange 0 s.hbm.mem a n

end Sys2Proof.Machine
end

