-- ==== Sys2Proof/Machine/Ops.lean ====
section
/-! DEFINITION. The operations that every family shares: halves and ports, Datum time and stamps, access to stations, threads and
tasks, attention and the event ring, the event log, and the fault aggregator. -/

namespace Sys2Proof.Machine

/-! ### Answers -/

/-- The outcome of every step. -/
abbrev Result := Host.Outcome State Fault Refusal

/-! ### Halves, ports, identities (R15, R131, R430) -/

/-- The half index h. -/
def hIdx (h : Hf) : Nat :=
  match h with
  | .west => 0
  | .east => 1

/-- The half with index h. -/
def hfOf (n : Nat) : Hf := if n = 0 then .west else .east

/-- The half of a line port (R15). -/
def portHalf (p : Nat) : Hf := if p % 16 < 8 then .west else .east

/-- The state of a half. -/
def getHalf (s : State) (h : Hf) : HalfState :=
  match h with
  | .west => s.west
  | .east => s.east

/-- Changes the state of a half. -/
def modHalf (s : State) (h : Hf) (f : HalfState → HalfState) : State :=
  match h with
  | .west => { s with west := f s.west }
  | .east => { s with east := f s.east }

/-- core × 8 + thread. -/
def tlane (t : Tid) : Nat := 8 * t.core.val + t.thr.val

/-- The master identity of a thread (R131). -/
def masterId (stn lane : Nat) : Nat := stn * 128 + lane

/-- The half that a role code serves (R114); none for SPARE and NONE. -/
def roleHalf (r : Nat) : Option Hf := if r < 8 then some .west else if r < 16 then some .east else none

/-! ### Datum time (R349 to R351) -/

/-- 2^-32 ns per second. -/
def unitsPerSec : Nat := 10 ^ 9 * 2 ^ 32

/-- Datum now, in 2^-32 ns. -/
def now (s : State) : Nat := s.datum.units

/-- Whole nanoseconds. -/
def nsTotal (u : Nat) : Nat := u / 2 ^ 32

/-- The short stamp of a time (R350). -/
def shortStamp (u : Nat) : Nat :=
  (u / unitsPerSec % 2 ^ 34) * 2 ^ 30 + nsTotal u % 10 ^ 9

/-- The low 32 bits of absolute nanoseconds of a short stamp (R350). -/
def stampNs32 (st : Nat) : Nat := (st / 2 ^ 30 * 10 ^ 9 + st % 2 ^ 30) % 2 ^ 32

/-- The fraction of a time in 2^-16 ns (R349). -/
def frac16 (u : Nat) : Nat := u % 2 ^ 32 / 2 ^ 16

/-- The time record of a time (R349). -/
def timeRecord (u : Nat) : List Byte :=
  leBytes 6 (u / unitsPerSec) ++ leBytes 4 (nsTotal u % 10 ^ 9) ++ leBytes 2 (frac16 u) ++ leBytes 4 0

/-- Datum time as the short stamp of now. -/
def nowStamp (s : State) : Nat := shortStamp (now s)

/-- CORE cycles per microsecond, millisecond and second (R11). -/
def usCycles : Nat := 1250
def msCycles : Nat := 1250000
def secCycles : Nat := 1250000000

/-- `a` is earlier than `b` by modular difference (R25, R234). -/
def earlier32 (a b : Nat) : Bool :=
  let d := sub32 b a
  1 ≤ d && d ≤ 2 ^ 31 - 1

/-! ### Stations, threads, tasks -/

def getStn (s : State) (k : Nat) : Station := sget {} s.stn k

def modStn (s : State) (k : Nat) (f : Station → Station) : State := { s with stn := smod {} s.stn k f }

def getThr (s : State) (k lane : Nat) : Thread := sget {} (getStn s k).threads lane

def modThr (s : State) (k lane : Nat) (f : Thread → Thread) : State :=
  modStn s k fun st => { st with threads := smod {} st.threads lane f }

def getTask (s : State) (k i : Nat) : Task := sget {} (getStn s k).tasks i

def modTask (s : State) (k i : Nat) (f : Task → Task) : State :=
  modStn s k fun st => { st with tasks := smod {} st.tasks i f }

/-- The half of a station, by its role; none out of a role. -/
def stnHalf (s : State) (k : Nat) : Option Hf := roleHalf (getStn s k).role

/-- Entries of the task store that are occupied, with their tasks (R230). -/
def occupied (st : Station) : List (Nat × Task) := st.tasks.filter fun kt => kt.2.st != .free

/-- The station in service that fills a role (R114, R141). -/
def stationOfRole (s : State) (r : Nat) : Option Nat :=
  (List.range 17).find? fun k => (getStn s k).st = 0 && (getStn s k).role = r

/-- Stations that serve a half: in service, in one of its roles (R52). -/
def servingStations (s : State) (h : Hf) : List Nat :=
  (List.range 17).filter fun k => (getStn s k).st = 0 && roleHalf (getStn s k).role = some h

/-- A packet, when the descriptor index names one. -/
def getPkt (s : State) (i : Nat) : Option Packet := sget none s.pkts i

def setPkt (s : State) (i : Nat) (p : Packet) : State := { s with pkts := sset none s.pkts i (some p) }

def modPkt (s : State) (i : Nat) (f : Packet → Packet) : State :=
  match getPkt s i with
  | none => s
  | some p => setPkt s i (f p)

/-- The snapshot entry that a packet's trap record names may be used again: the packet has gone, with its record or without (R131). -/
def markReusable (s : State) (p : Packet) : State :=
  match p.trap with
  | none => s
  | some r =>
    modStn s (leAt r 4 2 / 128) fun st => { st with
      shelf := smod none st.shelf (leAt r 2 2) fun x => x.map fun x => if x.record = r then { x with reusable := true } else x }

/-- A packet leaves the device. -/
def dropPkt (s : State) (i : Nat) : State :=
  let s := match getPkt s i with
    | none => s
    | some p => markReusable s p
  { s with pkts := sset none s.pkts i none }

/-! ### Descriptor fields (R22, R23) -/

/-- Fields of the descriptor as lowest bit and width (R22). -/
def fStamp : Nat × Nat := (0, 64)
def fDue : Nat × Nat := (64, 32)
def fClass : Nat × Nat := (96, 2)
def fQueue : Nat × Nat := (98, 4)
def fEgress : Nat × Nat := (102, 6)
def fIngress : Nat × Nat := (108, 6)
def fLength : Nat × Nat := (114, 14)
def fPass : Nat × Nat := (133, 2)
def fTag : Nat × Nat := (135, 2)
def fDisp : Nat × Nat := (137, 4)
def fFolio : Nat × Nat := (141, 19)
def fAccession : Nat × Nat := (160, 16)
def fDomain : Nat × Nat := (176, 16)
def fPathCode : Nat × Nat := (192, 16)
def fFlags : Nat × Nat := (208, 16)
def fGraph : Nat × Nat := (248, 8)
def fOffType : Nat × Nat := (256, 8)
def fOffMpls : Nat × Nat := (264, 8)
def fOffL3 : Nat × Nat := (272, 8)
def fOffL4 : Nat × Nat := (280, 8)
def fOffApp : Nat × Nat := (288, 8)
def fOffHsr : Nat × Nat := (296, 8)
def fOffPayload : Nat × Nat := (304, 8)
def fOffPrp : Nat × Nat := (320, 8)
def fTailValid : Nat × Nat := (328, 8)

/-- A bit of the flags field (R23). -/
def fFlag (i : Nat) : Nat × Nat := (208 + i, 1)
def flHeadPartial : Nat := 4
def flEdited : Nat := 5
def flFcsCarry : Nat := 6
def flOneStep : Nat := 7
def flPtpEvent : Nat := 8
def flShared : Nat := 9
def flHsrTag : Nat := 10
def flPrpTrailer : Nat := 11
def flUnordered : Nat := 12
def flDeep : Nat := 13
def flCapture : Nat := 14
def flLate : Nat := 15

/-- The descriptor bits that a program may write (R22, R23). -/
def descRw : BitVec 512 :=
  BitVec.ofNat 512 (15 * 2 ^ 98 + 63 * 2 ^ 102 + (2 ^ 14 - 1) * 2 ^ 114 + 15 * 2 ^ 137 + 2 ^ 215)

def Packet.get (p : Packet) (f : Nat × Nat) : Nat := dget p.desc f.1 f.2

def Packet.put (p : Packet) (f : Nat × Nat) (v : Nat) : Packet := { p with desc := dput p.desc f.1 f.2 v }

def Packet.flag (p : Packet) (i : Nat) : Bool := p.get (fFlag i) = 1

/-- Class codes (R19). -/
def clsStandard : Nat := 0
def clsTimed : Nat := 1
def clsAssured : Nat := 2
def clsControl : Nat := 3

/-- Assured and timed packets have a due time (R25). -/
def bounded (cls : Nat) : Bool := cls = 1 || cls = 2

/-- Disposition codes (R26). -/
def dForward : Nat := 0
def dDiscardProgram : Nat := 1
def dToHost : Nat := 2
def dParseException : Nat := 3
def dClassifyMiss : Nat := 4
def dPolicerDrop : Nat := 5
def dBufferDrop : Nat := 6
def dDuplicate : Nat := 7
def dTrapHost : Nat := 8
def dTrapDiscard : Nat := 9
def dStationAbort : Nat := 10
def dPassLimit : Nat := 11
def dNoEgress : Nat := 12
def dResidency : Nat := 13
def dLateDiscard : Nat := 14
def dFcsCarryFail : Nat := 15

/-! ### Attention and the event ring (R415, R421) -/

/-- Entries of the event ring, none when it is disabled (R398). -/
def eventRingSize (s : State) : Option Nat :=
  let c := s.host.eventCfg.toNat
  let l := c % 32
  if bitOf c 31 && 6 ≤ l && l ≤ 16 then some (2 ^ l) else none

/-- Some receive ring has FILLED ≠ CONSUMED (R421). -/
def rxPending (s : State) : Bool := s.host.rxRings.any fun kr => kr.2.filled != kr.2.consumed

/-- A critical or fatal fault has not been cleared (R421, R436). -/
def faultPending (s : State) : Bool :=
  s.flt.fatal || (spresent s.flt.pairs).any fun kp => kp.2.latched

/-- Some command or packet ring has been stopped (R404, R421). -/
def ringErrorPending (s : State) : Bool :=
  (s.host.rings.any fun kr => kr.2.error) || (s.host.txRings.any fun kr => kr.2.stopped) || s.host.rxRings.any fun kr => kr.2.stopped

/-- ATTN_STATUS (R421). -/
def attnStatus (s : State) : Nat :=
  (s.host.rings.foldl (fun m kr => if kr.2.cq.isEmpty then m else m + 2 ^ kr.1) 0)
    + b2n (!s.host.events.isEmpty) * 2 ^ 8 + b2n (rxPending s) * 2 ^ 9
    + b2n (faultPending s) * 2 ^ 10 + b2n (ringErrorPending s) * 2 ^ 11

/-- ATTN_PENDING (R398). -/
def attnPending (s : State) : BitVec 32 := BitVec.ofNat 32 (attnStatus s) &&& ~~~ s.host.attnMask

/-- The vector of a source (R421). -/
def msixVector (s : State) (b : Nat) : Nat := if s.host.msixMode.getLsbD 0 then b else 0

/-- Sends the message of one source. -/
def sendMsix (s : State) (b : Nat) : State :=
  { s with host := { s.host with msix := (msixVector s b :: s.host.msix).take 16 } }

/-- Evaluates ATTN_PENDING: a message for every bit that has changed from 0 to 1 (R421). -/
def settleAttn (s : State) : State :=
  let p := attnPending s
  let rising := p &&& ~~~ s.host.attnSeen
  let s := (List.range 12).foldl (fun s b => if rising.getLsbD b then sendMsix s b else s) s
  { s with host := { s.host with attnSeen := p } }

/-- The newest live serial, 0 for none (R441). -/
def newestSerial (s : State) : Nat :=
  match newestEd s with
  | none => 0
  | some e => e.serial

/-- A log entry of now (R441). -/
def mkLogEnt (s : State) (code cls : Nat) (detail : List Byte) : LogEnt :=
  { code := code, cls := cls, time := timeRecord (now s), boot := pget s pidFwBootCount, edition := newestSerial s,
    detail := fitBytes detail 16, count := 1, last := nowStamp s, fw := s.fw.version,
    timeState := s.datum.st + 4 * b2n s.datum.valid }

/-- An event-ring entry (R415). -/
def eventBytes (e : Event) : List Byte :=
  leBytes 2 e.code ++ leBytes 1 e.cls ++ leBytes 1 (b2n e.phase) ++ leBytes 4 e.seq ++ leBytes 8 e.stamp ++ fitBytes e.detail 16

/-- Writes an entry at the tail of the event ring (R415). -/
def pushEvent (s : State) (n : Nat) (e : Event) : State :=
  let tail := (s.host.eventTail + 1) % n
  { s with host := { s.host with
      eventTail := tail, events := s.host.events ++ [e], eventPhase := if tail = 0 then !s.host.eventPhase else s.host.eventPhase } }

/-- Puts an event into the event ring, or counts it lost (R415). Over PCIe the ring lies in the host region of HBM; one that does not is
stopped, which counts as disabled (R396, R404). -/
def ringEvent (s : State) (code cls : Nat) (detail : List Byte) : State :=
  let h := s.host
  let e : Event := { code := code, cls := cls, phase := h.eventPhase, seq := h.eventSeq, stamp := nowStamp s, detail := fitBytes detail 16 }
  let s := { s with host := { h with eventSeq := (h.eventSeq + 1) % 2 ^ 32 } }
  match eventRingSize s with
  | none => pinc s pidHostEventLost
  | some n =>
    let a := h.eventBaseHi.toNat * 2 ^ 32 + h.eventBaseLo.toNat + 32 * h.eventTail
    if (h.eventTail + 1) % n = h.eventHead then pinc s pidHostEventLost
    else if h.cxl then pushEvent s n e
    else if inHost s a 32 then pushEvent (writeHdm s a (eventBytes e)) n e
    else pinc { s with host := { s.host with eventCfg := s.host.eventCfg &&& 0x1F } } pidHostEventLost

/-- Logs an event or fault: the event ring, the Registrar's log queue, attention (R415, R442). -/
def logEvent (s : State) (code cls : Nat) (detail : List Byte) : State :=
  let ent := mkLogEnt s code cls detail
  let s := ringEvent s code cls detail
  settleAttn { s with flt := { s.flt with logQ := s.flt.logQ ++ [ent] } }

/-! ### The fault aggregator (R430 to R437) -/

/-- Classes (R415). -/
def clsInfo : Nat := 0
def clsWarning : Nat := 1
def clsMajor : Nat := 2
def clsCritical : Nat := 3
def clsFatal : Nat := 4

/-- The 16 detail bytes of a fault (R440). -/
def faultDetail (src ty reporter a0 a1 a2 : Nat) : List Byte :=
  leBytes 1 src ++ leBytes 1 ty ++ leBytes 2 reporter ++ leBytes 4 a0 ++ leBytes 4 a1 ++ leBytes 4 a2

def pairKey (src ty : Nat) : Nat := 32 * src + ty

def getPair (s : State) (src ty : Nat) : Option Pair := sget none s.flt.pairs (pairKey src ty)

def setPair (s : State) (src ty : Nat) (p : Pair) : State :=
  { s with flt := { s.flt with pairs := sset none s.flt.pairs (pairKey src ty) (some p) } }

/-- The log entry is the one of a fault of this source and type. -/
def entOf (src ty : Nat) (e : LogEnt) : Bool :=
  e.code = 0x8000 + ty && e.detail.head? = some (BitVec.ofNat 8 src)

/-- Changes the last element that satisfies `p`. -/
def modLast {α : Type} (p : α → Bool) (f : α → α) (l : List α) : List α :=
  match l with
  | [] => []
  | x :: rest => if rest.any p then x :: modLast p f rest else if p x then f x :: rest else x :: rest

/-- Rewrites count and last stamp of the log entry of a window (R433): in the record store, or in the Registrar's queue when the
entry has not been written yet. -/
def rewriteEntry (s : State) (src ty : Nat) (p : Pair) : State :=
  let f (e : LogEnt) : LogEnt := { e with count := p.count, last := p.last, flags := putBits e.flags 1 1 1 }
  match p.logIdx with
  | some i =>
    { s with store := { s.store with
        log := smod none s.store.log i fun e => e.map fun e => if entOf src ty e then f e else e } }
  | none => { s with flt := { s.flt with logQ := modLast (entOf src ty) f s.flt.logQ } }

/-- Closes the open window of a pair (R433). -/
def closeWindow (s : State) (src ty : Nat) : State :=
  match getPair s src ty with
  | none => s
  | some p =>
    if p.openWin then
      let s := setPair s src ty { p with openWin := false }
      if 1 < p.count then rewriteEntry s src ty p else s
    else s

/-- The effects of a fatal fault (R437): no transmission, BUSY, FAULT_N. -/
def enterFatal (s : State) : State :=
  { s with flt := { s.flt with fatal := true }, fw := { s.fw with busy := true, ready := false } }

/-- A pair after a report that opens a window. -/
def openPair (s : State) (p : Pair) (cls : Nat) : Pair :=
  { p with cls := cls, openWin := true, closeAt := s.clk + pget s pidIntegCoalesceUs * usCycles, count := 1,
           first := nowStamp s, last := nowStamp s, order := s.flt.orders + 1, logIdx := none }

/-- One report to the aggregator (R433 to R437). -/
def report (s : State) (src ty cls reporter a0 a1 a2 : Nat) : State :=
  let p := (getPair s src ty).getD {}
  let s := psat s (pidIntegPairTotal src ty)
  let s := { s with flt := { s.flt with total := satAdd 32 s.flt.total 1 } }
  let latch (p : Pair) : Pair :=
    if clsCritical ≤ cls then { p with latched := true, latchedCls := max p.latchedCls cls } else p
  let fresh := !p.openWin || p.cls < cls
  let s := if fresh then
      let s := closeWindow s src ty
      let s := setPair s src ty (latch (openPair s p cls))
      let s := { s with flt := { s.flt with orders := s.flt.orders + 1 } }
      logEvent s (0x8000 + ty) cls (faultDetail src ty reporter a0 a1 a2)
    else setPair s src ty (latch { p with count := satAdd 32 p.count 1, last := nowStamp s })
  let s := if cls = clsFatal then enterFatal s else s
  settleAttn s

/-- FAULT_N is asserted (R436). -/
def faultN (s : State) : Bool := faultPending s

/-! ### Replies (R407) -/

/-- A reply that waits for its completion. -/
def sendReply (s : State) (h : CmdHdr) (opcode status : Nat) (payload : List Byte) : State :=
  let r : Reply := { iface := h.iface, opcode := opcode, status := status, tag := h.tag, payload := payload }
  { s with host := { s.host with done := s.host.done ++ [r] } }

/-! ### The guarantee's state (R52 to R54) -/

/-- The environment monitors read outside the limits (R432). -/
def environmentBad (s : State) : Bool := s.flt.tempOut || s.flt.supplyOut != 0

/-- `bound.half[h].reason` (R53); zero until the Registrar is ready, and kept up in the fatal state, which stops no command (R437). A halted
station counts while it fills a role of the half: leaving the role takes it out of R52's condition, as STATION_READMIT does (DEDUCED, log
entry 77). -/
def boundReason (s : State) (h : Hf) : Nat :=
  if s.fw.ready || s.fw.pause || s.flt.fatal then
    b2n (environmentBad s)
      + b2n ((servingStations s h).length < 7) * 2
      + b2n ((List.range 17).any fun k => (getStn s k).halted && stnHalf s k = some h) * 4
      + b2n s.datum.stepWin.isSome * 8
  else 0

/-- `bound.half[h].state` (R52). -/
def boundState (s : State) (h : Hf) : Nat := b2n (boundReason s h != 0)

/-- Logs the changes of one half's reason field against an earlier state (R52). -/
def settleBound (s0 s : State) (h : Hf) : State :=
  let r0 := boundReason s0 h
  let r1 := boundReason s h
  let detail := leBytes 1 (hIdx h) ++ leBytes 4 r1
  let s := (List.range 4).foldl (fun s b => if bitOf r1 b && !bitOf r0 b then logEvent s 0x0010 clsWarning detail else s) s
  if r1 = 0 && r0 != 0 then logEvent s 0x0011 clsInfo detail else s

/-- Both halves. -/
def settleBounds (s0 s : State) : State := settleBound s0 (settleBound s0 s .west) .east

/-! ### Counters without an ID (R339) -/

/-- `mac.port[p]` counters that the manual names in prose only (R338, R339): verify_fail, frag_tx, hold, rx_assembly_ok, rx_assembly_err,
rx_smd_err, rx_frag; the model gives them numbers beyond the ID space. -/
def pidVerifyFail (p : Nat) : Nat := 2 ^ 32 + 256 * p
def pidFragTx (p : Nat) : Nat := 2 ^ 32 + 256 * p + 1
def pidHoldCount (p : Nat) : Nat := 2 ^ 32 + 256 * p + 2
def pidRxAssemblyOk (p : Nat) : Nat := 2 ^ 32 + 256 * p + 3
def pidRxAssemblyErr (p : Nat) : Nat := 2 ^ 32 + 256 * p + 4
def pidRxSmdErr (p : Nat) : Nat := 2 ^ 32 + 256 * p + 5
def pidRxFrag (p : Nat) : Nat := 2 ^ 32 + 256 * p + 6

/-! ### Residency (R21, R33) -/

/-- The limit in force in ms (R33). -/
def residencyLimit (s : State) : Nat := pget s pidPathResidencyLimit

/-- An interval of one residency limit measured from an earlier instant with its limit, in CORE cycles: the larger limit applies
(R33). -/
def residencyInterval (s : State) (lim0 : Nat) : Nat := max lim0 (residencyLimit s) * msCycles

/-- The ingress stamp of a packet in 2^-32 ns, within the 2^34 seconds of a short stamp (R350, R352). -/
def stampUnits (p : Packet) : Nat :=
  let st := p.get fStamp
  (st / 2 ^ 30 * 10 ^ 9 + st % 2 ^ 30) * 2 ^ 32 + p.frac * 2 ^ 16

/-- The age of a packet exceeds the limit; a negative age counts as over it, and an age equal to it does not (R21, R366). -/
def overResidency (s : State) (p : Packet) : Bool :=
  let m := 2 ^ 34 * unitsPerSec
  let age := (now s % m + m - stampUnits p % m) % m
  m / 2 ≤ age || residencyLimit s * 10 ^ 6 * 2 ^ 32 < age

end Sys2Proof.Machine
end

