-- ==== Sys2Proof/Machine/Buffer.lean ====
section
/-! DEFINITION. The packet buffer (R315 to R323): folios, free lists, reference counts, accounts and their sums. -/

namespace Sys2Proof.Machine

/-! ### Free lists (R316) -/

/-- Folios of a bank. -/
def bankSize : Nat := 24576

/-- Data bytes of a folio (R315). -/
def folioData : Nat := 248

def getBank (s : State) (b : Nat) : Bank := sget {} s.buf.banks b

def modBank (s : State) (b : Nat) (f : Bank → Bank) : State :=
  { s with buf := { s.buf with banks := smod {} s.buf.banks b f } }

def getFolio (s : State) (i : Nat) : Option Folio := sget none s.buf.folios i

def setFolio (s : State) (i : Nat) (x : Option Folio) : State :=
  { s with buf := { s.buf with folios := sset none s.buf.folios i x } }

/-- A freed ordinal enters the back of the cache when the cache has room, else it becomes the list head (R316). -/
def bankFree (b : Bank) (i : Nat) : Bank :=
  if b.cache.length < 64 then { b with cache := b.cache ++ [i] } else { b with freed := i :: b.freed }

/-- Moves the head of the bank's list to the back of the cache (R316). -/
def bankMove (b : Bank) : Bank :=
  match b.freed with
  | i :: rest => { b with cache := b.cache ++ [i], freed := rest }
  | [] => if b.fresh < b.stop then { b with cache := b.cache ++ [b.fresh], fresh := b.fresh + 1 } else b

/-- The refill of a cache below 16 entries, up to 64 or the end of the list (R316). -/
def bankRefill (b : Bank) : Bank :=
  if b.cache.length < 16 then (List.range (64 - b.cache.length)).foldl (fun b _ => bankMove b) b else b

/-- The bank that a writer takes its next folio from: the first from its pointer on whose cache is not empty (R316). -/
def nextBank (s : State) (writer : Nat) : Option Nat :=
  let p := sget 0 s.buf.ptr writer
  ((List.range 16).map fun i => (p + i) % 16).find? fun b => !(getBank s b).cache.isEmpty

/-- Takes one folio for a writer and fills it; none when every cache is empty (R316, R317). -/
def takeFolio (s : State) (writer acct : Nat) (data : List Byte) : Option (State × Nat) :=
  match nextBank s writer with
  | none => none
  | some b =>
    match (getBank s b).cache with
    | [] => none
    | i :: rest =>
      let idx := 16 * i + b
      let s := modBank s b fun k => { k with cache := rest }
      let s := { s with buf := { s.buf with
        ptr := sset 0 s.buf.ptr writer ((b + 1) % 16)
        waiting := if acct = 65 then s.buf.waiting + 1 else s.buf.waiting } }
      some (setFolio s idx (some { refs := 1, data := data, acct := acct }), idx)

/-- The account of a freed folio is discharged (R320, R322). -/
def discharge (s : State) (acct : Nat) : State :=
  if acct < 65 then { s with buf := { s.buf with used := smod 0 s.buf.used acct (· - 1) } }
  else if acct = 65 then { s with buf := { s.buf with waiting := s.buf.waiting - 1 } }
  else s

/-- A folio's count reaches 0: it returns to its bank (R316, R317). -/
def freeFolio (s : State) (idx : Nat) : State :=
  match getFolio s idx with
  | none => s
  | some f => discharge (modBank (setFolio s idx none) (idx % 16) fun b => bankFree b (idx / 16)) f.acct

/-- One reference to a folio is given up (R317). -/
def dropRef (s : State) (idx : Nat) : State :=
  match getFolio s idx with
  | none => s
  | some f => if f.refs ≤ 1 then freeFolio s idx else setFolio s idx (some { f with refs := f.refs - 1 })

/-- One reference to every folio of a list is given up. -/
def dropRefs (s : State) (fs : List Nat) : State := fs.foldl dropRef s

/-- Every folio of a list gains references (R317). -/
def addRefs (s : State) (fs : List Nat) (n : Nat) : State :=
  fs.foldl (fun s i => match getFolio s i with
    | none => s
    | some f => setFolio s i (some { f with refs := f.refs + n })) s

/-- Writes pieces of a frame into folios, in order; on the first that finds no folio, those written are freed again. -/
def writePieces (s : State) (writer acct : Nat) (pieces : List (List Byte)) (done : List Nat) : Option (State × List Nat) :=
  match pieces with
  | [] => some (s, done.reverse)
  | d :: rest =>
    match takeFolio s writer acct d with
    | some (s, i) => writePieces s writer acct rest (i :: done)
    | none => none

/-- Cuts a list into pieces of at most `n`. -/
def pieces {α : Type} (n : Nat) (l : List α) : List (List α) :=
  (List.range (ceilDiv l.length n)).map fun i => (l.drop (n * i)).take n

/-- Links the folios of a chain (R315). -/
def linkChain (s : State) (fs : List Nat) : State :=
  match fs with
  | i :: j :: rest =>
    let s := match getFolio s i with
      | none => s
      | some f => setFolio s i (some { f with next := some j })
    linkChain s (j :: rest)
  | _ => s

/-- Writes a frame into new folios for a writer; none when a folio is missing (R315, R316). -/
def writeFrame (s : State) (writer acct : Nat) (bytes : List Byte) : Option (State × List Nat) :=
  match writePieces s writer acct (pieces folioData bytes) [] with
  | none => none
  | some (s, fs) => some (linkChain s fs, fs)

/-- The bytes of a chain. -/
def chainBytes (s : State) (fs : List Nat) : List Byte :=
  fs.flatMap fun i => match getFolio s i with
    | none => []
    | some f => f.data

/-- A folio of a chain has an uncorrectable error (R318): the first such folio. -/
def badFolio (s : State) (fs : List Nat) : Option Nat :=
  fs.find? fun i => match getFolio s i with
    | none => true
    | some f => f.bad

/-! ### Accounts (R319 to R323) -/

/-- Free folios, F. -/
def freeFolios (s : State) : Nat := 393216 - s.buf.folios.length - pget s pidBufLost

/-- What a setting adds to an account's minimum: the floor of an owner, all of the internal account's (R319). -/
def acctFloor (s : State) (a : Nat) : Nat := if a = 64 then pget s pidBufInternalMin else pget s (pidBufOwnerFloor a)

/-- The minimum of an account in force (R319, R323). -/
def acctMin (s : State) (a : Nat) : Nat := sget 0 s.buf.minima a + sget 0 s.buf.floors a

/-- The minimum of an account under the settings as they stand: a raised one waits for step 5 of a commit (R323; log entry 64). -/
def acctWant (s : State) (a : Nat) : Nat := sget 0 s.buf.minima a + acctFloor s a

/-- A lowered floor takes effect at once, a raised one does not yet (R323). -/
def lowerFloor (s : State) (a : Nat) : State :=
  { s with buf := { s.buf with floors := smod 0 s.buf.floors a fun x => min x (acctFloor s a) } }

def acctMax (s : State) (a : Nat) : Nat := if a = 64 then pget s pidBufInternalMax else pget s (pidBufOwnerMax a)

def acctUsed (s : State) (a : Nat) : Nat := sget 0 s.buf.used a

/-- H: the unused part of all minima (R320). -/
def unusedMinima (s : State) : Nat := ((List.range 65).map fun a => acctMin s a - acctUsed s a).sum

/-- S: shared folios (R320). -/
def sharedFolios (s : State) : Int :=
  (freeFolios s : Int) + s.buf.waiting - unusedMinima s - 4096

/-- How an admission ends (R320). -/
inductive Admit where
  | ok
  | max
  | shared
  deriving DecidableEq, Repr

/-- The admission of `n` folios to an account (R320). -/
def admitTest (s : State) (a n : Nat) : Admit :=
  let within := min n (acctMin s a - acctUsed s a)
  let beyond := n - within
  if acctMax s a < acctUsed s a + n then .max
  else if 0 < beyond && (sharedFolios s - s.buf.claim < (beyond : Int)) then .shared
  else .ok

/-- Charges waiting folios to an account (R319, R320). -/
def charge (s : State) (a : Nat) (fs : List Nat) : State :=
  let s := fs.foldl (fun s i => match getFolio s i with
    | none => s
    | some f => setFolio s i (some { f with acct := a })) s
  { s with buf := { s.buf with used := smod 0 s.buf.used a (· + fs.length), waiting := s.buf.waiting - fs.length } }

/-- A damaged link word of a free folio cuts its bank's list before it: that folio and those beyond are lost (R318). -/
def cutFree (s : State) (idx : Nat) : State :=
  let i := idx / 16
  let b := getBank s (idx % 16)
  let lose (s : State) (n : Nat) (f : Bank → Bank) : State := modBank (pset s pidBufLost (pget s pidBufLost + n)) (idx % 16) f
  if b.freed.contains i then
    let kept := b.freed.takeWhile (· != i)
    lose s (b.freed.length - kept.length + (b.stop - b.fresh)) fun b => { b with freed := kept, stop := b.fresh }
  else if b.fresh ≤ i && i < b.stop then lose s (b.stop - i) fun b => { b with stop := i }
  else s

/-- The folios that follow one on its chain (R315). -/
def chainAfter (s : State) (i fuel : Nat) : List Nat :=
  match fuel with
  | 0 => []
  | fuel + 1 =>
    match (getFolio s i).bind (·.next) with
    | none => []
    | some j => j :: chainAfter s j fuel

/-- A folio in use is lost: neither held nor free until reset (R318). -/
def loseFolio (s : State) (i : Nat) : State :=
  match getFolio s i with
  | none => s
  | some f =>
    let s := pset (setFolio s i none) pidBufLost (pget s pidBufLost + 1)
    if f.acct = 65 then { s with buf := { s.buf with waiting := s.buf.waiting - 1 } } else s

/-- A folio with an uncorrectable error in its data or, with `link`, in its link word (R318): one in use is marked, and behind a damaged link
the rest of its chain is lost; a free one cuts its list. -/
def damageFolio (s : State) (i : Nat) (link : Bool) : State :=
  match getFolio s i with
  | some f =>
    let rest := if link then chainAfter s i 38 else []
    rest.foldl loseFolio (setFolio s i (some { f with bad := true }))
  | none => if i < 393216 then cutFree s i else s

/-- A bank whose cache holds fewer than 16 entries refills it (R316); any other bank does nothing. -/
def execFolioCacheRefill (b : Fin 16) (s : State) : Result := .next (modBank s b.val bankRefill)

end Sys2Proof.Machine
end

