-- ==== Sys2Proof/Machine/Gate.lean ====
section
/-! DEFINITION. Gate lists and gate positions, shared by the stream gates (R311) and the gate control lists of the ports (R336). The byte
layout of the records is the model's own (DESIGN CHOICE, log entry 16). -/

namespace Sys2Proof.Machine

/-- An entry of a gate list: its value and its interval in ns. -/
structure GateEnt where
  val : Nat := 0
  ns : Nat := 0
  deriving DecidableEq, Repr

/-- A gate list: cycle in ns, base time in ns, entries. -/
structure GateList where
  cycle : Nat := 0
  base : Nat := 0
  ents : List GateEnt := []
  deriving DecidableEq, Repr

/-- A gate list from its record: cycle (4 bytes), base as an 80-bit time (10), count (2), then entries of 8 bytes with their value in
the first four and their interval in the last four. -/
def gateOfRecord (r : Nat) : GateList :=
  let n := bitsOf r 112 16
  { cycle := bitsOf r 0 32
    base := bitsOf r 32 48 * 10 ^ 9 + bitsOf r 80 32
    ents := (List.range n).map fun i => { val := bitsOf r (128 + 64 * i) 32, ns := bitsOf r (160 + 64 * i) 32 } }

/-- Position of a time in ns in the cycle (R311, R337). -/
def gatePos (g : GateList) (t : Nat) : Nat := (((t : Int) - g.base) % (g.cycle : Int)).toNat

/-- The entry in force at a position: its index and what is left of it. -/
def gateAtPos (ents : List GateEnt) (pos i : Nat) : Option (Nat × GateEnt × Nat) :=
  match ents with
  | [] => none
  | e :: rest => if pos < e.ns then some (i, e, e.ns - pos) else gateAtPos rest (pos - e.ns) (i + 1)

/-- The entry of a gate list in force at a time. -/
def gateEntry (g : GateList) (t : Nat) : Option (Nat × GateEnt × Nat) :=
  if g.cycle = 0 then none else gateAtPos g.ents (gatePos g t) 0

/-- The start of the first cycle after a time. -/
def nextCycleStart (g : GateList) (t : Nat) : Nat := if g.cycle = 0 then t else t + (g.cycle - gatePos g t)

/-- The intervals sum to the cycle (R311). -/
def gateSums (g : GateList) : Bool := (g.ents.map (·.ns)).sum = g.cycle

end Sys2Proof.Machine
end

