-- ==== Sys2Proof/Machine/Clock.lean ====
section
/-! DEFINITION. The counter of Datum (R351, R364, R367): the rate, the addition of a TIME cycle, and the slew that it applies. -/

namespace Sys2Proof.Machine

/-! ### The counter (R351, R367) -/

/-- 500 ppm in 2^-16 ppb. -/
def maxOffset : Int := 500000 * 65536

/-- TIME cycles in which a slew applies its offset (R367). -/
def slewCycles (w : Slew) : Nat := ceilDiv (w.offset.natAbs * 10 ^ 10) (65536 * 16 * w.rate.natAbs)

/-- The slew has still to be applied in this cycle. -/
def slewActive (w : Slew) : Bool := w.cycles < slewCycles w

/-- The frequency offset and the rate of an active slew, in 2^-16 ppb (R351). -/
def rateSum (d : Datum) : Int :=
  match d.slew with
  | none => d.freq
  | some w => if slewActive w then d.freq + w.rate * 65536 else d.freq

/-- A rate held within 500 ppm (R351). -/
def withinMax (x : Int) : Int := if maxOffset < x then maxOffset else if x < -maxOffset then -maxOffset else x

/-- r in 2^-16 ppb, within ±500 ppm (R351). -/
def rateNow (d : Datum) : Int := withinMax (rateSum d)

/-- The whole 2^-32 ns that one TIME cycle adds at the present rate. -/
def tickFloor (d : Datum) : Nat := (2 ^ 32 * 16 * (65536 * 10 ^ 9 + rateNow d) / (10 * 65536 * 10 ^ 9)).toNat

/-- The addition of one TIME cycle in 2^-32 ns, held to that unit; the direction of rounding is open (log entry 8). -/
def timeIncrement (d : Datum) : Nat :=
  let num := 2 ^ 32 * 16 * (65536 * 10 ^ 9 + rateNow d)
  let den := 10 * 65536 * 10 ^ 9
  let q := (num / den).toNat
  if num % den = 0 then q else q + b2n (Config.datumRound d.cycle)

/-- The end of the scale, 2^48 s (R364). -/
def datumEnd : Nat := 2 ^ 48 * unitsPerSec

/-- One TIME cycle; Datum never wraps (R364). -/
def timeTick (d : Datum) : Datum :=
  { d with
    units := min (d.units + timeIncrement d) (datumEnd - 1)
    cycle := d.cycle + 1
    slew := d.slew.map fun w => if slewActive w then { w with cycles := w.cycles + 1 } else w }

end Sys2Proof.Machine
end

