-- ==== Sys2Proof/Machine/Cmd.lean ====
section
/-! DEFINITION. What every host command shares (R406 to R409, R420): status codes, permissions, the checks of R408, and the reply. -/

namespace Sys2Proof.Machine

/-! ### Status codes (R409) -/

def stOk : Nat := 0x0000
def stPending : Nat := 0x0001
def stBusy : Nat := 0x0002
def stNotReady : Nat := 0x0003
def stBadOpcode : Nat := 0x0010
def stBadParam : Nat := 0x0011
def stNoPermission : Nat := 0x0012
def stNoResource : Nat := 0x0013
def stBoundExceeded : Nat := 0x0020
def stVerifyFailed : Nat := 0x0021
def stEditionLimit : Nat := 0x0022
def stEditionState : Nat := 0x0023
def stTimeout : Nat := 0x0030
def stHwFault : Nat := 0x0031
def stImageInvalid : Nat := 0x0040
def stImageRollback : Nat := 0x0041
def stUpdateInterrupted : Nat := 0x0042

/-! ### Permissions (R420) -/

/-- The opcodes that the host rings never have (R4, R420): IMAGE_BEGIN, IMAGE_DATA, IMAGE_END, IMAGE_ABORT. -/
def serviceOnly (op : Nat) : Bool := op = 0x0800 || op = 0x0801 || op = 0x0802 || op = 0x0804

/-- The fuse permission of an opcode's group on an interface. -/
def groupPermitted (s : State) (i : Iface) (op : Nat) : Bool :=
  let g := op / 256
  match i with
  | .ring _ => s.fuses.hostGroups.getLsbD (g - 1) && !serviceOnly op
  | .service => s.fuses.svcGroups.getLsbD (g - 1)

/-- Step 3 of R408. -/
def permitted (s : State) (i : Iface) (op : Nat) : Bool := op / 256 = 1 || groupPermitted s i op

/-- The device accepts commands: BUSY is low (R423). -/
def accepting (s : State) : Bool := !s.fw.busy

/-! ### A command -/

/-- What a command comes to: the state after it, its status and its payload; `none` for a command that answers later. -/
abbrev Answer := State × Option (Nat × List Byte)

/-- A refusal that changes nothing. -/
def refuse (s : State) (st : Nat) : Answer := (s, some (st, []))

/-- Done, with a payload. -/
def answer (s : State) (payload : List Byte) : Answer := (s, some (stOk, payload))

/-- Appends the reply of an answer. -/
def finish (h : CmdHdr) (op : Nat) (a : Answer) : State :=
  match a.2 with
  | none => a.1
  | some (st, payload) => sendReply a.1 h op st payload

/-- Steps 3 and 4 of R408 and the reserved header field of step 1, then the command itself with step 5. A device that accepts no
command performs none (R423). -/
def hostCmd (s : State) (h : CmdHdr) (op : Nat) (flags : BitVec 16) (body : State → Answer) : Result :=
  if !accepting s then .next s
  else if h.rsvd != 0 then .next (sendReply s h op stBadParam [])
  else if !permitted s h.iface op then .next (sendReply (pinc s pidHostDenied) h op stNoPermission [])
  else if s.fw.recovery && 2 ≤ op / 256 && op / 256 ≤ 7 then .next (sendReply s h op stNotReady [])
  else if h.flags &&& ~~~ flags != 0 then .next (sendReply s h op stBadParam [])
  else .next (finish h op (body s))

/-- A command whose parameters have exactly `n` bytes. -/
def hostCmdN (s : State) (h : CmdHdr) (op : Nat) (flags : BitVec 16) (ps : List Byte) (n : Nat) (body : State → Answer) : Result :=
  hostCmd s h op flags fun s => if ps.length != n then refuse s stBadParam else body s

/-- The bytes from `off` on for `n` bytes are zero. -/
def zeros (ps : List Byte) (off n : Nat) : Bool := leAt ps off n = 0

end Sys2Proof.Machine
end

