-- ==== Sys2Proof/Machine/Hash.lean ====
section
/-! DEFINITION. The keyed hash of R191, shared by the classifier, the hash unit and the hashed tables. -/

namespace Sys2Proof.Machine

/-- One step of the hash (R191). -/
def hashStep (s w k : Word) : Word := ((s ^^^ w) * 0x8E5A3C6B).rotateLeft 15 ^^^ k

/-- The final mixing (R191). -/
def hashFin (s : Word) : Word :=
  let s := s ^^^ (s >>> 16)
  let s := s * 0x5C4D2F93
  s ^^^ (s >>> 13)

/-- Big-endian words of a key, padded with zero bytes to a multiple of 4 (R280). -/
def keyWords (key : List Byte) : List Word :=
  match key with
  | [] => []
  | a :: b :: c :: d :: rest => (a ++ b ++ c ++ d : BitVec 32) :: keyWords rest
  | [a, b, c] => [(a ++ b ++ c ++ (0 : Byte) : BitVec 32)]
  | [a, b] => [(a ++ b ++ (0 : BitVec 16) : BitVec 32)]
  | [a] => [(a ++ (0 : BitVec 24) : BitVec 32)]

/-- The hash of words under one key. -/
def hashWords (ws : List Word) (k : Word) : Word := hashFin (ws.foldl (fun s w => hashStep s w k) 0)

/-- Pairs of 16-bit key words as 32-bit words (R191). -/
def pairWords (ws : List Half16) : List Word :=
  match ws with
  | [] => []
  | a :: b :: rest => (a ++ b : BitVec 32) :: pairWords rest
  | [a] => [(a ++ (0 : BitVec 16) : BitVec 32)]

/-- The flow hash over the selected key words (R74, R191). -/
def flowHash (ws : List Half16) (k : Word) : Word := hashWords (pairWords ws) k

end Sys2Proof.Machine
end

