-- ==== Sys2Proof/Machine/Tables.lean ====
section
/-! DEFINITION. Table memory (R276 to R281): its map, reads and writes of live words, partitions and bindings, hashed positions,
parity reports, and the entry forms of the MAC, exact-match and policer tables. -/

namespace Sys2Proof.Machine

/-- The regions of table memory (R276). -/
inductive Region where
  | mac (h : Nat)
  | lpm (h : Nat)
  | stream (h : Nat)
  | exact (h : Nat)
  | general
  | policer
  | sgate
  | reserved
  | beyond
  deriving DecidableEq, Repr

/-- The region of a table-memory address (R276). -/
def regionOf (a : Nat) : Region :=
  if a < 0x600000 then .mac 0
  else if a < 0xC00000 then .mac 1
  else if a < 0x1400000 then .lpm 0
  else if a < 0x1C00000 then .lpm 1
  else if a < 0x2000000 then .stream 0
  else if a < 0x2400000 then .stream 1
  else if a < 0x2800000 then .exact 0
  else if a < 0x2C00000 then .exact 1
  else if a < 0x2F00000 then .general
  else if a < 0x2F40000 then .policer
  else if a < 0x2F80000 then .sgate
  else if a < 0x3000000 then .reserved
  else .beyond

def macBase (h : Nat) : Nat := 0x600000 * h
def streamBase (h : Nat) : Nat := 0x1C00000 + 0x400000 * h
def exactBase (h : Nat) : Nat := 0x2400000 + 0x400000 * h
def generalBase : Nat := 0x2C00000
def policerBase : Nat := 0x2F00000
def sgateBase : Nat := 0x2F40000

/-- A policer. -/
def getPol (s : State) (n : Nat) : Policer := sget {} s.tbl.pol n

def modPol (s : State) (n : Nat) (f : Policer → Policer) : State :=
  { s with tbl := { s.tbl with pol := smod {} s.tbl.pol n f } }

/-- The 32 bytes of a policer entry (R313). -/
def polBytes (p : Policer) : List Byte :=
  leBytes 4 (b2n p.enable * 2 ^ 31 + p.mode % 2 * 2 ^ 30 + p.action % 2 * 2 ^ 29 + p.burst % 2 ^ 24)
    ++ leBytes 4 p.rate ++ leBytes 8 p.tokens ++ leBytes 8 p.last ++ leBytes 4 p.conform ++ leBytes 4 p.exceed

/-- The routes as numbers, for the words that the manual does not give. -/
def routeWords (s : State) : List (List Nat) :=
  (spresent s.tbl.routes).map fun kr => [kr.1, kr.2.family, kr.2.len, kr.2.pfx, kr.2.result]

/-- A byte of live table memory (R276). -/
def tblByte (s : State) (a : Nat) : Byte :=
  match regionOf a with
  | .lpm _ => byteAt (leBytes 4 (Config.lpmWord (a / 4 * 4) (routeWords s)).toNat) (a % 4)
  | .policer => byteAt (polBytes (getPol s ((a - policerBase) / 32))) ((a - policerBase) % 32)
  | .sgate => byteAt (leBytes 4 (Config.sgateWord (a / 4 * 4) (pget s (pidTblSgate ((a - sgateBase) / 512)))).toNat) (a % 4)
  | .reserved => 0
  | .beyond => 0
  | _ => bget s.tbl.mem a

def tblBytes (s : State) (a n : Nat) : List Byte := (List.range n).map fun i => tblByte s (a + i)

/-- A 32-bit word of live table memory. -/
def tblWord (s : State) (a : Nat) : Nat := leNat (tblBytes s a 4)

/-- Writes live bytes with new parity, which ends an error (R281). -/
def tblWrite (s : State) (a : Nat) (bs : List Byte) : State :=
  let bad := (List.range (ceilDiv bs.length 4)).foldl (fun b i => sset false b (a / 4 + i) false) s.tbl.bad
  { s with tbl := { s.tbl with mem := ssetRange 0 s.tbl.mem a bs, bad := bad } }

/-! ### Partitions and bindings (R277) -/

/-- Kinds of partition (R277). -/
inductive PKind where
  | mac
  | lpm4
  | lpm6
  | stream
  | policer
  | exact
  | counter
  | none
  deriving DecidableEq, Repr

/-- A partition: its kind and, for partitions 5 to 63, key length, base and size in units (R277). -/
structure Part where
  kind : PKind := .none
  keyLen : Nat := 0
  base : Nat := 0
  size : Nat := 0
  deriving DecidableEq, Repr

/-- A partition from its 16-byte record (R277). -/
def partOfRecord (r : Nat) : Part :=
  { kind := if r % 256 = 1 then .exact else if r % 256 = 2 then .counter else .none
    keyLen := bitsOf r 8 8, base := bitsOf r 32 32, size := bitsOf r 64 32 }

/-- Partition n (R277). -/
def partInfo (s : State) (n : Nat) : Part :=
  if n = 0 then { kind := .mac, size := 524288 }
  else if n = 1 then { kind := .lpm4, size := 1048576 }
  else if n = 2 then { kind := .lpm6, size := 1048576 }
  else if n = 3 then { kind := .stream, size := 65536 }
  else if n = 4 then { kind := .policer, size := 8192 }
  else if n < 64 then partOfRecord (pget s (pidTblPart n))
  else {}

/-- The partition that a logical table of a graph is bound to under an edition, none when unbound (R277). -/
def boundPart (s : State) (tag graph tbl : Nat) : Option Nat :=
  let b := edGet s tag (pidTblBind graph tbl)
  if b < 64 then some b else none

/-- Bytes of an exact-match entry (R303). -/
def exactSize (p : Part) : Nat := if p.keyLen ≤ 24 then 32 else 64

/-- Entries of a partition as LREAD and CNT number them (R277, R303). -/
def partEntries (p : Part) : Nat :=
  match p.kind with
  | .exact => if p.keyLen ≤ 24 then p.size else p.size / 2
  | _ => p.size

/-- The table-memory address of an entry of a half's copy (R276, R277). -/
def entryAddr (p : Part) (h idx : Nat) : Nat :=
  match p.kind with
  | .mac => macBase h + 12 * idx
  | .stream => streamBase h + 64 * idx
  | .policer => policerBase + 32 * idx
  | .exact => exactBase h + 32 * p.base + exactSize p * idx
  | .counter => generalBase + 16 * (p.base + idx)
  | _ => 0

/-- Bytes of an entry. -/
def entrySize (p : Part) : Nat :=
  match p.kind with
  | .mac => 12
  | .stream => 64
  | .policer => 32
  | .exact => exactSize p
  | .counter => 16
  | _ => 0

/-- The configurable partition that holds an address of the exact-match or general region, with the entry's index. -/
def partAt (s : State) (a : Nat) : Option (Nat × Nat) :=
  ((List.range 59).map (· + 5)).findSome? fun n =>
    let p := partInfo s n
    match regionOf a, p.kind with
    | .exact h, .exact =>
      let u := (a - exactBase h) / 32
      if p.base ≤ u ∧ u < p.base + p.size then some (n, (u - p.base) * 32 / exactSize p) else none
    | .general, .counter =>
      let u := (a - generalBase) / 16
      if p.base ≤ u ∧ u < p.base + p.size then some (n, u - p.base) else none
    | _, _ => none

/-! ### Parity (R281) -/

/-- The route whose trie words or record lie at an address of the LPM regions (R276; log entry 9). -/
def routeAt (s : State) (a : Nat) : Nat := (Config.lpmRoute (a / 4 * 4) (routeWords s)).toNat

/-- A half's copy of a route in the map of damaged routes. -/
def routeCopy (h handle : Nat) : Nat := h * 2 ^ 20 + handle

/-- A word outside the LPM regions carries bad parity. -/
def wordMarked (s : State) (a : Nat) : Bool := sget false s.tbl.bad (a / 4)

/-- A word of table memory is bad: it is marked, or it belongs to a damaged route of its half (R281). -/
def wordBad (s : State) (a : Nat) : Bool :=
  match regionOf a with
  | .lpm h => sget false s.tbl.badRoutes (routeCopy h (routeAt s a))
  | _ => wordMarked s a

/-- An entry is bad when one of its words is. -/
def entryBad (s : State) (a n : Nat) : Bool := (List.range (ceilDiv n 4)).any fun i => wordMarked s (a + 4 * i)

/-- The LPM partition of a damaged word: the one of its route's family, LPM4 where no installed route has that handle. -/
def routeKind (s : State) (a : Nat) : Nat :=
  match sget none s.tbl.routes (routeAt s a) with
  | some r => if r.family = 6 then 2 else 1
  | none => 1

/-- Partition and index that a parity report of an address carries (R281). -/
def parityPlace (s : State) (a : Nat) : Nat × Nat :=
  match regionOf a with
  | .mac h => (0, (a - macBase h) / 12)
  | .stream h => (3, (a - streamBase h) / 64)
  | .policer => (4, (a - policerBase) / 32)
  | .exact _ => match partAt s a with
    | some pi => pi
    | none => (0xFF, a)
  | .lpm _ => (routeKind s a, a)
  | .general => match partAt s a with
    | some pi => (pi.1, a)
    | none => (0xFF, a)
  | _ => (0xFF, a)

/-- Number k of `tbl.parity[k]`: the kinds of partition in the order in which R277 names them, MAC, LPM4, LPM6, STREAM, POLICER, EXACT,
COUNTER and NONE (R277, R281; log entry 11). -/
def parityKind (s : State) (a : Nat) : Nat :=
  match regionOf a with
  | .mac _ => 0
  | .lpm _ => routeKind s a
  | .stream _ => 3
  | .policer => 4
  | .exact _ => if (partAt s a).isSome then 5 else 7
  | .general => if (partAt s a).isSome then 6 else 7
  | _ => 7

/-- Reports a read with a parity error (R281, R495). -/
def reportParity (s : State) (a reporter : Nat) : State :=
  let pi := parityPlace s a
  let s := pinc s (pidTblParity (parityKind s a))
  report s 0x63 0x0D clsMajor reporter pi.1 pi.2 0

/-- Reports the read of an entry when it is bad. -/
def checkParity (s : State) (a n reporter : Nat) : State :=
  if entryBad s a n then reportParity s a reporter else s

/-! ### Hashed positions (R280) -/

/-- Entries per way of a hashed partition (R280). -/
def perWay (p : Part) : Nat :=
  match p.kind with
  | .mac => 131072
  | .stream => 16384
  | .exact => if p.keyLen ≤ 24 then p.size / 4 else p.size / 8
  | _ => 0

/-- The four candidate indices of a key, lowest way first (R280). -/
def candidates (s : State) (p : Part) (key : List Byte) : List Nat :=
  let e := perWay p
  (List.range 4).map fun w =>
    let pw := (hashWords (keyWords key) (BitVec.ofNat 32 (pget s (pidTblWayKey w)))).toNat % e
    w * e + pw

/-- The key bytes of an entry, in the form of its kind (R282, R303, R305). -/
def entryKey (p : Part) (bs : List Byte) : List Byte :=
  match p.kind with
  | .exact => if p.keyLen ≤ 24 then bytesAt bs 4 24 else bytesAt bs 28 32
  | _ => bytesAt bs 0 8

/-- VALID of an entry (R282, R303, R305). -/
def entryValid (p : Part) (bs : List Byte) : Bool :=
  match p.kind with
  | .mac => bitOf (leAt bs 8 4) 30
  | .stream => bitOf (leAt bs 60 4) 30
  | .exact => bitOf (leAt bs (exactSize p - 4) 4) 30
  | _ => false

/-- The request key over the whole key field (R303). -/
def fieldKey (p : Part) (key : List Byte) : List Byte :=
  match p.kind with
  | .exact => if p.keyLen ≤ 24 then fitBytes key 24 else fitBytes key 32
  | _ => key

/-- What a search of a hashed partition finds (R196, R280). -/
inductive Found where
  | hit (idx : Nat)
  | parity (idx : Nat)
  | miss
  deriving DecidableEq, Repr

/-- The entry's bytes. -/
def entryBytes (s : State) (p : Part) (h idx : Nat) : List Byte := tblBytes s (entryAddr p h idx) (entrySize p)

/-- Searches the four candidates of a key (R280, R196). -/
def searchTab (s : State) (p : Part) (h : Nat) (key : List Byte) : Found :=
  let cs := candidates s p key
  let bad i := entryBad s (entryAddr p h i) (entrySize p)
  let hits i :=
    let bs := entryBytes s p h i
    !bad i && entryValid p bs && entryKey p bs = fieldKey p key
  match cs.find? hits with
  | some i => .hit i
  | none =>
    match cs.find? bad with
    | some i => .parity i
    | none => .miss

/-- Reports every bad candidate that a search reads (R196, R281). -/
def reportCandidates (s : State) (p : Part) (h : Nat) (key : List Byte) (reporter : Nat) : State :=
  (candidates s p key).foldl (fun s i => checkParity s (entryAddr p h i) (entrySize p) reporter) s

/-! ### The staging slots of the table window (R297) -/

/-- The staging slot that holds an entry, by its address. -/
def slotOf (s : State) (a : Nat) : Option (Nat × LockSlot) :=
  (spresent s.tbl.slots).find? fun ks => ks.2.addr = a

/-- The entry of a region that holds an address: its address and length; none where there are no entries. -/
def entryAt (s : State) (a : Nat) : Option (Nat × Nat) :=
  match regionOf a with
  | .mac h => some (macBase h + (a - macBase h) / 12 * 12, 12)
  | .stream h => some (streamBase h + (a - streamBase h) / 64 * 64, 64)
  | .exact h =>
    match partAt s a with
    | some (n, i) =>
      let p := partInfo s n
      some (entryAddr p h i, entrySize p)
    | none => none
  | _ => none

end Sys2Proof.Machine
end

