-- ==== Sys2Proof/Machine/FaultLog.lean ====
section
/-! DEFINITION. Fault reports with the effects of their own chapters, coalescing windows, the persistent log, and the commands of group
0x09 (R259, R271, R318, R379, R426, R427, R430 to R443). -/

namespace Sys2Proof.Machine

/-! ### Fault types (R432) and sources (R430) -/

/-- The classes that a fault type may have, none for the reserved types (R432). -/
def typeClasses (ty : Nat) : List Nat :=
  match ty with
  | 0x02 => [2, 4]
  | 0x06 => [3]
  | 0x07 => [3, 2]
  | 0x08 => [3, 1]
  | 0x09 => [3]
  | 0x0F => [1]
  | 0x11 => [1]
  | 0x13 => [2, 3]
  | 0x16 => [3]
  | 0x17 => [4]
  | 0x19 => [1]
  | 0x1A => [3]
  | 0x1B => [3]
  | 0x1C => [4]
  | 0x1D => [4]
  | 0x1F => [1]
  | t => if 1 ≤ t && t ≤ 0x1E && t != 0x0B then [2] else []

/-- The sources that are not reserved (R430). -/
def sourceOk (src : Nat) : Bool :=
  src ≤ 0x10 || (0x20 ≤ src && src ≤ 0x2E && src % 8 ≤ 6) || (0x30 ≤ src && src ≤ 0x53) || (0x60 ≤ src && src ≤ 0x66)
    || (0x70 ≤ src && src ≤ 0x7F) || (0x80 ≤ src && src ≤ 0x88)

/-- The memory kind m that an uncorrectable error of a fault type counts under (R424, R444). -/
def ueKind (ty a0 : Nat) : Option Nat :=
  match ty with
  | 0x01 => some 2
  | 0x02 => some 3
  | 0x0A => some 0
  | 0x10 => some 4
  | 0x12 => some 5
  | 0x14 => some 6
  | 0x1D => if a0 = 1 then some 7 else none
  | 0x1E => some 8
  | _ => none

/-! ### The effect that the chapter of a fault states (R434) -/

/-- A lock word with an uncorrectable error is rewritten as 0x4000 and leaves its holder's list (R259). -/
def damageLock (s : State) (w : Nat) : State :=
  { s with locks := sset 0 s.locks w 0x4000, held := s.held.filter fun h => h.word != w }

/-- A descriptor with an uncorrectable error (R249, R427): its packet releases as a hole with disposition DISCARD_PROGRAM; when the shadow has
failed too, it never releases. -/
def damageDesc (s : State) (pkt : Nat) (fatal : Bool) : State :=
  modPkt s pkt fun p =>
    if fatal then { p with dead := true } else { p.put fDisp dDiscardProgram with hole := true, cancel := some dDiscardProgram }

/-- A receive-window load has met a word of a channel's head with an uncorrectable error: the message is marked damaged and counted, and the word
reads zero (R271; which word is a free value, log entry 22). -/
def damageMessage (s : State) (half ch : Nat) : State :=
  match (sget {} s.chans (256 * half + ch)).pub with
  | [] => s
  | m :: rest =>
    let w := (Config.damagedWord s.freeCtr).toNat
    let s := pinc { s with freeCtr := s.freeCtr + 1 } (pidChanHalfChDamaged half ch)
    { s with chans := smod {} s.chans (256 * half + ch) fun c => { c with pub := (sset 0 m.1 w 0, true) :: rest } }

/-- The tag of the edition whose rule slot or comparator copy an error meets that a report names by number: a free choice among the live ones
(R97; log entry 22). -/
def damagedTag (s : State) : Nat :=
  let t := (Config.damagedTag s.freeCtr).toNat
  if (liveEd s t).isSome then t else s.ed.newest.getD t

/-- A parity error of a rule, whose slot every edition shares that holds the same rule, or of the comparator copy of one tag (R82, R97). -/
def damageCls (s : State) (half i comp : Nat) : State :=
  let t := damagedTag s
  let r := edGet s t (pidClsRule i)
  modHalf { s with freeCtr := s.freeCtr + 1 } (hfOf half) fun h =>
    if comp = 0 then { h with badRules := if h.badRules.contains (i, r) then h.badRules else h.badRules ++ [(i, r)] }
    else { h with badComps := if h.badComps.contains (i, t) then h.badComps else h.badComps ++ [(i, t)] }

/-- The half whose copy a reader of table memory reads (R495): a learn engine's, a station's, West for the host. -/
def readerHalf (s : State) (reporter : Nat) : Nat :=
  if reporter = 0x102D then 1
  else if 0x2000 ≤ reporter && reporter < 0x2022 then halfOf ((reporter - 0x2000) / 2)
  else if reporter < 17 * 128 then halfOf (reporter / 128)
  else 0
where
  halfOf (k : Nat) : Nat := ((stnHalf s k).map hIdx).getD 0

/-- A table-memory entry with a parity error in the copy of half h: its first word, or the word that is named by its address (R281). -/
def damageTable (s : State) (h part idx : Nat) : State :=
  let p := partInfo s part
  let mark (a : Nat) : State := { s with tbl := { s.tbl with bad := sset false s.tbl.bad (a / 4) true } }
  match p.kind with
  | .none => if part = 0xFF then mark idx else s
  | .counter => mark idx
  | .lpm4 | .lpm6 => { s with tbl := { s.tbl with badRoutes := sset false s.tbl.badRoutes (routeCopy h idx) true } }
  | _ => mark (entryAddr p h idx)

/-- Packet data that an internal bus has corrupted (R426): bus number 0 stands for packet data, and the word names the packet. -/
def damageBus (s : State) (bus pkt : Nat) : State :=
  if bus = 0 then modPkt s pkt fun p => { p with corrupt := true } else s

/-- What a report from outside brings about beside the aggregator's record: the damage that the report names (DESIGN CHOICE, log
entry 22). -/
def ownEffect (s : State) (ty cls reporter a0 a1 a2 : Nat) : State :=
  match ty with
  | 0x02 => damageDesc s a1 (cls = clsFatal)
  | 0x03 => damageBus s a0 a1
  | 0x0A => damageFolio s a0 (a1 = 1)
  | 0x0D => damageTable s (readerHalf s reporter) a0 a1
  | 0x0E => damageCls s a0 a1 a2
  | 0x10 => damageLock s (a0 * 64 + a1)
  | 0x12 => damageMessage s a0 a1
  | _ => s

/-- An uncorrectable error of HBM counts for its channel (R379). -/
def countHbm (s : State) (ty src : Nat) : State := if ty = 0x14 then pinc s (pidHbmChUe (src - 0x70)) else s

/-- A fault report (R433 to R437). Reports of reserved sources or types, or of a class that the type does not have, do not exist and
change nothing; nor does a device in reset report (R446). -/
def execFaultReport (src : BitVec 8) (ty : BitVec 5) (cls : Fin 5) (reporter : BitVec 16) (a0 a1 a2 : BitVec 32) (s : State) : Result :=
  if s.fw.resetN && sourceOk src.toNat && (typeClasses ty.toNat).contains cls.val then
    let s := ownEffect s ty.toNat cls.val reporter.toNat a0.toNat a1.toNat a2.toNat
    let s := countHbm s ty.toNat src.toNat
    let s := match ueKind ty.toNat a0.toNat with
      | none => s
      | some m => pinc s (pidIntegUe m)
    .next (report s src.toNat ty.toNat cls.val reporter.toNat a0.toNat (if ty = 0x0A then 0 else a1.toNat) a2.toNat)
  else .next s

/-- A coalescing window reaches its end; before that nothing happens (R433). -/
def execCoalesceWindowClose (src : BitVec 8) (ty : BitVec 5) (s : State) : Result :=
  match getPair s src.toNat ty.toNat with
  | none => .next s
  | some p => if p.openWin && p.closeAt ≤ s.clk then .next (closeWindow s src.toNat ty.toNat) else .next s

/-! ### The log (R441 to R443) -/

/-- The 128 bytes of a log entry (R441). -/
def logBytes (e : LogEnt) : List Byte :=
  let b := leBytes 2 e.code ++ leBytes 1 e.cls ++ leBytes 1 e.flags ++ leBytes 4 e.seq ++ fitBytes e.time 16 ++ leBytes 4 e.boot
    ++ leBytes 4 e.edition ++ fitBytes e.detail 16 ++ leBytes 4 e.count ++ leBytes 4 0 ++ leBytes 8 e.last ++ leBytes 4 e.fw
    ++ leBytes 1 e.timeState ++ List.replicate 55 0
  b ++ leBytes 4 (crc32 b).toNat

/-- The entry that an information event updates in place: one of its code written in this boot within `integ.info_hold_s` (R442). -/
def heldEntry (s : State) (e : LogEnt) : Option Nat :=
  if e.cls != clsInfo then none
  else
    ((spresent s.store.log).find? fun ie =>
      ie.2.code = e.code && ie.2.boot = e.boot && s.clk ≤ ie.2.wroteAt + pget s pidIntegInfoHoldS * secCycles).map (·.1)

/-- Notes the place of the entry of a fault's open window (R433). -/
def notePlace (s : State) (e : LogEnt) (i : Nat) : State :=
  if 0x8000 ≤ e.code then
    let src := leAt e.detail 0 1
    let ty := e.code - 0x8000
    match getPair s src ty with
    | some p => if p.openWin && p.logIdx.isNone then setPair s src ty { p with logIdx := some i } else s
    | none => s
  else s

/-- Writes a new entry at the log head (R441, R442). -/
def writeLog (s : State) (e : LogEnt) : State :=
  let i := s.store.logHead
  let e := { e with seq := s.store.logSeq, flags := putBits e.flags 0 1 (b2n s.flt.logLoss), wroteAt := s.clk }
  let s := { s with
    store := { s.store with log := sset none s.store.log i (some e), logHead := (i + 1) % 65536, logSeq := (s.store.logSeq + 1) % 2 ^ 32 }
    flt := { s.flt with logLoss := false, logCount := s.flt.logCount + 1 } }
  notePlace s e i

/-- The second over which entries are counted (R442). -/
def logSecond (s : State) : State :=
  if s.flt.logSince + secCycles ≤ s.clk then { s with flt := { s.flt with logSince := s.clk, logCount := 0 } } else s

/-- The Registrar takes the oldest waiting entry: an in-place update, a new entry, or a drop beyond 10,000 per second (R442). -/
def execLogWrite (s : State) : Result :=
  match s.flt.logQ with
  | [] => .next s
  | e :: rest =>
    let s := logSecond { s with flt := { s.flt with logQ := rest } }
    match heldEntry s e with
    | some i =>
      let upd (o : LogEnt) : LogEnt := { o with count := satAdd 32 o.count 1, last := e.last, flags := putBits o.flags 1 1 1 }
      .next { s with store := { s.store with log := smod none s.store.log i fun o => o.map upd } }
    | none =>
      if 10000 ≤ s.flt.logCount then
        .next (pinc { s with flt := { s.flt with logLoss := true } } pidIntegLogDropped)
      else .next (writeLog s e)

/-- LOG_READ (R443). -/
def execLogRead (h : CmdHdr) (ps : List Byte) (s : State) : Result :=
  hostCmdN s h 0x0900 0 ps 4 fun s =>
    let first := leAt ps 0 2
    let n := leAt ps 2 1
    if n < 1 || 32 < n || !zeros ps 3 1 then refuse s stBadParam
    else answer s ((List.range n).flatMap fun i =>
      match sget none s.store.log ((first + i) % 65536) with
      | none => List.replicate 128 0
      | some e => logBytes e)

/-! ### FAULT_STATUS and FAULT_CLEAR (R438, R439) -/

/-- Pairs with their keys, the latched first, then the most recently opened (R438). -/
def pairOrder (s : State) : List (Nat × Pair) :=
  let ps := spresent s.flt.pairs
  let latched := ps.filter fun kp => kp.2.latched
  let rest := sortBy (fun kp => s.flt.orders - kp.2.order) (ps.filter fun kp => !kp.2.latched)
  (latched ++ rest).take 64

/-- A record of FAULT_STATUS (R438). -/
def pairBytes (k : Nat) (p : Pair) : List Byte :=
  leBytes 1 (k / 32) ++ leBytes 1 (k % 32) ++ leBytes 1 p.cls ++ leBytes 1 (b2n p.openWin + 2 * b2n p.latched) ++ leBytes 4 p.count
    ++ leBytes 8 p.first ++ leBytes 8 p.last

/-- FAULT_STATUS (R438). The level of FAULT_N is 0 while it is asserted. -/
def execFaultStatus (h : CmdHdr) (ps : List Byte) (s : State) : Result :=
  hostCmdN s h 0x0901 0 ps 0 fun s =>
    let latched := (spresent s.flt.pairs).filter fun kp => kp.2.latched
    let highest := latched.foldl (fun m kp => max m kp.2.latchedCls) 0
    let head := leBytes 2 latched.length ++ leBytes 1 highest ++ leBytes 1 (b2n (!faultN s)) ++ leBytes 4 s.flt.total
    answer s (head ++ (pairOrder s).flatMap fun kp => pairBytes kp.1 kp.2)

/-- Unlatches every critical pair and closes its open window (R439). -/
def clearPairs (s : State) : State :=
  (spresent s.flt.pairs).foldl (fun s kp =>
    if kp.2.latched && kp.2.latchedCls = clsCritical then
      let s := closeWindow s (kp.1 / 32) (kp.1 % 32)
      { s with flt := { s.flt with pairs := smod none s.flt.pairs kp.1 fun p => p.map fun p => { p with latched := false } } }
    else s) s

/-- Conditions that still hold are reported again (R439): temperature, supplies, HBM_DEGRADED, EDITION_RETIRE_STUCK in the critical
class. -/
def reportConditions (s : State) : State :=
  let s := if s.flt.tempOut then
      let hot := s.env.tjMax
      report s 0x86 0x1A clsCritical 0x1086 0 (ofSigned 32 hot) 0
    else s
  let s := (List.range 10).foldl (fun s v =>
    if s.flt.supplyOut.getLsbD v then report s 0x87 0x1B clsCritical 0x1087 v (pget s (pidIntegSupplyMv v)) 0 else s) s
  let healthy := popcount s.hbm.healthy.toNat 16
  let s := if 0 < healthy && healthy < 12 then report s 0x66 0x16 clsCritical 0x0FFE healthy 0 0 else s
  (liveEds s).foldl (fun s te =>
    if te.2.stuck = 2 then
      report s 0x85 0x13 clsCritical 0x0FFE te.1 (sget 0 s.ed.tagCount te.1) (sget 0 s.ed.tagCount (4 + te.1))
    else s) s

/-- FAULT_CLEAR (R439). -/
def execFaultClear (h : CmdHdr) (ps : List Byte) (s : State) : Result :=
  hostCmdN s h 0x0902 0 ps 0 fun s => answer (settleAttn (reportConditions (clearPairs s))) []

end Sys2Proof.Machine
end

