-- ==== Sys2Proof/Machine/Policer.lean ====
section
/-! DEFINITION. Policers (R312, R313). -/

namespace Sys2Proof.Machine

/-- A short stamp in whole nanoseconds. -/
def stampNs (st : Nat) : Nat := st / 2 ^ 30 * 10 ^ 9 + st % 2 ^ 30

/-- Tokens per second in the mode's unit: packets, or bytes at 125 per kbit (R312). -/
def polRate (p : Policer) : Nat := if p.mode = 0 then p.rate else p.rate * 125

/-- The refill at a stamp later than the last: computed exactly, stored to 1/65,536 with the rest carried (R312). -/
def polRefill (p : Policer) (t : Nat) : Policer :=
  if p.last < t then
    let n := polRate p * (stampNs t - stampNs p.last) * 65536 + p.remainder
    { p with tokens := min (p.burst * 65536) (p.tokens + n / 10 ^ 9), remainder := n % 10 ^ 9, last := t }
  else p

/-- The cost of a frame: 1 packet, or its bytes (R312). -/
def polCost (p : Policer) (len : Nat) : Nat := if p.mode = 0 then 65536 else len * 65536

/-- The 64-bit counts (R313); beyond their width the manual gives no value. -/
def polCount (n id : Nat) : Nat := counterPlus id 8 n 1

/-- The test of an enabled policer (R312). -/
def polTestOn (p : Policer) (n t len : Nat) : Policer × Bool :=
  let p := polRefill p t
  if polCost p len ≤ p.tokens then
    ({ p with tokens := p.tokens - polCost p len, conform := polCount p.conform (pidPolPConform n) }, true)
  else ({ p with exceed := polCount p.exceed (pidPolPExceed n) }, false)

/-- The test of a packet by policer n: a disabled policer, or one whose entry is bad, conforms every packet without counting it; the bad
entry is reported by the unit that read it (R281, R312, R431). -/
def polTest (s : State) (n t len reporter : Nat) : State × Bool :=
  let p := getPol s n
  if entryBad s (policerBase + 32 * n) 32 then (reportParity s (policerBase + 32 * n) reporter, true)
  else if !p.enable then (s, true)
  else
    let r := polTestOn p n t len
    (modPol s n fun _ => r.1, r.2)

/-- Enabling a policer, or changing its mode while enabled (R312). -/
def polStart (p : Policer) (now : Nat) : Policer := { p with tokens := p.burst * 65536, last := now, remainder := 0 }

/-- Rate and burst lie in the ranges of a mode (R312). -/
def polRangesOk (mode rate burst : Nat) : Bool :=
  if mode = 0 then 1 ≤ rate && rate ≤ 1490000000 && 1 ≤ burst && burst ≤ 4096
  else 1 ≤ rate && rate ≤ 800000000 && 64 ≤ burst && burst ≤ 16777215

end Sys2Proof.Machine
end

