-- ==== Sys2Proof/Machine/Learn.lean ====
section
/-! DEFINITION. The MAC table and the learn sequence (R282 to R295): entries, submission, and the application of learn events, deletes,
flushes, locks and commits in both copies. -/

namespace Sys2Proof.Machine

/-! ### MAC entries (R282): fields of the control word, bytes 8-11 -/

def mLock : Nat × Nat := (31, 1)
def mValid : Nat × Nat := (30, 1)
def mStatic : Nat × Nat := (29, 1)
def mFrozen : Nat × Nat := (28, 1)
def mPeer : Nat × Nat := (27, 1)
def mPort : Nat × Nat := (21, 6)
def mMoves : Nat × Nat := (18, 3)
def mMoveStart : Nat × Nat := (12, 6)
def mAge : Nat × Nat := (0, 12)

/-- A MAC entry: its key bytes and its control word. -/
structure MacEnt where
  key : List Byte
  ctl : Nat
  deriving DecidableEq, Repr

def MacEnt.get (e : MacEnt) (f : Nat × Nat) : Nat := bitsOf e.ctl f.1 f.2
def MacEnt.set (e : MacEnt) (f : Nat × Nat) (v : Nat) : MacEnt := { e with ctl := putBits e.ctl f.1 f.2 v }
def MacEnt.is (e : MacEnt) (f : Nat × Nat) : Bool := e.get f = 1

/-- The partition record of the MAC table. -/
def macPart : Part := { kind := .mac, size := 524288 }

/-- Entry idx of half h's copy. -/
def macGet (s : State) (h idx : Nat) : MacEnt :=
  let bs := tblBytes s (macBase h + 12 * idx) 12
  { key := bs.take 8, ctl := leAt bs 8 4 }

def macPut (s : State) (h idx : Nat) (e : MacEnt) : State :=
  tblWrite s (macBase h + 12 * idx) (fitBytes e.key 8 ++ leBytes 4 e.ctl)

/-- The indices of the valid entries of a copy, rising: those whose last byte is listed with VALID set, and whose parity is good (R281). -/
def macValid (s : State) (h : Nat) : List Nat :=
  (s.tbl.mem.filterMap fun ab =>
    if macBase h ≤ ab.1 && ab.1 < macBase h + 0x600000 && (ab.1 - macBase h) % 12 = 11 && ab.2.getLsbD 6 then
      some ((ab.1 - macBase h) / 12)
    else none).filter fun i => !entryBad s (macBase h + 12 * i) 12

/-- The indices of the entries of a copy that carry a parity error. -/
def macBad (s : State) (h : Nat) : List Nat :=
  (s.tbl.bad.filterMap fun wb =>
    if macBase h ≤ 4 * wb.1 && 4 * wb.1 < macBase h + 0x600000 then some ((4 * wb.1 - macBase h) / 12) else none).eraseDups

/-- Non-static entries on a logical port (R289). -/
def macOnPort (s : State) (h q : Nat) : Nat :=
  ((macValid s h).filter fun i => !(macGet s h i).is mStatic && (macGet s h i).get mPort = q).length

/-- The port is at its limit, in OMK-400 mode (R289). -/
def atLimit (s : State) (h q : Nat) : Bool :=
  pget s pidTblLearnMode = 1 && q < 32 && pget s (pidTblLearnPortLimit q) ≤ macOnPort s h q

/-! ### The sequence (R283) -/

/-- Sort order: stamp, then port, then order of submission. -/
def evRank (e : LearnEv) : Nat := (stampNs e.stamp * 64 + e.port) * 2 ^ 64 + e.order

/-- The event is due: Datum time has reached its stamp + settle_ns (R283). -/
def evDue (s : State) (e : LearnEv) : Bool := stampNs e.stamp + pget s pidTblLearnSettleNs ≤ stampNs (nowStamp s)

/-- Puts an event into the sequence. -/
def enqueueEv (s : State) (e : LearnEv) : State :=
  let e := { e with order := s.tbl.learnOrder }
  { s with tbl := { s.tbl with learnQ := insertBy evRank e s.tbl.learnQ, learnOrder := s.tbl.learnOrder + 1 } }

/-- An event that the device issues itself: stamp now, port 63 (R290). -/
def issueEv (s : State) (half : Nat) (key : List Byte) (kind : LearnKind) : State :=
  enqueueEv s { stamp := nowStamp s, port := 63, half := half, key := key, kind := kind }

/-- The event carries the peer flag (R291). -/
def fromPeer (k : LearnKind) : Bool :=
  match k with
  | .learn _ peer => peer
  | .peerDelete => true
  | _ => false

/-- Events that a half's engine holds (R283). -/
def heldEvents (s : State) (h : Nat) : Nat := (s.tbl.learnQ.filter fun e => e.half = h).length

/-- The logical learning port of an ingress port (R288); a port without the parameter is its own. -/
def logicalPort (s : State) (p : Nat) : Nat := if p < 32 then pget s (pidTblLearnPortLogical p) else p

/-- A submission to a half's learn engine (R283). The port of a peer's record is no port of this device and needs no enable (R291). -/
def submitEv (s : State) (h : Nat) (key : List Byte) (port stamp : Nat) (kind : LearnKind) : State :=
  let s := pinc s (pidLearnHalfSubmitted h)
  if (port < 32 && !fromPeer kind && pget s (pidTblLearnPortEnable port) = 0) || 16384 ≤ heldEvents s h then
    pinc s (pidLearnHalfDropped h)
  else
    let e : LearnEv := { stamp := stamp, port := port, half := h, key := fitBytes key 8, kind := kind }
    if evDue s e then enqueueEv (pinc s (pidLearnHalfLate h)) { e with stamp := nowStamp s }
    else enqueueEv s e

/-! ### Peer records (R291) -/

/-- A record for the peer device. -/
def peerRecord (key : List Byte) (port op : Nat) : List Byte :=
  fitBytes key 8 ++ leBytes 1 port ++ leBytes 1 op ++ leBytes 6 0

/-- The West engine reports an applied event, when the exchange is on (R291). -/
def reportPeer (s : State) (h : Nat) (key : List Byte) (port op : Nat) : State :=
  if h = 0 && pget s pidTblPeerPort < 32 then
    { s with tbl := { s.tbl with peerRecs := s.tbl.peerRecs ++ [peerRecord key port op]
                                 peerSince := if s.tbl.peerRecs.isEmpty then s.clk else s.tbl.peerSince } }
  else s

/-! ### Application in one copy (R284 to R289, R293 to R295) -/

/-- The reporter of a half's learn engine (R495). -/
def learnReporter (h : Nat) : Nat := 0x1000 + 0x25 + 8 * h

/-- The moves of R287: the entry after a move onto port q, or frozen. -/
def moveEntry (e : MacEnt) (damp age q : Nat) : MacEnt :=
  if e.get mMoves = 0 || 16 ≤ (damp + 64 - e.get mMoveStart) % 64 then
    (((e.set mMoveStart damp).set mMoves 1).set mPort q).set mAge age
  else if e.get mMoves < 4 then ((e.set mMoves (e.get mMoves + 1)).set mPort q).set mAge age
  else e.set mFrozen 1

/-- A new entry (R284). -/
def newEntry (key : List Byte) (q age : Nat) : MacEnt :=
  (((({ key := key, ctl := 0 } : MacEnt).set mValid 1).set mPort q).set mAge age)

/-- The lowest candidate way that is free: not valid, not bad and not locked (R281, R284, R297). -/
def freeWay (s : State) (h : Nat) (key : List Byte) : Option Nat :=
  (candidates s macPart key).find? fun i =>
    !(macGet s h i).is mValid && !(macGet s h i).is mLock && !entryBad s (macBase h + 12 * i) 12

/-- A learn event in one copy (R284, R289). -/
def applyLearn (s : State) (h : Nat) (key : List Byte) (q : Nat) (peer : Bool) : State :=
  let s := reportCandidates s macPart h key (learnReporter h)
  let age := s.tbl.age.toNat
  match searchTab s macPart h key with
  | .hit i =>
    let e := macGet s h i
    if e.is mLock then pinc s (pidLearnHalfLocked h)
    else if e.is mStatic then (if e.get mPort != q then pinc s (pidLearnHalfStaticConflict h) else s)
    else if e.get mPort = q then
      let s' := macPut s h i ((e.set mAge age).set mPeer (b2n peer))
      if !peer && e.get mAge != age then reportPeer s' h key q 1 else s'
    else if e.is mFrozen then pinc s (pidLearnHalfFrozenIgnored h)
    else if atLimit s h q then pinc s (pidLearnHalfLimitDropped h)
    else
      let e' := moveEntry e s.tbl.damp.toNat age q
      let s' := macPut s h i e'
      if e'.is mFrozen then
        if h = 0 then
          let detail := leBytes 2 (beAt key 0 2) ++ bytesAt key 2 6 ++ leBytes 1 (e.get mPort) ++ leBytes 1 q ++ leBytes 1 h
          logEvent (pinc s' pidTblMacFlap) 0x0040 clsWarning detail
        else s'
      else if peer || e.is mPeer then s' else reportPeer s' h key q 1
  | _ =>
    if atLimit s h q then pinc s (pidLearnHalfLimitDropped h)
    else
      match freeWay s h key with
      | none => pinc s (pidLearnHalfFull h)
      | some i =>
        let s' := macPut s h i (newEntry key q age)
        if peer then s' else reportPeer s' h key q 1

/-- A sweeper delete in one copy: only while the entry still holds the AGE and is not locked (R293). -/
def applyDelete (s : State) (h : Nat) (key : List Byte) (age : Nat) : State :=
  match searchTab s macPart h key with
  | .hit i =>
    let e := macGet s h i
    if e.get mAge = age && !e.is mLock && !e.is mStatic then
      let s' := macPut s h i { key := List.replicate 8 0, ctl := 0 }
      if e.is mPeer then s' else reportPeer s' h key (e.get mPort) 2
    else s
  | _ => s

/-- A delete that the peer device reports, which carries no AGE: the entry goes unless it is static or locked (R291; log entry 33). -/
def applyPeerDelete (s : State) (h : Nat) (key : List Byte) : State :=
  match searchTab s macPart h key with
  | .hit i =>
    let e := macGet s h i
    if !e.is mLock && !e.is mStatic then macPut s h i { key := List.replicate 8 0, ctl := 0 } else s
  | _ => s

/-- Removes the entries of a copy that satisfy `p`; the number removed. The walk reports every entry with a parity error and leaves it (R281,
R294, R295). -/
def flushCopy (s : State) (h : Nat) (p : MacEnt → Bool) : State × Nat :=
  let s := (macBad s h).foldl (fun s i => reportParity s (macBase h + 12 * i) (learnReporter h)) s
  let is := (macValid s h).filter fun i => p (macGet s h i)
  let s' := is.foldl (fun s i => macPut s h i { key := List.replicate 8 0, ctl := 0 }) s
  (pcount s' (pidLearnHalfFlushed h) is.length, is.length)

/-- What MAC_FLUSH selects (R295): 0 port, 1 FID, 2 address, 3 all. -/
def flushSelects (sel port fid : Nat) (key : List Byte) (incl : Bool) (e : MacEnt) : Bool :=
  (incl || !e.is mStatic) &&
    (if sel = 0 then e.get mPort = port
     else if sel = 1 then beAt e.key 0 2 = fid
     else if sel = 2 then e.key = key
     else true)

/-- Sets or clears the live LOCK bit of a MAC entry (R297, R298). -/
def setMacLock (s : State) (h idx v : Nat) : State := macPut s h idx ((macGet s h idx).set mLock v)

/-- One event in one copy. -/
def applyEvIn (s : State) (h : Nat) (e : LearnEv) : State :=
  let s := pinc s (pidLearnHalfApplied h)
  match e.kind with
  | .learn q peer => applyLearn s h e.key q peer
  | .delete age => applyDelete s h e.key age
  | .peerDelete => applyPeerDelete s h e.key
  | .flushPort p => (flushCopy s h fun m => !m.is mStatic && m.get mPort = p).1
  | .flushCmd sel port fid key st _ => (flushCopy s h (flushSelects sel port fid key st)).1
  | .lockEntry i => setMacLock s h i 1
  | .commitEntry i bs => tblWrite s (macBase h + 12 * i) bs
  | .unlockEntry i => setMacLock s h i 0

/-- One event in both copies; a MAC_FLUSH command is answered after it (R295). -/
def applyEv (s : State) (e : LearnEv) : State :=
  let s' := applyEvIn (applyEvIn s 0 e) 1 e
  match e.kind with
  | .flushCmd sel port fid key st hdr =>
    sendReply s' hdr 0x0400 0 (leBytes 4 (flushCopy s 0 (flushSelects sel port fid key st)).2)
  | _ => s'

/-- TIME cycles for which an event has been due: events with one figure fell due in one cycle. -/
def dueFor (s : State) (e : LearnEv) : Nat :=
  (now s - (stampNs e.stamp + pget s pidTblLearnSettleNs) * 2 ^ 32) / tickFloor s.datum

/-- The event is a sweeper's delete. -/
def isDelete (e : LearnEv) : Bool :=
  match e.kind with
  | .delete _ => true
  | _ => false

/-- The event is a learn event. -/
def isLearn (e : LearnEv) : Bool :=
  match e.kind with
  | .learn _ _ => true
  | _ => false

/-- The event to apply next: the first of the sequence, but before a sweeper's delete the first learn event that fell due in the same cycle
(R283, R293). -/
def nextEv (s : State) (e : LearnEv) (rest : List LearnEv) : LearnEv :=
  if isDelete e then (rest.find? fun x => isLearn x && evDue s x && dueFor s x = dueFor s e).getD e else e

/-- The next event of the sequence is applied when it is due (R283, R290, R293). -/
def execLearnEventApply (s : State) : Result :=
  match s.tbl.learnQ with
  | [] => .next s
  | e :: rest =>
    if evDue s e then
      let x := nextEv s e rest
      .next (applyEv { s with tbl := { s.tbl with learnQ := if isDelete e then dropFirst (· == x) (e :: rest) else rest } } x)
    else .next s

/-- A step applies every queued event at once, in sort order (R366). -/
def applyAllEvents (s : State) : State :=
  s.tbl.learnQ.foldl applyEv { s with tbl := { s.tbl with learnQ := [] } }

/-! ### Clocks and the MAC sweeper (R287, R292) -/

/-- 62.5 ms in CORE cycles (R287). -/
def dampCycles : Nat := 78125000

/-- The age clock advances every `tbl.age_tick_ms` once the tables have been scrubbed; before that nothing happens (R279, R292). -/
def execAgeClockTick (s : State) : Result :=
  if 8 ≤ s.fw.bootStep && s.tbl.ageNext ≤ s.clk then
    .next { s with tbl := { s.tbl with age := s.tbl.age + 1, ageNext := s.clk + pget s pidTblAgeTickMs * msCycles } }
  else .next s

/-- The damping clock ticks every 62.5 ms (R287). -/
def execDampingClockTick (s : State) : Result :=
  if 8 ≤ s.fw.bootStep && s.tbl.dampNext ≤ s.clk then
    .next { s with tbl := { s.tbl with damp := s.tbl.damp + 1, dampNext := s.clk + dampCycles } }
  else .next s

/-- The MAC sweeper's work on one entry: a window of moves that has run out is closed, and an entry past its limit gets a delete (R287,
R292). -/
def sweepMac (s : State) (i : Nat) : State :=
  let a := macBase 0 + 12 * i
  if entryBad s a 12 then reportParity s a (learnReporter 0)
  else
    let e := macGet s 0 i
    if !e.is mValid || e.is mStatic || e.is mLock then s
    else
      let stale := e.get mMoves != 0 && 16 ≤ (s.tbl.damp.toNat + 64 - e.get mMoveStart) % 64
      let s := if stale then
          let s := macPut s 0 i (e.set mMoves 0)
          match searchTab s macPart 1 e.key with
          | .hit j => macPut s 1 j ((macGet s 1 j).set mMoves 0)
          | _ => s
        else s
      let limit := pget s pidTblMacAgeLimit
      if limit != 0 && limit ≤ (s.tbl.age.toNat + 4096 - e.get mAge) % 4096 then
        issueEv s 0 e.key (.delete (e.get mAge))
      else s

/-- The next visit of the MAC sweeper, at an even pace; before its time nothing happens (R292). -/
def execMacSweepVisit (s : State) : Result :=
  let i := s.tbl.macSweep
  let due := s.tbl.macSweepAt + (i * (pget s pidTblMacSweepMs * msCycles) / 524288 : Nat)
  if s.fw.bootStep < 8 || (s.clk : Int) < due then .next s
  else
    let s := sweepMac s i
    if i + 1 < 524288 then .next { s with tbl := { s.tbl with macSweep := i + 1 } }
    else .next { s with tbl := { s.tbl with
        macSweep := 0, macSweepAt := s.tbl.macSweepAt + (pget s pidTblMacSweepMs * msCycles : Nat) } }

end Sys2Proof.Machine
end

