-- ==== Sys2Proof/Machine/Operands.lean ====
section
/-! DEFINITION. Operand forms of the core instructions (R142, R154 to R156, R160 to R164): registers, predicates, guards, immediates,
shift amounts and bit fields. -/

namespace Sys2Proof.Machine

/-- Register g`r` of a thread; g0 reads zero (R142). -/
def Thread.reg (th : Thread) (r : BitVec 4) : Word := if r = 0 then 0 else sget 0 th.g r.toNat

/-- Writes register g`r`; a write of g0 is discarded (R142). -/
def Thread.setReg (th : Thread) (r : BitVec 4) (v : Word) : Thread :=
  if r = 0 then th else { th with g := sset 0 th.g r.toNat v }

/-- Predicate p`n`; p0 reads 1 (R142). -/
def Thread.pred (th : Thread) (n : BitVec 3) : Bool := if n = 0 then true else th.preds.getLsbD n.toNat

/-- Writes predicate p`n`; a write of p0 is discarded (R142). -/
def Thread.setPred (th : Thread) (n : BitVec 3) (v : Bool) : Thread :=
  if n = 0 then th
  else { th with preds := if v then th.preds ||| (1#8 <<< n.toNat) else th.preds &&& ~~~ (1#8 <<< n.toNat) }

/-- The guard holds (R155, R156). -/
def Thread.guard (th : Thread) (p : Guard) : Bool := th.pred p.pred != p.neg

/-- PRED = p0 with N = 1 is an undefined encoding (R157). -/
def guardUndef (p : Guard) : Bool := p.pred = 0 && p.neg

/-- A short form names only g0-g7 and guards with p0 or p1 (R154). -/
def guardShort (p : Guard) : Bool := p.pred ≤ 1 && !p.neg

/-- Bytes of an instruction (R153). -/
def formBytes (f : Form) : Nat :=
  match f with
  | .short => 2
  | .long => 4

/-- A short form that names a register above g7 or a guard other than p0 and p1 does not exist (R154). -/
def shortBad (f : Form) (p : Guard) (rs : List (BitVec 4)) : Bool :=
  match f with
  | .short => !guardShort p || rs.any fun r => 7 < r.toNat
  | .long => false

/-- A signed immediate of 13 bits (R161). -/
def simm13 (i : BitVec 13) : Word := i.signExtend 32

/-- An unsigned immediate of 13 bits (R161). -/
def imm13 (i : BitVec 13) : Word := i.setWidth 32

/-- The immediate of ADDI: 13 bits sign-extended, 7 bits in the short form (R158, R161). -/
def addiImm (f : Form) (i : BitVec 13) : Word :=
  match f with
  | .short => (i.setWidth 7).signExtend 32
  | .long => simm13 i

/-- The immediate of MOVI: 16 bits zero-extended, 7 bits in the short form (R158, R161). -/
def moviImm (f : Form) (i : BitVec 16) : Word :=
  match f with
  | .short => (i.setWidth 7).setWidth 32
  | .long => i.setWidth 32

/-- The immediate shift kinds (R158): SHL, SHR, SAR, ROL. -/
def shiftBy (kind : BitVec 2) (x : Word) (n : Nat) : Word :=
  if kind = 0 then x <<< n
  else if kind = 1 then x >>> n
  else if kind = 2 then x.sshiftRight n
  else x.rotateLeft n

/-- The thread address of a long load or store: base plus the signed 12-bit offset, modulo 2^16 (R164); a short form adds the
4-bit offset times its scale (R158). -/
def effAddr (f : Form) (scale : Nat) (base : Word) (off : BitVec 12) : Nat :=
  match f with
  | .long => (base + off.signExtend 32).toNat % 2 ^ 16
  | .short => (base.toNat + scale * (off.toNat % 16)) % 2 ^ 16

/-- A post-incremented base register (R164). -/
def postInc (base : Word) (w : Nat) : Word := BitVec.ofNat 32 ((base.toNat + w) % 2 ^ 16)

/-- The width of a coded size: byte, halfword, word; none for the reserved value (R165). -/
def sizeBytes (size : BitVec 2) : Option Nat :=
  if size = 0 then some 1 else if size = 1 then some 2 else if size = 2 then some 4 else none

/-- A mask of `len` low bits. -/
def lowMask (len : Nat) : Word := BitVec.ofNat 32 (2 ^ len - 1)

/-- The field rs[pos+len−1:pos], zero-extended (R163). -/
def extField (x : Word) (pos len : Nat) : Word := (x >>> pos) &&& lowMask len

/-- The field, sign-extended from its top bit (R163). -/
def extsField (x : Word) (pos len : Nat) : Word :=
  let v := extField x pos len
  if v.getLsbD (len - 1) then v ||| ~~~ lowMask len else v

/-- Inserts the low `len` bits of `x` at `pos` (R163). -/
def insField (d x : Word) (pos len : Nat) : Word :=
  (d &&& ~~~ (lowMask len <<< pos)) ||| ((x &&& lowMask len) <<< pos)

/-- Leading zeros, 0-32 (R160). -/
def clz32 (x : Word) : Nat := ((List.range 32).find? fun i => x.getLsbD (31 - i)).getD 32

/-- Set bits (R160). -/
def popc32 (x : Word) : Nat := popcount x.toNat 32

end Sys2Proof.Machine
end

