-- ==== Sys2Proof/Machine/Flags.lean ====
section
/-! DEFINITION. The instruction set has no condition codes (R143). What it has in their place: the compare conditions and combining
modes that write predicates (R158, R161), the predicate operations (R162), and the event flags of tasks (R231). -/

namespace Sys2Proof.Machine

/-- The long compare conditions; none for 0b1100-0b1111, which are reserved (R161). -/
def cmpLong (cond : BitVec 4) (a b : Word) : Option Bool :=
  match cond.toNat with
  | 0 => some (a == b)
  | 1 => some (a != b)
  | 2 => some (a.slt b)
  | 3 => some (!a.slt b)
  | 4 => some (a.sle b)
  | 5 => some (!a.sle b)
  | 6 => some (a.ult b)
  | 7 => some (!a.ult b)
  | 8 => some (a.ule b)
  | 9 => some (!a.ule b)
  | 10 => some (a &&& b != 0)
  | 11 => some (a &&& b == 0)
  | _ => none

/-- The short compare conditions EQ, NE, LT, GE, LTU, GEU, TST, TSTZ as long ones (R158); codes above 0b111 do not fit the field. -/
def shortCond (cond : BitVec 4) : Option (BitVec 4) :=
  match cond.toNat with
  | 0 => some 0
  | 1 => some 1
  | 2 => some 2
  | 3 => some 3
  | 4 => some 6
  | 5 => some 7
  | 6 => some 10
  | 7 => some 11
  | _ => none

/-- A compare in either form (R158, R161). -/
def cmpHolds (f : Form) (cond : BitVec 4) (a b : Word) : Option Bool :=
  match f with
  | .long => cmpLong cond a b
  | .short => match shortCond cond with
    | some c => cmpLong c a b
    | none => none

/-- The combining modes SET, AND, OR; 0b11 is reserved (R161). A short CMP has SET and AND only, a short CMPI only SET (R158). -/
def combine (comb : BitVec 2) (old r : Bool) : Option Bool :=
  if comb = 0 then some r else if comb = 1 then some (old && r) else if comb = 2 then some (old || r) else none

/-- The immediate of CMPI: 8 bits, sign-extended for the conditions EQ, NE, LT, GE, LE, GT and zero-extended for the others (R161); the
short form zero-extends 4 bits (R158). -/
def cmpiImm (f : Form) (cond : BitVec 4) (imm : BitVec 8) : Word :=
  match f with
  | .long => if cond.toNat ≤ 5 then imm.signExtend 32 else imm.setWidth 32
  | .short => (imm.setWidth 4).setWidth 32

/-! ### Event flags (R173, R231, R232) -/

/-- (flags AND mask) == mask. -/
def flagsMeet (flags mask : BitVec 16) : Bool := flags &&& mask == mask

/-- One event flag as a mask. -/
def flagBit (f : Nat) : BitVec 16 := BitVec.ofNat 16 (2 ^ (f % 16))

/-- A waiting thread after its masked flags were set in time: p7 ← 0, the wait ends (R173). -/
def wakeThread (th : Thread) : Thread := { (th.setPred 7 false) with wait := none }

/-- A waiting thread at its timeout: p7 ← 1 (R173). -/
def timeoutThread (th : Thread) : Thread := { (th.setPred 7 true) with wait := none }

/-- The home shelf entry of a lane, when it holds a pre-empted task (R121). -/
def homeEnt (st : Station) (lane : Nat) : Option ShelfEnt := sget none st.shelf lane

/-- The flags have become set for a task of a station that may be waiting: a PENDING task becomes READY, a waiting thread goes on, a
shelved one notes that its wait was satisfied in time (R173, R230, R242). -/
def flagsChanged (clk : Nat) (st : Station) (i : Nat) : Station :=
  let t := sget {} st.tasks i
  match t.st with
  | .pending =>
    if flagsMeet t.flags t.mask then { st with tasks := smod {} st.tasks i fun t => { t with st := .ready, readyAt := clk } } else st
  | .running =>
    let th := sget {} st.threads t.thread
    match th.st, th.wait with
    | .running, some w =>
      if flagsMeet t.flags w.mask && clk ≤ w.deadline then
        { st with
          tasks := smod {} st.tasks i fun t => { t with flags := t.flags &&& ~~~ w.mask, mask := 0 }
          threads := smod {} st.threads t.thread wakeThread }
      else st
    | _, _ => st
  | .shelved =>
    match homeEnt st t.thread with
    | some e =>
      match e.thread.wait with
      | some w =>
        if flagsMeet t.flags w.mask && clk ≤ w.deadline && !w.satisfied then
          { st with
            shelf := sset none st.shelf t.thread
              (some { e with thread := { e.thread with wait := some { w with satisfied := true } } })
            tasks := smod {} st.tasks i fun t => { t with readyAt := clk } }
        else st
      | none => st
    | none => st
  | _ => st

/-- A task with an event flag set now; a flag that is already set stays set (R231). -/
def raiseFlag (clk f : Nat) (t : Task) : Task :=
  { t with flags := t.flags ||| flagBit f, flagAt := if t.flags.getLsbD (f % 16) then t.flagAt else sset 0 t.flagAt (f % 16) clk }

/-- Sets an event flag of a task and what follows from it (R231). -/
def setTaskFlag (clk : Nat) (st : Station) (i f : Nat) : Station :=
  flagsChanged clk { st with tasks := smod {} st.tasks i (raiseFlag clk f) } i

/-- The cycle in which the last of the masked flags was set (R173). -/
def flagsMetAt (t : Task) (mask : BitVec 16) : Nat :=
  (List.range 16).foldl (fun m f => if mask.getLsbD f then max m (sget 0 t.flagAt f) else m) 0

/-- The delivery of a flag to the task that an index and a generation name (R231): a SIGNAL reaches any state but FREE and DONE, and one
that finds a stale handle, or a flag of the dispatch mask of a PENDING task, has no effect and is counted (R174); a predecessor's
completion reaches a PENDING task; a grant reaches the RUNNING task. -/
def deliverFlag (s : State) (k i : Nat) (gen : BitVec 12) (f : Nat) (src : FlagSrc) : State :=
  let t := getTask s k i
  let stale := t.gen != gen || t.st = .free || t.st = .done
  let set := modStn s k fun st => setTaskFlag s.clk st i f
  match src with
  | .signal => if stale || (t.st = .pending && t.mask.getLsbD (f % 16)) then pinc s (pidStnSSignalStale k) else set
  | .pred => if !stale && t.st = .pending then set else s
  | .grant => if !stale && t.st = .running then set else s

/-- Flags whose tasks must be RUNNING or SHELVED: results, arrivals and timers (R231). -/
def deliverLive (s : State) (k i : Nat) (gen : BitVec 12) (f : Nat) : State :=
  let t := getTask s k i
  if t.gen = gen && (t.st = .running || t.st = .shelved) then modStn s k fun st => setTaskFlag s.clk st i f else s

end Sys2Proof.Machine
end

