-- ==== Sys2Proof/Machine/Locks.lean ====
section
/-! DEFINITION. The lock bank (R253 to R261), the helper lock of a station (R204, R205) and the channels of a half (R265 to R271). -/

namespace Sys2Proof.Machine

/-- An effect that falls due `n` CORE cycles from now. -/
def delay (s : State) (n : Nat) (e : Effect) : State := { s with delayed := s.delayed ++ [(s.clk + n, e)] }

/-! ### The lock bank -/

/-- A lock word, group × 64 + word (R253). -/
def lockWord (s : State) (w : Nat) : BitVec 16 := sget 0 s.locks w

def setLock (s : State) (w : Nat) (v : BitVec 16) : State := { s with locks := sset 0 s.locks w v }

def lockHeld (v : BitVec 16) : Bool := v.getLsbD 15
def lockOwner (v : BitVec 16) : Nat := v.toNat % 2 ^ 12

/-- The master's held-lock list (R258). -/
def heldBy (s : State) (m : Nat) : List Held := s.held.filter fun h => h.master = m

/-- The locks of a thread that one task took (R260): those of a task on the shelf stay with it (R243, R262). -/
def heldTask (s : State) (m task : Nat) : List Held := s.held.filter fun h => h.master = m && h.task = task

/-- The access mask of a group (R254). -/
def lockMask (s : State) (group : Nat) : Nat := pget s (pidLockGroupMask group)

/-- A master may access a group: a thread by the role of its station, another master by its bit (R254). -/
def lockPermitted (s : State) (m group : Nat) : Bool :=
  let mask := lockMask s group
  if m < 0x880 then bitOf mask (getStn s (m / 128)).role
  else if m < 0xF08 then bitOf mask 17
  else if m = 0xF10 then bitOf mask 18
  else if m = 0xFFE then bitOf mask 19
  else if m = 0xFFD then bitOf mask 20
  else false

/-- The most locks a master may hold (R258). -/
def lockLimit (m : Nat) : Nat := if m < 0x880 then 4 else 64

/-- How a write of a lock word ends (R256): `bad` is the LOCK trap of a thread, ST_BAD_PARAM for another master. -/
inductive LockEnd where
  | done
  | bad
  deriving DecidableEq, Repr

/-- An acquire write (R256). `refused` marks a group that is BOUNDED_ONLY written by a standard or control task (R254). -/
def lockAcquireWrite (s : State) (m w task : Nat) (refused : Bool) : State :=
  let old := lockWord s w
  if refused then pinc s pidLockLimitRefused
  else if lockHeld old then (if lockOwner old = m then s else pinc s pidLockContended)
  else if lockLimit m ≤ (heldBy s m).length then pinc s pidLockLimitRefused
  else
    let s := setLock s w (0x8000 ||| (old &&& 0x4000) ||| BitVec.ofNat 16 m)
    { s with held := s.held ++ [{ master := m, word := w, task := task }] }

/-- A release by the holder keeps ABANDONED (R256). -/
def lockReleaseWrite (s : State) (m w : Nat) : State :=
  let s := setLock s w (lockWord s w &&& 0x4000)
  { s with held := dropFirst (fun h => h.master = m && h.word = w) s.held }

/-- The master is the current owner of a word. -/
def lockOwns (s : State) (m w : Nat) : Bool := lockHeld (lockWord s w) && lockOwner (lockWord s w) = m

/-- A write of value `v` to lock word `w` by master `m` in the forms of R256. Identity 0x000 writes the same value to acquire and to
release: it releases exactly when it owns the lock (DESIGN CHOICE, log entry 12). -/
def lockWrite (s : State) (m w v task : Nat) (refused : Bool) : State × LockEnd :=
  if v = 0 && lockOwns s m w then (lockReleaseWrite s m w, .done)
  else if v = m then (lockAcquireWrite s m w task refused, .done)
  else if v = 0 then (s, .bad)
  else if v = 0x4000 ||| m then
    if lockOwns s m w then (setLock s w (lockWord s w &&& 0xBFFF), .done) else (s, .bad)
  else (pinc s pidLockBadWrite, .done)

/-- A release or an ABANDONED clear by the current owner is performed whatever the mask (R255). -/
def lockAlways (s : State) (m w v : Nat) : Bool := lockOwns s m w && (v = 0 || v = 0x4000 ||| m)

/-- Frees held locks, with ABANDONED set (R260). -/
def abandonLocks (s : State) (p : Held → Bool) : State :=
  let s' := (s.held.filter p).foldl
    (fun s h => pinc (setLock s h.word 0x4000) (pidLockGroupAbandoned (h.word / 64))) s
  { s' with held := s.held.filter fun h => !p h }

/-- Frees every lock of one master (R260). -/
def abandonMaster (s : State) (m : Nat) : State := abandonLocks s fun h => h.master = m

/-- Frees the locks that a task took on a thread (R243, R260, R262; DEDUCED, log entry 74). -/
def abandonTask (s : State) (m task : Nat) : State := abandonLocks s fun h => h.master = m && h.task = task

/-- Identity of an interface as a master: 0xF00 + ring, 0xF10 for the service port (R253). -/
def ifaceMaster (i : Iface) : Nat :=
  match i with
  | .ring n => 0xF00 + n.val
  | .service => 0xF10

/-! ### The helper lock (R204, R205) -/

/-- A thread holds its station's helper lock. -/
def holdsHelper (st : Station) (lane : Nat) : Bool :=
  match st.lockHolder with
  | some r => r.lane = lane
  | none => false

/-- Rank in queue order: assured and timed first, then commit cycle, then the lower master identity (R205). -/
def lockRank (r : LockReq) : Nat := (if r.bounded then 0 else 2 ^ 80) + r.since * 128 + r.lane

/-- Grants the free helper lock to a request: the flag is set 4 CORE cycles later (R205). -/
def grantHelper (s : State) (k : Nat) (r : LockReq) : State :=
  let gen := (getTask s k r.task).gen
  let s := modStn s k fun st => { st with lockHolder := some r }
  let s := pinc s (pidHlpSHlockGrants k)
  let s := pmax s (pidHlpSHlockWaitMax k) (s.clk + 4 - r.since)
  delay s 4 (.setFlag k r.task gen r.flag .grant)

/-- Passes the free lock to the first request in queue order (R205). -/
def passHelper (s : State) (k : Nat) : State :=
  let st := getStn s k
  match argMin lockRank st.lockQueue with
  | none => s
  | some r => grantHelper (modStn s k fun st => { st with lockQueue := dropFirst (· == r) st.lockQueue }) k r

/-- The holder lets go of the lock, by HFREE or, with `abandoned`, by a trap, an abort or a forced halt (R205). A running crypto job
stops when its holder loses the lock (R187). -/
def freeHelper (s : State) (k : Nat) (abandoned : Bool) : State :=
  let s := modStn s k fun st => { st with lockHolder := none, job := if abandoned then none else st.job }
  let s := if abandoned then pinc s (pidHlpSHlockAbandoned k) else s
  passHelper s k

/-- An HLOCK request at its commit (R205). -/
def requestHelper (s : State) (k : Nat) (r : LockReq) : State :=
  let st := getStn s k
  if st.lockHolder.isNone && st.lockQueue.isEmpty then grantHelper s k r
  else modStn s k fun st => { st with lockQueue := st.lockQueue ++ [r] }

/-- Withdraws the requests of a lane (R205, R242). -/
def withdrawHelper (s : State) (k lane : Nat) : State :=
  modStn s k fun st => { st with lockQueue := st.lockQueue.filter fun r => r.lane != lane }

/-- What a trap, an abort or a forced halt does to the helper lock of a lane. -/
def abandonHelper (s : State) (k lane : Nat) : State :=
  let s := withdrawHelper s k lane
  if holdsHelper (getStn s k) lane then freeHelper s k true else s

/-! ### Channels (R265 to R270) -/

def chanKey (half ch : Nat) : Nat := 256 * half + ch

def getChan (s : State) (half ch : Nat) : Chan := sget {} s.chans (chanKey half ch)

def modChan (s : State) (half ch : Nat) (f : Chan → Chan) : State :=
  { s with chans := smod {} s.chans (chanKey half ch) f }

/-- No slot of the channel is FREE (R265). -/
def Chan.full (c : Chan) : Bool := 16 ≤ c.pub.length + c.opens

/-- A write or publication that finds the channel full (R270). -/
def chanFull (s : State) (half ch : Nat) : State := pinc s (pidChanHalfChFull half ch)

/-- Publishes an open message: its slot becomes PUBLISHED, and the arrival falls due 8 CORE cycles later (R265, R267). -/
def chanPublish (s : State) (half ch : Nat) (words : Sparse Word) : State :=
  let s := modChan s half ch fun c => { c with pub := c.pub ++ [(words, false)], opens := c.opens - 1 }
  delay (pinc s (pidChanHalfChPublished half ch)) 8 (.arrival half ch)

/-- Frees the head message (R266); an arrival follows when a message is left (R267). -/
def chanFree (s : State) (half ch : Nat) : State :=
  let s := modChan s half ch fun c => { c with pub := c.pub.tail }
  let s := pinc s (pidChanHalfChFreed half ch)
  if (getChan s half ch).pub.isEmpty then s else delay s 8 (.arrival half ch)

/-- An open message is aborted: its slot becomes FREE (R269). -/
def chanAbort (s : State) (half ch : Nat) : State :=
  pinc (modChan s half ch fun c => { c with opens := c.opens - 1 }) (pidChanHalfChAborted half ch)

/-- The half whose channels a station's threads name; a station out of a role has none and is taken as West. -/
def chanHalf (s : State) (k : Nat) : Nat :=
  match stnHalf s k with
  | some h => hIdx h
  | none => 0

/-- Aborts the open message of a thread, if any (R129, R133, R241, R273). -/
def abortOpen (s : State) (k lane : Nat) : State :=
  match (getThr s k lane).openMsg with
  | none => s
  | some m => modThr (chanAbort s (chanHalf s k) m.ch) k lane fun th => { th with openMsg := none }

/-- A flag's source of an operation under an edition: channel and flag, none when disabled (R231, R233). -/
def arrivalOf (s : State) (t : Task) : Option (Nat × Nat) :=
  let ch := edGet s t.tag (pidDispGraphOpArrivalCh t.graph t.node)
  if ch = 0xFFFF then none else some (ch, edGet s t.tag (pidDispGraphOpArrivalFlag t.graph t.node))

/-- The arrival of a channel: the flag of every RUNNING or SHELVED task of the half that names it (R267). -/
def channelArrival (s : State) (half ch : Nat) : State :=
  (List.range 17).foldl (fun s k =>
    if stnHalf s k = some (hfOf half) then
      (getStn s k).tasks.foldl (fun s kt =>
        match arrivalOf s kt.2 with
        | some (c, f) => if c = ch then deliverLive s k kt.1 kt.2.gen f else s
        | none => s) s
    else s) s

end Sys2Proof.Machine
end

