-- ==== Sys2Proof/Machine/ThreadMem.lean ====
section
/-! DEFINITION. A thread's 64 KiB address space (R144 to R149): the ranges, loads and stores with their checks, the windows, the thread
control registers, and the places of station memory. -/

namespace Sys2Proof.Machine

/-- The ranges of R144. -/
inductive Range where
  | head
  | tail
  | desc
  | metadata
  | scratch
  | flow
  | shared
  | result
  | locks
  | aperture
  | regs
  | chanWin
  | unmapped
  deriving DecidableEq, Repr

/-- The range of a thread address (R144). -/
def rangeOf (a : Nat) : Range :=
  if a < 0x100 then .head
  else if a < 0x120 then .tail
  else if a < 0x160 then .desc
  else if a < 0x200 then .metadata
  else if a < 0x1000 then .unmapped
  else if a < 0x2000 then .scratch
  else if a < 0x4000 then .flow
  else if a < 0xC000 then .shared
  else if a < 0xE000 then .result
  else if a < 0xE080 then .locks
  else if a < 0xE800 then .unmapped
  else if a < 0xF000 then .aperture
  else if a < 0xF100 then .regs
  else if a < 0xF400 then .unmapped
  else if a < 0xF440 then .chanWin
  else .unmapped

def trapInsn (code : Nat) : TrapInfo := { ty := 1, code := code }
def trapAddress (a : Nat) : TrapInfo := { ty := 2, addr := a }
def trapUndefined : TrapInfo := { ty := 3 }
def trapRepIllegal : TrapInfo := { ty := 4 }
/-- The HELPER trap with its cause: 0 SLOT_BUSY, 1 NO_LOCK, 2 NOT_USER (R211). -/
def trapHelper (cause : Nat) : TrapInfo := { ty := 6, code := cause }
def trapLock : TrapInfo := { ty := 7 }

/-! ### The running task of a thread -/

/-- The task that a thread runs. -/
def thrTask (s : State) (k lane : Nat) : Task := getTask s k (getThr s k lane).task

/-- The thread runs a standard task: it uses the standard half of its scratch and of its result slots (R112, R195). -/
def isStandard (s : State) (k lane : Nat) : Bool := (thrTask s k lane).cls = 0

/-- The packet of a thread's task. -/
def thrPkt (s : State) (k lane : Nat) : Packet := (getPkt s (thrTask s k lane).pkt).getD {}

/-- A result slot's key (R195): lane × 16, the standard half from 8 on. -/
def slotKey (lane : Nat) (std : Bool) (r : Nat) : Nat := 16 * lane + (if std then 8 else 0) + r

/-- The 64 bytes of a result slot (R196). -/
def slotBytes (sl : Slot) : List Byte :=
  leBytes 4 (sl.st % 4 * 2 ^ 30 + sl.kind % 8 * 2 ^ 24 + sl.code % 16 * 2 ^ 16)
    ++ leBytes 4 sl.index ++ leBytes 2 sl.latency ++ leBytes 6 0 ++ fitBytes sl.data 48

/-! ### Thread control registers (R148, R149) -/

/-- HANDLE of a task-store entry (R149). -/
def handleOf (t : Task) (i : Nat) : Nat := t.gen.toNat * 2 ^ 16 + i

/-- TASKINFO (R149). -/
def taskInfo (t : Task) : Nat :=
  t.graph % 256 * 2 ^ 24 + t.node % 8 * 2 ^ 21 + t.cls % 4 * 2 ^ 19 + t.tag % 4 * 2 ^ 17 + t.pass % 4 * 2 ^ 15

/-- The registers of R148: offset and width. -/
def ctlRegs : List (Nat × Nat) :=
  [(0x00, 4), (0x04, 4), (0x08, 4), (0x0C, 2), (0x0E, 2), (0x10, 2), (0x12, 2), (0x14, 2), (0x16, 2), (0x18, 4), (0x1C, 4),
   (0x20, 2), (0x24, 4)]

/-- The register that holds an access wholly (R148). -/
def ctlRegAt (off w : Nat) : Option (Nat × Nat) := ctlRegs.find? fun r => r.1 ≤ off && off + w ≤ r.1 + r.2

/-- The value of a thread control register (R148). -/
def ctlRead (s : State) (k lane off : Nat) : Nat :=
  let th := getThr s k lane
  let t := thrTask s k lane
  if off = 0x00 then (getStn s k).role * 2 ^ 16 + masterId k lane
  else if off = 0x04 then handleOf t th.task
  else if off = 0x08 then taskInfo t
  else if off = 0x0C then t.flags.toNat
  else if off = 0x10 then th.wbank.toNat
  else if off = 0x12 then th.lkgrp.toNat
  else if off = 0x14 then th.tbase.toNat
  else if off = 0x16 then th.chsel.toNat
  else if off = 0x18 then nowStamp s % 2 ^ 32
  else if off = 0x1C then th.nowHi.toNat
  else if off = 0x20 then th.preds.toNat / 2 * 2 + 1
  else if off = 0x24 then th.slots.toNat
  else 0

/-- A load of any byte of NOW_LO latches NOW_HI (R148). -/
def latchNow (s : State) (k lane : Nat) : State :=
  modThr s k lane fun th => { th with nowHi := BitVec.ofNat 32 (nowStamp s / 2 ^ 32) }

/-- What a register write does when it takes effect (R148). -/
def ctlApply (s : State) (k lane off : Nat) (v : BitVec 16) : State :=
  if off = 0x0E then
    let i := (getThr s k lane).task
    modTask s k i fun t => { t with flags := t.flags &&& ~~~ v }
  else modThr s k lane fun th =>
    if off = 0x10 then { th with wbank := v &&& 0x000F }
    else if off = 0x12 then { th with lkgrp := v &&& 0x003F }
    else if off = 0x14 then { th with tbase := v &&& 0x7FFF }
    else if off = 0x16 then { th with chsel := v &&& 0x00FF }
    else if off = 0x20 then { th with preds := v.setWidth 8 &&& 0xFE }
    else th

/-- A register store takes effect for instructions that issue 2 or more CORE cycles later (R148). -/
def ctlWrite (s : State) (k lane off : Nat) (v : BitVec 16) : State := delay s 2 (.threadReg k lane off v)

/-- The registers that a store may write, all 16 bits wide (R148). -/
def ctlWritable (off : Nat) : Bool :=
  off = 0x0E || off = 0x10 || off = 0x12 || off = 0x14 || off = 0x16 || off = 0x20

/-! ### Station memory (R111) -/

/-- The place in station memory of a thread address in scratch, flow scratch or shared data. -/
def memPlace (th : Thread) (lane a : Nat) : Nat :=
  match rangeOf a with
  | .flow => lane / 8 * 8192 + (a - 0x2000)
  | .shared => 98304 + th.wbank.toNat * 32768 + (a - 0x4000)
  | _ => 524288 + lane * 4096 + (a - 0x1000)

/-! ### Loads -/

/-- The bytes of a packet's or task's context that a thread sees at 0x0000-0x01FF. -/
def ctxByte (th : Thread) (p : Packet) (a : Nat) : Byte :=
  match rangeOf a with
  | .head => bget th.head a
  | .tail => bget p.tail (a - 0x100)
  | .desc => BitVec.ofNat 8 (dget th.desc (8 * (a - 0x120)) 8)
  | _ => bget p.metadata (a - 0x160)

/-- The table-memory address of an aperture address (R145). -/
def apertureAddr (th : Thread) (a : Nat) : Nat := th.tbase.toNat * 2048 + (a - 0xE800)

/-- The head message of the channel that CHSEL names (R266); none when it is empty. -/
def chanHead (s : State) (k : Nat) (th : Thread) : Option (Sparse Word × Bool) :=
  (getChan s (chanHalf s k) th.chsel.toNat).pub.head?

/-- A byte of the channel receive window; it reads zero when the channel is empty (R179). -/
def chanByte (s : State) (k : Nat) (th : Thread) (off : Nat) : Byte :=
  match chanHead s k th with
  | none => 0
  | some m => byteAt (leBytes 4 (sget 0 m.1 (off / 4)).toNat) (off % 4)

/-- Natural alignment, in the ranges that ask for it (R144, R145). -/
def alignedFor (a w : Nat) : Bool :=
  match rangeOf a with
  | .head => true
  | .tail => true
  | .desc => true
  | .metadata => true
  | .regs => true
  | .locks => w = 2 && a % 2 = 0
  | .aperture => w = 4 && a % 4 = 0
  | _ => a % w = 0

/-- The scratch half of the task's class holds the address (R112). -/
def scratchOk (s : State) (k lane a : Nat) : Bool := (0x1800 ≤ a) = isStandard s k lane

/-- The checks of R144 and R145 on an access, before those on its direction: one mapped range, alignment, the scratch half, the window
bank, the group mask, the table base, one register. -/
def accessOk (s : State) (k lane a w : Nat) : Bool :=
  let th := getThr s k lane
  a + w ≤ 0x10000 && rangeOf a = rangeOf (a + w - 1) && alignedFor a w &&
    match rangeOf a with
    | .unmapped => false
    | .scratch => scratchOk s k lane a && scratchOk s k lane (a + w - 1)
    | .shared => th.wbank.toNat ≤ 12
    | .aperture => apertureAddr th a < 0x2F80000 && th.tbase.toNat < 24576
    | .regs => (ctlRegAt (a - 0xF000) w).isSome
    | _ => true

/-- The lock word of an address in the thread's lock group (R148, R253). -/
def lockPlace (th : Thread) (a : Nat) : Nat := th.lkgrp.toNat * 64 + (a - 0xE000) / 2

/-- The bytes that a load returns, in ascending addresses. -/
def loadBytes (s : State) (k lane a w : Nat) : List Byte :=
  let th := getThr s k lane
  (List.range w).map fun i =>
    match rangeOf a with
    | .scratch | .flow | .shared => bget (getStn s k).mem (memPlace th lane (a + i))
    | .result =>
      let o := a + i - 0xC000
      if o < 512 then byteAt (slotBytes (sget {} (getStn s k).slots (slotKey lane (isStandard s k lane) (o / 64)))) (o % 64)
      else 0
    | .locks => byteAt (leBytes 2 (lockWord s (lockPlace th a)).toNat) i
    | .aperture => tblByte s (apertureAddr th a + i)
    | .regs =>
      match ctlRegAt (a - 0xF000) w with
      | some r => byteAt (leBytes 4 (ctlRead s k lane r.1)) (a - 0xF000 - r.1 + i)
      | none => 0
    | .chanWin => chanByte s k th (a - 0xF400 + i)
    | _ => ctxByte th (thrPkt s k lane) (a + i)

/-- The value of an access's bytes: big-endian in the head and tail windows, little-endian elsewhere (R144). -/
def bytesValue (a : Nat) (bs : List Byte) : Nat :=
  match rangeOf a with
  | .head | .tail => beNat bs
  | _ => leNat bs

/-- What a load does beside returning data: it latches NOW_HI, and it reports a word of table memory that is bad (R148, R281). -/
def loadEffect (s : State) (k lane a w : Nat) : State :=
  match rangeOf a with
  | .regs => if (ctlRegAt (a - 0xF000) w).map (·.1) = some 0x18 then latchNow s k lane else s
  | .aperture =>
    let ta := apertureAddr (getThr s k lane) a
    if wordBad s ta then reportParity s ta (masterId k lane) else s
  | _ => s

/-- The group mask excludes the thread (R255). -/
def lockExcluded (s : State) (k lane : Nat) : Bool :=
  !lockPermitted s (masterId k lane) (getThr s k lane).lkgrp.toNat

/-- A load of `w` bytes (R144, R145): its value and the state after it, or the ADDRESS trap. -/
def tload (s : State) (k lane a w : Nat) : Except TrapInfo (Nat × State) :=
  if !accessOk s k lane a w then .error (trapAddress a)
  else if rangeOf a = .locks && lockExcluded s k lane then .error (trapAddress a)
  else .ok (bytesValue a (loadBytes s k lane a w), loadEffect s k lane a w)

/-! ### Stores -/

/-- A descriptor byte with at least one RW bit (R146). -/
def descByteRw (i : Nat) : Bool := dget descRw (8 * i) 8 != 0

/-- A store of descriptor bytes writes their RW bits only (R146). -/
def descStore (d : BitVec 512) (off : Nat) (bs : List Byte) : BitVec 512 :=
  let n := bs.length
  let m := descRw &&& (BitVec.ofNat 512 ((2 ^ (8 * n) - 1) * 2 ^ (8 * off)))
  (d &&& ~~~ m) ||| (BitVec.ofNat 512 (leNat bs * 2 ^ (8 * off)) &&& m)

/-- Notes the addresses of the packet context that a task has stored to (R147). -/
def noteStored (old : List Nat) (a w : Nat) : List Nat :=
  (List.range w).foldl (fun l i => if l.contains (a + i) then l else l ++ [a + i]) old

/-- The bytes of a stored value in ascending addresses (R144). -/
def valueBytes (a w v : Nat) : List Byte :=
  match rangeOf a with
  | .head => beBytes w v
  | _ => leBytes w v

/-- The group takes locks of bounded tasks only, and a standard or control task writes to acquire (R254). -/
def lockRefused (s : State) (k lane w v : Nat) : Bool :=
  bitOf (lockMask s (w / 64)) 31 && !bounded (thrTask s k lane).cls && v = masterId k lane && !lockOwns s (masterId k lane) w

/-- A store to a lock word (R254 to R256). -/
def storeLock (s : State) (k lane a v : Nat) : Except TrapInfo State :=
  let th := getThr s k lane
  let m := masterId k lane
  let w := lockPlace th a
  if lockExcluded s k lane && !lockAlways s m w v then .error (trapAddress a)
  else
    let refused := lockRefused s k lane w v
    match lockWrite s m w v th.task refused with
    | (s', .done) => .ok s'
    | (_, .bad) => .error trapLock

/-- A store through the table aperture: the general region only (R276). -/
def storeAperture (s : State) (k lane a : Nat) (bs : List Byte) : Except TrapInfo State :=
  let ta := apertureAddr (getThr s k lane) a
  if regionOf ta = .general then .ok (tblWrite s ta bs) else .error (trapAddress a)

/-- A store of the low `w` bytes of `v` (R144, R145): the state after it, or a trap. -/
def tstore (s : State) (k lane a w v : Nat) : Except TrapInfo State :=
  let v := v % 2 ^ (8 * w)
  if !accessOk s k lane a w then .error (trapAddress a)
  else
    let bs := valueBytes a w v
    match rangeOf a with
    | .head => .ok (modThr s k lane fun th =>
        { th with head := ssetRange 0 th.head a bs, stored := noteStored th.stored a w })
    | .desc =>
      if (List.range w).all fun i => descByteRw (a + i - 0x120) then
        .ok (modThr s k lane fun th =>
          { th with desc := descStore th.desc (a - 0x120) bs, stored := noteStored th.stored a w })
      else .error (trapAddress a)
    | .scratch | .flow | .shared =>
      let place := memPlace (getThr s k lane) lane a
      .ok (modStn s k fun st => { st with mem := ssetRange 0 st.mem place bs })
    | .locks => storeLock s k lane a v
    | .aperture => storeAperture s k lane a bs
    | .regs =>
      if ctlWritable (a - 0xF000) && w = 2 then .ok (ctlWrite s k lane (a - 0xF000) (BitVec.ofNat 16 v))
      else .error (trapAddress a)
    | _ => .error (trapAddress a)

/-! ### The store of CPY (R165) -/

/-- Where and when the store of a CPY acts that takes effect `n` CORE cycles after the commit: station memory, the lock bank and table memory
then, the task's own copies at once. -/
def laterStore (s : State) (k lane a w v n : Nat) : State :=
  let th := getThr s k lane
  let bs := valueBytes a w (v % 2 ^ (8 * w))
  match rangeOf a with
  | .scratch | .flow | .shared => delay s n (.memStore k lane (memPlace th lane a) bs)
  | .locks =>
    let word := lockPlace th a
    delay s n (.lockStore k lane word (v % 2 ^ 16) th.task (lockRefused s k lane word (v % 2 ^ 16)))
  | _ => delay s n (.tblStore k lane (apertureAddr th a) bs)

/-- A store of CPY that falls due (R165). -/
def applyStore (s : State) (e : Effect) : State :=
  match e with
  | .memStore k _ place bs => modStn s k fun st => { st with mem := ssetRange 0 st.mem place bs }
  | .lockStore k lane w v task refused => (lockWrite s (masterId k lane) w v task refused).1
  | .tblStore _ _ a bs => tblWrite s a bs
  | _ => s

/-- The effect is a store of CPY by this thread to the kind of memory that holds the address. -/
def storeOf (k lane a : Nat) (e : Effect) : Bool :=
  match e with
  | .memStore k' l _ _ => k' = k && l = lane && (rangeOf a = .scratch || rangeOf a = .flow || rangeOf a = .shared)
  | .lockStore k' l _ _ _ _ => k' = k && l = lane && rangeOf a = .locks
  | .tblStore k' l _ _ => k' = k && l = lane && rangeOf a = .aperture
  | _ => false

/-- Accesses of one thread to one range are performed in issue order: an earlier CPY's store comes before a later access (R152). -/
def orderStores (s : State) (k lane a : Nat) : State :=
  let s' := { s with delayed := s.delayed.filter fun e => !storeOf k lane a e.2 }
  (s.delayed.filter fun e => storeOf k lane a e.2).foldl (fun s e => applyStore s e.2) s'

end Sys2Proof.Machine
end

