-- ==== Sys2Proof/Machine/Time.lean ====
section
/-! DEFINITION. Datum (R349 to R370): the tick of a CORE cycle, steps and slews, the time commands, the servo, and the pulse, holdover
and SyncE pins. -/

namespace Sys2Proof.Machine

/-! ### Line ports (R16, R352) -/

/-- Lanes of a port type (R16). -/
def typeLanes (t : Nat) : Nat := if t = 1 then 8 else if t = 2 then 4 else if t = 3 then 2 else 1

/-- A type that a port may have by its kind and alignment (R16). -/
def typeFits (p t : Nat) : Bool :=
  if p < 16 then t ≤ 4 && p % typeLanes t = 0 else t = 0 || (5 ≤ t && t ≤ 8)

/-- The type of a port in the board's configuration. -/
def boardType (p : Nat) : Nat := if p < 32 then (Config.portType p).toNat else 0

/-- A lower high-speed port covers the anchor lane of port p. -/
def coveredLane (p : Nat) : Bool := p < 16 && (List.range p).any fun a => boardType a != 0 && p < a + typeLanes (boardType a)

/-- The Registrar takes the board's configuration: no port off its alignment, and none on a lane that a wider port has taken (R16). -/
def boardOk : Bool := (List.range 32).all fun p => typeFits p (boardType p) && (boardType p = 0 || !coveredLane p)

/-- The type of a port: 0 where it does not exist, and for every port while the configuration is rejected, which changes no port (R16, log
entry 21). -/
def portTypeOf (p : Nat) : Nat := if boardOk then boardType p else 0

/-- Line rate in Mbit/s, or the rate at which an internal port is served (R16, R331). -/
def portRate (p : Nat) : Nat :=
  if p = 32 then 400000 else if p = 33 then 400000 else if p = 34 then 10000 else if p = 35 then 800000
  else match portTypeOf p with
    | 1 => 800000
    | 2 => 400000
    | 3 => 200000
    | 4 => 100000
    | 5 => 25000
    | 6 => 25000
    | 7 => 10000
    | 8 => 1000
    | _ => 0

/-- Port latency constants in 2^-16 ns; internal ports have none, and no fused tx_latency exceeds 16.8 ns (R352, R353). -/
def rxLat (p : Nat) : Nat := if p < 32 then (Config.rxLatency p).toNat else 0
def txLat (p : Nat) : Nat := if p < 32 then min (Config.txLatency p).toNat 1101004 else 0

/-- The port that a lane belongs to (R15, R16). -/
def lanePort (lane : Nat) : Nat :=
  if 16 ≤ lane then lane
  else ((List.range 16).find? fun a => portTypeOf a != 0 && a ≤ lane && lane < a + typeLanes (portTypeOf a)).getD lane

/-! ### Steps (R365, R366) -/

/-- What is left of a slew in 2^-16 ns, signed (R367). -/
def slewLeft (w : Slew) : Int :=
  let done : Nat := w.cycles * 16 * w.rate.natAbs * 65536 / 10 ^ 10
  let left : Nat := w.offset.natAbs - done
  if w.offset < 0 then -left else left

/-- Whole nanoseconds of a signed amount of 2^-16 ns, towards zero. -/
def wholeNs (x : Int) : Int := x.tdiv 65536

/-- A step of Datum to a new time in 2^-32 ns (R365, R366). -/
def stepDatum (s : State) (new : Nat) : State :=
  let d : Int := ((new : Int) - s.datum.units) / 65536
  let left : Int := match s.datum.slew with
    | none => 0
    | some w => slewLeft w
  let s1 := applyAllEvents s
  let s1 := { s1 with
    datum := { s1.datum with
      units := new, slew := none, valid := true, ppsOutSec := none
      stepWin := some { s := some new, since := s.clk, lim := residencyLimit s } } }
  let t := nowStamp s1
  let s1 := { s1 with tbl := { s1.tbl with pol := s1.tbl.pol.map fun kp => (kp.1, if kp.2.enable then { kp.2 with last := t } else kp.2) } }
  let s1 := logEvent s1 0x0050 clsWarning (leBytes 8 (ofSigned 64 (wholeNs d)) ++ leBytes 4 (ofSigned 32 (wholeNs left)))
  settleBounds s s1

/-- An adjustment that counts as a step begins (R54, R367). -/
def stepBegins (s : State) : StepWin := { since := s.clk, lim := residencyLimit s }

/-- TIME_STEP as an adjustment ends now (R54): an adjustment that counted as a step leaves the instant S behind. -/
def stepEnds (s : State) : Option StepWin :=
  s.datum.stepWin.map fun w => if w.s.isNone then { s := some (now s), since := s.clk, lim := residencyLimit s } else w

/-- A slew at this rate in ppb counts as a step (R54, R367). -/
def rateIsStep (s : State) (rate : Nat) : Bool := pget s pidBoundSlewAllowance * 1000 < rate

/-- Starts a slew; one beyond `bound.slew_allowance` is treated as a step (R367). A slew in progress ends with it. -/
def startSlew (s : State) (offset : Int) (rate : Nat) : State :=
  let w : Slew := { rate := if offset < 0 then -(rate : Int) else rate, offset := offset }
  let s1 := { s with datum := { s.datum with
    slew := some w, stepWin := if rateIsStep s rate then some (stepBegins s) else stepEnds s } }
  settleBounds s s1

/-- An adjustment that counts as a step is in progress (R54). -/
def stepHeld (s : State) : Bool := s.datum.stepWin.any fun w => w.s.isNone

/-- A smaller `bound.slew_allowance` takes effect at once: a slew that runs beyond it counts as a step from now on (R57, R367). -/
def recheckSlew (s : State) : State :=
  match s.datum.slew with
  | none => s
  | some w =>
    if slewActive w && rateIsStep s w.rate.natAbs && !stepHeld s then
      settleBounds s { s with datum := { s.datum with stepWin := some (stepBegins s) } }
    else s

/-- Changes the frequency offset; a change beyond `bound.slew_allowance` is treated as a step that ends at once (R54, R367). -/
def changeFreq (s : State) (f : Int) : State :=
  let big := (pget s pidBoundSlewAllowance * 1000 * 65536 : Nat) < (f - s.datum.freq).natAbs
  settleBounds s { s with datum := { s.datum with
    freq := f
    stepWin := if big && !stepHeld s then some { s := some (now s), since := s.clk, lim := residencyLimit s } else s.datum.stepWin } }

/-- A frequency offset that leaves room for the slew in progress: their sum lies within 500 ppm (R351). -/
def freqBeside (d : Datum) (f : Int) : Int :=
  let r := rateSum d - d.freq
  let f := withinMax f
  withinMax (f + r) - r

/-! ### The time commands (R364) -/

/-- A time record in 2^-32 ns, none when its nanoseconds are out of range or its reserved bytes are not zero (R349). -/
def recordUnits (bs : List Byte) : Option Nat :=
  if leAt bs 6 4 ≤ 999999999 && leAt bs 12 4 = 0 then
    some (leAt bs 0 6 * unitsPerSec + leAt bs 6 4 * 2 ^ 32 + leAt bs 10 2 * 2 ^ 16)
  else none

/-- The servo is LOCKED (R364). -/
def servoLocked (s : State) : Bool := s.datum.st = 1

/-- TIME_GET. -/
def execTimeGet (h : CmdHdr) (ps : List Byte) (s : State) : Result :=
  hostCmdN s h 0x0500 0 ps 0 fun s =>
    answer s (timeRecord (now s) ++ leBytes 1 s.datum.st ++ leBytes 8 (ofSigned 64 (rateNow s.datum)) ++ leBytes 1 (b2n s.datum.valid))

/-- A TIME_SET or TIME_STEP to a new time: no step when it is equal at 2^-16 ns (R365). -/
def setDatum (s : State) (new : Nat) : Answer :=
  if servoLocked s || s.datum.stepWin.isSome then refuse s stBusy
  else if new / 2 ^ 16 = now s / 2 ^ 16 then answer { s with datum := { s.datum with valid := true } } []
  else answer (stepDatum s new) []

/-- TIME_SET (R364, R365). -/
def execTimeSet (h : CmdHdr) (ps : List Byte) (s : State) : Result :=
  hostCmdN s h 0x0501 0 ps 16 fun s =>
    match recordUnits ps with
    | none => refuse s stBadParam
    | some u => setDatum s u

/-- A signed offset of nanoseconds and fraction in 2^-16 ns. -/
def offset16 (ps : List Byte) (signedFrac : Bool) : Int :=
  toSigned 64 (leAt ps 0 8) * 65536 + (if signedFrac then toSigned 16 (leAt ps 8 2) else (leAt ps 8 2 : Int))

/-- The time that an offset in 2^-16 ns leads to, none beyond the scale (R364). -/
def offsetTarget (s : State) (d : Int) : Option Nat :=
  let t : Int := now s + d * 65536
  if 0 ≤ t ∧ t < datumEnd then some t.toNat else none

/-- TIME_STEP (R364, R365). -/
def execTimeStep (h : CmdHdr) (ps : List Byte) (s : State) : Result :=
  hostCmdN s h 0x0502 0 ps 10 fun s =>
    match offsetTarget s (offset16 ps true) with
    | none => refuse s stBadParam
    | some u => setDatum s u

/-- TIME_ADJUST (R364, R367). -/
def execTimeAdjust (h : CmdHdr) (ps : List Byte) (s : State) : Result :=
  hostCmdN s h 0x0503 0 ps 14 fun s =>
    let d := offset16 ps false
    let rate := leAt ps 10 4
    let r : Int := s.datum.freq + (if d < 0 then -(rate : Int) else rate) * 65536
    if rate < 1 || 1000000 < rate || maxOffset < r || r < -maxOffset || (offsetTarget s d).isNone then refuse s stBadParam
    else if servoLocked s then refuse s stBusy
    else answer (startSlew s d rate) []

/-- TIME_FREQ (R364, R367): a change beyond `bound.slew_allowance` is treated as a step that ends at once. -/
def execTimeFreq (h : CmdHdr) (ps : List Byte) (s : State) : Result :=
  hostCmdN s h 0x0504 0 ps 8 fun s =>
    let f := toSigned 64 (leAt ps 0 8)
    let r := rateSum { s.datum with freq := f }
    if maxOffset < f || f < -maxOffset || maxOffset < r || r < -maxOffset then refuse s stBadParam
    else if servoLocked s then refuse s stBusy
    else answer (changeFreq s f) []

/-- TIME_TXSTAMP_READ: the records of a port's queue, which leave it (R356, R364). -/
def execTimeTxstampRead (h : CmdHdr) (ps : List Byte) (s : State) : Result :=
  hostCmdN s h 0x0505 0 ps 1 fun s =>
    let p := leAt ps 0 1
    if 32 ≤ p then refuse s stBadParam
    else answer { s with datum := { s.datum with txStamps := sset [] s.datum.txStamps p [] } } (sget [] s.datum.txStamps p).flatten

/-- TIME_STATUS. -/
def execTimeStatus (h : CmdHdr) (ps : List Byte) (s : State) : Result :=
  hostCmdN s h 0x0506 0 ps 0 fun s =>
    let left : Int := match s.datum.slew with
      | none => 0
      | some w => slewLeft w
    answer s (leBytes 1 s.datum.st ++ leBytes 1 s.datum.src ++ leBytes 1 (b2n s.datum.stepWin.isSome) ++ leBytes 8 (ofSigned 64 left)
      ++ leBytes 1 (b2n s.datum.ppsInAt.isSome + 2 * b2n s.datum.ppsOutUntil.isSome) ++ leBytes 1 (b2n s.datum.oscHold))

/-! ### Events of Datum -/

/-- TIME_STEP clears one residency limit after the step or the end of the adjustment; before that nothing happens (R54, R365). -/
def execTimeStepClear (s : State) : Result :=
  match s.datum.stepWin with
  | none => .next s
  | some w =>
    if w.s.isSome && w.since + residencyInterval s w.lim ≤ s.clk then
      .next (settleBounds s { s with datum := { s.datum with stepWin := none } })
    else .next s

/-- A slew has applied its offset (R367). -/
def execSlewEnd (s : State) : Result :=
  match s.datum.slew with
  | none => .next s
  | some w => if slewActive w then .next s else .next { s with datum := { s.datum with slew := none, stepWin := stepEnds s } }

/-! ### The servo (R362, R368) -/

/-- The largest slew rate in ppb beside a frequency offset (R368). -/
def roomPpb (f : Int) : Nat := ((maxOffset - f.natAbs) / 65536).toNat

/-- The reference that the Registrar follows: the one that `ptp.source` names, then the other of PTP (0) and PPS_IN (1), then none (R362). -/
def bestSource (s : State) (ptp pps : Bool) : Option Nat :=
  if pget s pidPtpSource = 1 then (if pps then some 1 else if ptp then some 0 else none)
  else if ptp then some 0 else if pps then some 1 else none

/-- The Registrar goes over to the best reference that is left, or to HOLDOVER (R362). -/
def nextSource (s : State) : State :=
  if s.datum.st != 1 then s
  else match bestSource s s.datum.ptpUp s.datum.ppsInAt.isSome with
    | some x => { s with datum := { s.datum with src := x } }
    | none => { s with datum := { s.datum with st := 2 } }

/-- The servo steers the frequency in LOCKED, in a way that is open (R362; log entry 24). -/
def servoFreq (s : State) : State :=
  changeFreq { s with freeCtr := s.freeCtr + 1 } (freqBeside s.datum (toSigned 64 (Config.servoSteer s.freeCtr).toNat))

/-- A correction by `offset` in 2^-16 ns: a step at or beyond the threshold while TIME_STEP is clear, else a slew at a rate that is open. With no
room beside the frequency offset there is no slew, and an offset beyond the scale is no correction (R368). -/
def servoPhase (s : State) (offset : Int) : State :=
  match offsetTarget s offset with
  | none => s
  | some u =>
    if offset = 0 then s
    else if pget s pidTimeStepThresholdNs * 65536 ≤ offset.natAbs && s.datum.stepWin.isNone then stepDatum s u
    else
      let room := roomPpb s.datum.freq
      if room = 0 then s
      else startSlew { s with freeCtr := s.freeCtr + 1 } offset (1 + (Config.servoRate s.freeCtr).toNat % room)

/-- The servo corrects Datum to its reference (R362, R368): `offset` says how far the PTP reference is away in 2^-16 ns, its path delays and
those of R370 taken into account, and is none when no PTP reference is at hand. PPS_IN gives its own phase, once for each edge (R360). With no reference
nothing happens. -/
def execPtpServoCorrection (offset : Option Int) (s : State) : Result :=
  match bestSource s offset.isSome s.datum.ppsInAt.isSome with
  | none => .next s
  | some x =>
    let d := if x = 0 then offset.getD 0 else s.datum.ppsPhase.getD 0
    let s := { s with datum := { s.datum with
      st := 1, src := x, ptpUp := offset.isSome, valid := true, ppsPhase := if x = 0 then s.datum.ppsPhase else none } }
    .next (servoPhase (servoFreq s) d)

/-! ### Calibration, pulses and holdover (R354, R360 to R362) -/

/-- The lane belongs to a port that exists. -/
def laneActive (l : Nat) : Bool := portTypeOf (lanePort l) != 0

/-- The calibration of a lane falls due: at boot, and every `time.cal_interval_s` (R354). -/
def calDue (s : State) (l : Nat) : Bool :=
  match sget none s.datum.calAt l with
  | none => true
  | some t => t + pget s pidTimeCalIntervalS * secCycles ≤ s.clk

/-- The calibration of one active lane's interpolator ends; a lane that is not active, or not due, is not calibrated (R354). -/
def execLaneCalibration (lane : Fin 32) (ok : Bool) (s : State) : Result :=
  let l := lane.val
  if !laneActive l || !calDue s l then .next s
  else
    let others := s.datum.badLanes.filter (· != l)
    let s := { s with datum := { s.datum with calAt := sset none s.datum.calAt l (some s.clk) } }
    if ok then .next { s with datum := { s.datum with badLanes := others } }
    else
      let s := { s with datum := { s.datum with badLanes := others ++ [l] } }
      .next (report s (0x30 + lanePort l) 0x18 clsMajor 0x1080 l 0 0)

/-- The distance of a time to the nearest whole second, in 2^-16 ns: what a PPS stamp lacks to it (R360). -/
def secondPhase (t : Nat) : Int :=
  let x := t % unitsPerSec
  (if x * 2 < unitsPerSec then -(x : Int) else ((unitsPerSec - x : Nat) : Int)) / 65536

/-- A rising edge on PPS_IN: stamped in the TIME cycle in which it comes, in steps of 0.2 ns, less `time.pps_in_delay` (R360). -/
def execPpsInEdge (interp : BitVec 3) (s : State) : Result :=
  let t := now s + interp.toNat * 2 ^ 32 / 5 - pget s pidTimePpsInDelay * 2 ^ 32
  let s := { s with datum := { s.datum with ppsInAt := some s.clk, ppsInLast := t, ppsPhase := some (secondPhase t) } }
  .next (logEvent s 0x0051 clsInfo ((timeRecord t).take 12))

/-- 1.1 s in CORE cycles. -/
def ppsLimit : Nat := 1375000000

/-- No edge within 1.1 s of the previous one (R360, R362). -/
def execPpsInLost (s : State) : Result :=
  match s.datum.ppsInAt with
  | none => .next s
  | some t =>
    if t + ppsLimit < s.clk then
      let s := { s with datum := { s.datum with ppsInAt := none, ppsPhase := none } }
      .next (logEvent (if s.datum.src = 1 then nextSource s else s) 0x0052 clsWarning [])
    else .next s

/-- PPS_OUT may pulse (R361). -/
def ppsOutOn (s : State) : Bool :=
  pget s pidTimePpsOutEnable = 1 || (pget s pidTimePpsOutEnable = 2 && s.datum.st = 1)

/-- Time since the latest whole second plus `time.pps_out_offset`, in 2^-32 ns, and that second (R361). -/
def ppsPhase (s : State) : Int × Int :=
  let t : Int := now s - toSigned 32 (pget s pidTimePpsOutOffset) * 2 ^ 32
  (t % (unitsPerSec : Int), t / (unitsPerSec : Int))

/-- PPS_OUT rises in the TIME cycle of a whole second plus the offset, once for each second; at other times nothing happens. A pulse that is
still high completes its own width (R361). -/
def execPpsOutPulse (s : State) : Result :=
  let (since, sec) := ppsPhase s
  if ppsOutOn s && since < timeIncrement s.datum && 0 ≤ sec && s.datum.ppsOutSec != some sec.toNat then
    .next { s with datum := { s.datum with
      ppsOutSec := some sec.toNat
      ppsOutUntil := some (max (s.datum.ppsOutUntil.getD 0) (s.clk + pget s pidTimePpsOutWidthUs * usCycles)) } }
  else .next s

/-- The pulse ends at its width (R361). -/
def execPpsOutPulseEnd (s : State) : Result :=
  match s.datum.ppsOutUntil with
  | none => .next s
  | some u => if u ≤ s.clk then .next { s with datum := { s.datum with ppsOutUntil := none } } else .next s

/-- The offset of the holdover oscillator, every second; in HOLDOVER the frequency follows it, in a way that is open (R362). -/
def execHoldOffsetUpdate (ppb : BitVec 32) (s : State) : Result :=
  let s := pset s pidTimeHoldOffsetPpb ppb.toNat
  let s := { s with datum := { s.datum with oscHold := true } }
  if s.datum.st = 2 then
    let f := freqBeside s.datum (toSigned 64 (Config.holdSteer s.freeCtr ppb).toNat)
    .next (changeFreq { s with freeCtr := s.freeCtr + 1 } f)
  else .next s

/-- No OSC_HOLD_IN edge for 1 µs (R362). -/
def execOscHoldLost (s : State) : Result :=
  if s.datum.oscHold then .next (logEvent { s with datum := { s.datum with oscHold := false } } 0x0053 clsWarning []) else .next s

/-- The PTP reference is lost: PPS_IN is next, then holdover (R362). -/
def execPtpReferenceLost (s : State) : Result :=
  let s := { s with datum := { s.datum with ptpUp := false } }
  .next (if s.datum.src = 0 then nextSource s else s)

/-! ### SyncE (R363) -/

/-- The lane of an output, none when it is off. -/
def synceLane (s : State) (k : Nat) : Option Nat :=
  let l := pget s (pidTimeSynceLane k)
  if l < 32 then some l else none

/-- The clock of an output in Hz as a numerator and a denominator, none while it is held low: the reference rate of its lane, 125 MHz for
1000BASE-X and 156.25 MHz otherwise, divided by `time.synce[k].div` (R363). -/
def synceClock (s : State) (k : Nat) : Option (Nat × Nat) :=
  if sget false s.datum.squelch k then none
  else (synceLane s k).map fun l =>
    (if portTypeOf (lanePort l) = 8 then 125000000 else 156250000, pget s (pidTimeSynceDiv k))

/-- An output is held low; when it was not, SYNCE_SQUELCH is logged (R363). -/
def squelchOut (s : State) (k : Nat) : State :=
  let was := sget false s.datum.squelch k
  let s := { s with datum := { s.datum with
    squelch := sset false s.datum.squelch k true, holdoff := sset none s.datum.holdoff k none } }
  if was then s else logEvent s 0x0054 clsWarning (leBytes 1 k ++ leBytes 1 (pget s (pidTimeSynceLane k)))

/-- The outputs that follow a lane are squelched (R363, R482). -/
def squelchLane (s : State) (lane : Nat) : State :=
  (List.range 2).foldl (fun s k => if synceLane s k = some lane then squelchOut s k else s) s

/-- A SyncE output loses its lane's lock or link (R363). -/
def execSynceSquelch (k : Fin 2) (s : State) : Result := .next (squelchOut s k.val)

/-- The lock of a lane has returned: its squelched outputs start their hold-off (R363). -/
def synceReturn (s : State) (lane : Nat) : State :=
  (List.range 2).foldl (fun s k =>
    if sget false s.datum.squelch k && pget s (pidTimeSynceLane k) = lane then
      { s with datum := { s.datum with
        holdoff := sset none s.datum.holdoff k (some (s.clk + pget s (pidTimeSynceHoldoffMs k) * msCycles)) } }
    else s) s

/-- A squelched output resumes after its hold-off (R363). -/
def execSynceHoldoffExpiry (k : Fin 2) (s : State) : Result :=
  match sget none s.datum.holdoff k.val with
  | none => .next s
  | some u =>
    if u ≤ s.clk && (synceLane s k.val).isSome then
      .next { s with datum := { s.datum with
        squelch := sset false s.datum.squelch k.val false, holdoff := sset none s.datum.holdoff k.val none } }
    else .next s

end Sys2Proof.Machine
end

