-- ==== Sys2Proof/Machine/Tm.lean ====
section
/-! DEFINITION. The traffic manager (R326 to R348, R377): copies and their references, enqueue, shapers, gates, preemption, selection, panic of
the memory's readers, and measurement. -/

namespace Sys2Proof.Machine

/-! ### Queues -/

/-- Key of queue q of port p; the queues of port 33 stand once for each half (R325). -/
def qKey (p q half : Nat) : Nat := if p = 33 && half = 1 then 16 * 36 + q else 16 * p + q

/-- Key of a port's state; port 33 has one for each half. -/
def portKey (p half : Nat) : Nat := if p = 33 && half = 1 then 36 else p

def getQueue (s : State) (key : Nat) : List Copy := sget [] s.tm.queues key

def setQueue (s : State) (key : Nat) (cs : List Copy) : State :=
  { s with tm := { s.tm with queues := sset [] s.tm.queues key cs } }

def getPort (s : State) (key : Nat) : PortState := sget {} s.tm.ports key

def modPort (s : State) (key : Nat) (f : PortState → PortState) : State :=
  { s with tm := { s.tm with ports := smod {} s.tm.ports key f } }


/-- The overhead of a port, signed (R348). -/
def overhead (s : State) (p : Nat) : Int := toSigned 32 (pget s (pidTmPortOverhead p))

/-- The redundancy mode of a port (R343). -/
def redMode (s : State) (p : Nat) : Nat := if p < 32 then pget s (pidEgrPortRedMode p) else 0

/-- The packet has no redundancy marking (R343). -/
def unmarked (p : Packet) : Bool := !p.flag flHsrTag && !p.flag flPrpTrailer

/-- Bytes that a redundancy edit of a port adds to a packet: HSR 6, PRP 6 and the padding to 54 data bytes (R342, R343). -/
def portAdds (s : State) (p : Packet) (port : Nat) : Nat :=
  let m := redMode s port
  if !unmarked p || m = 0 then 0
  else if 3 ≤ m then 6
  else 6 + (54 - (p.get fLength - 4))

/-- Length of a copy on its port. -/
def copyLen (s : State) (p : Packet) (port : Nat) : Nat := p.get fLength + portAdds s p port

/-- Counted length (R327). -/
def countedLen (s : State) (port len : Nat) : Nat := ((len : Int) + overhead s port).toNat

/-- Depth of a queue in counted bytes, all of it or what lies in SRAM or HBM (R327, R340). -/
def queueDepth (cs : List Copy) : Nat := (cs.map (·.counted)).sum
def sramDepth (cs : List Copy) : Nat := queueDepth (cs.filter fun c => c.place = 0 || c.place = 3)
def hbmDepth (cs : List Copy) : Nat := queueDepth (cs.filter fun c => c.place = 1 || c.place = 2)

/-! ### Contracts and protected queues (R36) -/

/-- The contracts of a live edition. -/
def Live.contracts (e : Live) : List Nat := (spresent e.figs).map (·.1)

/-- A live contract leaves through a port and uses a queue. -/
def contractOn (e : Live) (p q : Nat) : Bool :=
  e.contracts.any fun k => bitOf (e.get (pidBoundContractEgressPorts k)) p && e.get (pidBoundContractQueue k) = q

/-- The queue carries a contract of a live edition. -/
def carriesContract (s : State) (p q : Nat) : Bool := p < 32 && (liveEds s).any fun te => contractOn te.2 p q

/-- Strict-priority queue (R328). -/
def isStrict (s : State) (p q : Nat) : Bool := pget s (pidTmQMode p q) = 1

/-- A protected queue of a port under some live edition (R36, R327). -/
def protectedQueue (s : State) (p q : Nat) : Bool :=
  p < 32 && (carriesContract s p q || (isStrict s p q && (List.range q).any fun c => carriesContract s p c))

/-! ### Leaving (R102, R317) -/

/-- A descriptor or copy leaves the device: its edition count falls (R102). -/
def leaveTag (s : State) (half tag : Nat) : State :=
  { s with ed := { s.ed with tagCount := smod 0 s.ed.tagCount (4 * half + tag) (· - 1) } }

/-- A descriptor or copies come to carry a tag. -/
def enterTag (s : State) (half tag n : Nat) : State :=
  { s with ed := { s.ed with tagCount := smod 0 s.ed.tagCount (4 * half + tag) (· + n) } }

/-- One copy fewer holds the packet; the last one of a packet that has been released ends it (R383). -/
def endCopy (s : State) (pkt : Nat) : State :=
  match getPkt s pkt with
  | none => s
  | some p => if p.copies ≤ 1 && p.stage = .released then dropPkt s pkt else setPkt s pkt { p with copies := p.copies - 1 }

/-- The folios that hold a copy's data: none while they lie in HBM, its own once read back, else the packet's (R340, R341). -/
def copyFolios (s : State) (c : Copy) : List Nat :=
  if c.place = 2 then []
  else if c.place = 3 then c.own
  else match getPkt s c.pkt with
    | none => []
    | some p => p.folios

/-- A copy gives up its references (R317). -/
def giveUp (s : State) (c : Copy) : State := dropRefs s (copyFolios s c)

/-- A copy is discarded: references, edition count, packet (R102, R317). -/
def discardCopy (s : State) (c : Copy) : State := endCopy (leaveTag (giveUp s c) c.half c.tag) c.pkt

/-- A copy has been sent, but for the references that its reader has given up (R102). -/
def endSent (s : State) (c : Copy) : State := discardCopy s c

/-- Counts a disposition (R26). -/
def countDisp (s : State) (half d : Nat) : State := pinc s (pidPathHalfDisp half d)

/-! ### Enqueue (R326, R327, R340) -/

/-- The deep region has a size (R374). -/
def deepOn (s : State) : Bool := s.hbm.deep != 0

/-- Copies that wait for the spill writer (R340). -/
def spillWaiting (s : State) : Nat :=
  (s.tm.queues.map fun kq => (kq.2.filter fun c => c.place = 1).length).sum

/-- A standard copy of a deep queue goes to HBM (R340). -/
def spills (s : State) (p q : Nat) (c : Copy) : Bool :=
  let cs := getQueue s (qKey p q c.half)
  p < 32 && c.cls = clsStandard && pget s (pidTmQDeep p q) = 1 && deepOn s
    && pget s (pidTmQSpillAt p q) ≤ sramDepth cs && hbmDepth cs + c.counted ≤ pget s (pidTmQDeepLimit p q)
    && spillWaiting s < 256

/-- The guarantee of a half is in force (R52), and EXTEST has not voided it (R488). -/
def inForce (s : State) (half : Nat) : Bool := boundReason s (hfOf half) = 0 && !s.env.extest

/-- A tail drop (R327, R384). -/
def tailDrop (s : State) (p q : Nat) (c : Copy) : State :=
  let s := pinc s (pidTmQTailDrop p q)
  let s := if p = 35 then pinc s (pidCapRuleDropped c.rule) else s
  let s := if carriesContract s p q && inForce s c.half then report s (0x30 + p) 0x09 clsCritical 0x1060 q c.counted 0 else s
  discardCopy s c

/-- A copy takes its place at the end of a queue: one of the West half goes before those of the East half that were enqueued in the same cycle
(R31). -/
def queueBehind (cs : List Copy) (c : Copy) : List Copy :=
  let east := if c.half = 0 then (cs.reverse.takeWhile fun x => x.half = 1 && x.enq = c.enq).length else 0
  cs.take (cs.length - east) ++ c :: cs.drop (cs.length - east)

/-- Enters a copy into its queue. -/
def pushCopy (s : State) (p q : Nat) (c : Copy) : State :=
  let key := qKey p q c.half
  pinc (setQueue s key (queueBehind (getQueue s key) c)) (pidTmQEnqueued p q)

/-- The enqueue of one copy: protected queues, a link that is down, spilling, the limit (R327, R340, R346). -/
def enqueueCopy (s : State) (p q : Nat) (c : Copy) : State :=
  if !bounded c.cls && protectedQueue s p q then discardCopy (pinc s (pidTmPortProtectedDrop p)) c
  else if p < 32 && !(getPort s p).link && pget s (pidTmPortDownAction p) = 0 then discardCopy (pinc s (pidTmPortDownDrop p)) c
  else if spills s p q c then pushCopy (modPkt s c.pkt fun x => x.put (fFlag flDeep) 1) p q { c with place := 1 }
  else if pget s (pidTmQLimit p q) < queueDepth (getQueue s (qKey p q c.half)) + c.counted then tailDrop s p q c
  else pushCopy s p q c

/-- A copy of a packet for a port. -/
def mkCopy (s : State) (pkt : Nat) (p : Packet) (port : Nat) : Copy :=
  let len := copyLen s p port
  { pkt := pkt, cls := p.get fClass, tag := p.get fTag, half := hIdx p.half, len := len, counted := countedLen s port len, enq := now s,
    reason := p.reason, disp := p.get fDisp, rule := if port = 35 then (Config.plainCaptureRule pkt).toNat else 0 }

/-- The ports of a FORWARD packet's copies: its own, the fanout, the partners (R326). -/
def copyPorts (s : State) (p : Packet) (port q : Nat) : List Nat :=
  let fan := pget s (pidTmQFanout port q)
  let ports := port :: ((List.range 32).filter fun x => x != port && bitOf fan x)
  if unmarked p then
    ports.foldl (fun l x =>
      if redMode s x = 0 then l
      else
        let y := pget s (pidEgrPortRedPartner x)
        if l.contains y then l else l ++ [y]) ports
  else ports

/-- The sequence number of a pair, by the pair's lower port; each packet takes one of each pair (R343). -/
def redPair (s : State) (x : Nat) : Nat := min x (pget s (pidEgrPortRedPartner x))

/-- Advances the counters of the pairs that a packet's copies leave through. -/
def advanceSeqs (s : State) (pairs : List Nat) : State :=
  pairs.foldl (fun s n => pset s (pidEgrRedSeq n) ((pget s (pidEgrRedSeq n) + 1) % 65536)) s

/-- The capture copy that a packet leaves on port 35, when its rule is enabled and it has not been recorded in this pass (R382, R383). -/
def captureRule (s : State) (p : Packet) : Option Nat :=
  match p.capture with
  | none => none
  | some n => if pget s (pidCapRuleEnable n) = 1 && !p.recorded then some n else none

/-- A capture copy. -/
def mkCapture (s : State) (pkt : Nat) (p : Packet) (rule : Nat) : Copy := { mkCopy s pkt p 35 with rule := rule }

/-- Adds the capture copy of a packet that keeps its references: references, edition count, enqueue on port 35 (R102, R383). With a
capture region of size 0 it is only counted (R374). -/
def addCapture (s : State) (pkt : Nat) (rule : Nat) : State :=
  match getPkt s pkt with
  | none => s
  | some p =>
    if s.hbm.capture = 0 then pinc s (pidCapRuleDropped rule)
    else
      let s := addRefs s p.folios 1
      let p := { p with recorded := true, copies := p.copies + 1 }
      let s := enterTag (setPkt s pkt p) (hIdx p.half) (p.get fTag) 1
      enqueueCopy s 35 (pget s (pidCapRuleQueue rule)) (mkCapture s pkt p rule)

/-- A copy exceeds the max_frame of its port (R326). -/
def tooLong (s : State) (p : Packet) (x : Nat) : Bool := x < 32 && pget s (pidMacPortMaxFrame x) < copyLen s p x

/-- Enqueues a FORWARD packet, or an exception packet on port 32 (`plain`), with its copies, on queue q (R326, R327, R383). -/
def enqueuePacket (s : State) (pkt port q : Nat) (plain : Bool) : State :=
  match getPkt s pkt with
  | none => s
  | some p =>
    let all := if plain then [port] else copyPorts s p port q
    let long := all.filter fun x => x != port && tooLong s p x
    let s := long.foldl (fun s x => pinc s (pidTmPortTooLong x)) s
    let ports := all.filter fun x => !(x != port && tooLong s p x)
    let n := ports.length
    let rule := if plain then none else captureRule s p
    let p := { p with copies := p.copies + n, stage := .released }
    let p := if 1 < n then p.put (fFlag flShared) 1 else p
    let s := enterTag (addRefs (setPkt s pkt p) p.folios (n - 1)) (hIdx p.half) (p.get fTag) (n - 1)
    let s := match rule with
      | none => s
      | some r => addCapture s pkt r
    let cs := ports.map fun x => (x, { mkCopy s pkt p x with
      seq := if redMode s x != 0 && unmarked p then pget s (pidEgrRedSeq (redPair s x)) else 0 })
    let pairs := (ports.filter fun x => redMode s x != 0 && unmarked p).map (redPair s)
    let s := advanceSeqs s pairs.eraseDups
    cs.foldl (fun s xc => enqueueCopy s xc.1 q xc.2) s

/-! ### Shapers (R332 to R334) -/

def shaperKey (p q : Nat) : Nat := 17 * p + q

def getShaper (s : State) (key : Nat) : Shaper := sget {} s.tm.shapers key

/-- PKT cycles since the root PLL locked: three in the time of four CORE cycles less one, 0.6 ns to 0.8 ns (R11). -/
def pktCycle (s : State) : Nat := s.clk * 4 / 3

/-- A shaper brought to the present PKT cycle (R332). -/
def refill (x : Shaper) (pk : Nat) : Shaper :=
  let n := pk - x.last
  let num : Int := x.credit * 10 ^ 7 + (x.remainder + n * x.rate * 3 * 2 ^ 22 : Nat)
  let cap : Int := x.burst * 2 ^ 24
  { x with credit := min cap (num / 10 ^ 7), remainder := (x.remainder + n * x.rate * 3 * 2 ^ 22) % 10 ^ 7, last := pk }

/-- A shaper allows a start (R329, R332). -/
def shaperOk (s : State) (key : Nat) : Bool :=
  let x := getShaper s key
  !x.enable || 0 ≤ (refill x (pktCycle s)).credit

/-- The charge of a frame's start (R332). -/
def chargeShaper (s : State) (key counted : Nat) : State :=
  let x := getShaper s key
  if x.enable then
    let x := refill x (pktCycle s)
    { s with tm := { s.tm with shapers := sset {} s.tm.shapers key { x with credit := x.credit - counted * 2 ^ 24 } } }
  else s

/-- A new record at its cycle (R334). -/
def setShaper (s : State) (key rate burst : Nat) (enable clear : Bool) : State :=
  let old := getShaper s key
  let x := refill old (pktCycle s)
  let cap : Int := burst * 2 ^ 24
  let credit : Int :=
    if !enable then 0
    else if !old.enable then cap
    else if x.credit < 0 && clear then 0
    else if cap < x.credit then cap
    else x.credit
  let new : Shaper := { enable := enable, rate := rate, burst := burst, credit := credit, remainder := 0, last := pktCycle s }
  { s with tm := { s.tm with shapers := sset {} s.tm.shapers key (if enable then new else { new with last := 0 }) } }

/-- The 12 bytes of a shaper that PARAM_GET gives (R333). -/
def shaperBytes (s : State) (key : Nat) : List Byte :=
  let x := getShaper s key
  let credit := if x.enable then (refill x (pktCycle s)).credit / 2 ^ 24 else 0
  leBytes 4 x.rate ++ leBytes 4 x.burst ++ leBytes 1 (b2n x.enable) ++ leBytes 7 0 ++ leBytes 4 (ofSigned 32 credit)

/-! ### Gates (R336 to R338) -/

/-- A gate control list from its record: base as an 80-bit time (10 bytes), cycle (4), entry count (2), and the entries of R336, whose
low word is the interval. -/
def gclOfRecord (r : Nat) : GateList :=
  let n := bitsOf r 112 16
  { base := bitsOf r 0 48 * 10 ^ 9 + bitsOf r 48 32
    cycle := bitsOf r 80 32
    ents := (List.range n).map fun i => { ns := bitsOf r (128 + 64 * i) 32, val := bitsOf r (160 + 64 * i) 32 } }

/-- The list number that a port follows now (R337). -/
def portGcl (s : State) (p : Nat) : Nat :=
  let x := getPort s p
  match x.gclNext with
  | none => x.gcl
  | some n => if x.gclAt ≤ now s then n else x.gcl

/-- The list that a port follows, none when every gate is open (R336). -/
def portList (s : State) (p : Nat) : Option GateList :=
  let n := portGcl s p
  if 32 ≤ p || 64 ≤ n then none
  else
    let g := gclOfRecord (pget s (pidTmGcl n))
    if g.ents.isEmpty || g.cycle = 0 then none else some g

/-- Position in the cycle in 2^-32 ns (R337). -/
def gclPos (g : GateList) (u : Nat) : Nat := (((u : Int) - g.base * 2 ^ 32) % ((g.cycle * 2 ^ 32 : Nat) : Int)).toNat

/-- The gate of queue q is open in an entry. -/
def gateBit (e : GateEnt) (q : Nat) : Bool := bitOf e.val q

/-- OP of an entry (R336). -/
def gateOp (e : GateEnt) : Nat := bitsOf e.val 16 2

/-- The entries from the position on, what is left of the present one first, followed by the whole list once. -/
def gateAhead (g : GateList) (pos : Nat) : List (GateEnt × Nat) :=
  go g.ents pos ++ g.ents.map fun e => (e, e.ns * 2 ^ 32)
where
  /-- Skips the entries that have passed. -/
  go (es : List GateEnt) (pos : Nat) : List (GateEnt × Nat) :=
    match es with
    | [] => []
    | e :: rest =>
      if pos < e.ns * 2 ^ 32 then (e, e.ns * 2 ^ 32 - pos) :: rest.map fun e => (e, e.ns * 2 ^ 32)
      else go rest (pos - e.ns * 2 ^ 32)

/-- How long the gate of a queue stays open, in 2^-32 ns, looking no further than one cycle after the present one. -/
def openFor (ahead : List (GateEnt × Nat)) (q : Nat) : Nat :=
  match ahead with
  | [] => 0
  | (e, n) :: rest => if gateBit e q then n + openFor rest q else 0

/-- The gate lets a frame of counted length L start (R337): it stays open over L × 8 ÷ C. A gate that no entry of the list closes is always
open. -/
def gateAllows (s : State) (p q counted : Nat) : Bool :=
  match portList s p with
  | none => true
  | some g =>
    g.ents.all (gateBit · q) || counted * 8000 * 2 ^ 32 ≤ openFor (gateAhead g (gclPos g (now s))) q * portRate p

/-- The entry of a port's list in force (R337). -/
def gateNow (s : State) (p : Nat) : Option (Nat × GateEnt) :=
  match portList s p with
  | none => none
  | some g => find g.ents (gclPos g (now s)) 0
where
  /-- The entry at a position. -/
  find (es : List GateEnt) (pos i : Nat) : Option (Nat × GateEnt) :=
    match es with
    | [] => none
    | e :: rest => if pos < e.ns * 2 ^ 32 then some (i, e) else find rest (pos - e.ns * 2 ^ 32) (i + 1)

/-! ### Frame preemption (R338, R339) -/

def preemptOn (s : State) (p : Nat) : Bool := 16 ≤ p && p < 32 && pget s (pidMacPortPreempt p) = 1

/-- Preemption is active (R339). -/
def preemptActive (s : State) (p : Nat) : Bool :=
  preemptOn s p && (pget s (pidMacPortPreemptVerify p) = 0 || (getPort s p).verify = 1)

def isExpress (s : State) (p q : Nat) : Bool := pget s (pidTmQExpress p q) = 1

/-- Preemption lets a queue start (R329, R339). -/
def preemptAllows (s : State) (p q : Nat) : Bool :=
  !preemptOn s p || isExpress s p q || (preemptActive s p && !(getPort s p).hold)

/-! ### Room on internal ports (R331, R384, R417) -/

/-- A host receive ring has room for a frame (R417). -/
def rxRoom (s : State) (q len : Nat) : Bool :=
  let r := sget {} s.host.rxRings q
  let n := pget s (pidHostRxringEntries q)
  let free := (r.posted + n - r.filled % n) % n
  pget s (pidHostRxringEnable q) = 1 && !r.stopped && ceilDiv len (pget s (pidHostRxringBufLen q)) ≤ free

/-- Bytes of a capture record (R385). -/
def recordLen (s : State) (rule len : Nat) : Nat :=
  let t := pget s (pidCapRuleTrunc rule)
  let cap := if t != 0 && t < len then t else len
  32 + 32 * ceilDiv cap 32

/-- Bytes in the capture writer's staging buffer (R377, R384). -/
def stagedBytes (s : State) : Nat := (s.hbm.staged.map fun c => recordLen s c.rule c.len).sum

/-- The port can take a copy: link, fatal state, activation pause, receive rings, the capture staging buffer of 1 MiB (R331, R377, R384,
R437, R464). -/
def portTakes (s : State) (p q : Nat) (c : Copy) : Bool :=
  if p < 32 then (getPort s p).link && !s.flt.fatal
  else if p = 32 then rxRoom s q (c.len - 4)
  else if p = 35 then stagedBytes s + recordLen s c.rule c.len ≤ 1048576
  else true

/-! ### Panic of the capture writer and the deep reader (R377) -/

/-- Bytes of a deep queue that have been read back (R341). -/
def prefetched (cs : List Copy) : Nat := ((cs.filter fun c => c.place = 3).map (·.len)).sum

/-- A deep queue has spilled copies and fewer than `n` bytes read back, and its port could start a frame (R377). -/
def deepLow (s : State) (n key : Nat) (cs : List Copy) : Bool :=
  let p := key / 16
  p < 32 && cs.any (fun c => c.place = 2) && prefetched cs < n && pget s (pidTmQDeep p (key % 16)) = 1
    && (getPort s p).link && (getPort s p).tx.isNone

/-- Some deep queue is low. -/
def anyDeepLow (s : State) (n : Nat) : Bool := s.tm.queues.any fun kq => deepLow s n kq.1 kq.2

/-- The capture writer is in panic: above 75 % of its 1 MiB, and on until 25 % (R377). -/
def capPanicNow (s : State) : Bool := (if s.hbm.capPanic then 262144 else 786432) < stagedBytes s

/-- The deep reader is in panic: a queue below 25 % of the prefetch, and on until every one has 50 % (R377). -/
def deepPanicNow (s : State) : Bool := anyDeepLow s (pget s pidTmDeepPrefetch / (if s.hbm.deepPanic then 2 else 4))

/-- Either port is in panic: refreshes are postponed (R377). -/
def panics (s : State) : Bool := s.hbm.capPanic || s.hbm.deepPanic

/-- Panic begins and ends; the refreshes that were postponed are made up as soon as it ends (R377). -/
def settlePanic (s : State) : State :=
  let c := capPanicNow s
  let d := deepPanicNow s
  { s with hbm := { s.hbm with capPanic := c, deepPanic := d, postponed := if c || d then s.hbm.postponed else [] } }

/-! ### Selection (R329 to R331) -/

/-- Queue q of a port is eligible (R329): `expressOnly` while a preemptable frame is being sent. -/
def eligible (s : State) (p half : Nat) (expressOnly : Bool) (q : Nat) : Bool :=
  match getQueue s (qKey p q half) with
  | [] => false
  | c :: _ =>
    (c.place = 0 || c.place = 3) && shaperOk s (shaperKey p q) && gateAllows s p q c.counted && preemptAllows s p q
      && (!expressOnly || isExpress s p q) && portTakes s p q c

/-- The DWRR queues of a port. -/
def dwrrQueues (s : State) (p : Nat) : List Nat := (List.range 16).filter fun q => !isStrict s p q

/-- The next DWRR queue after ptr, in ascending number, wrapping (R330). -/
def nextDwrr (s : State) (p ptr : Nat) : Nat :=
  match (dwrrQueues s p).find? fun q => ptr < q with
  | some q => q
  | none => (dwrrQueues s p).headD ptr

/-- Moves the pointer and sets the fresh mark. -/
def advancePtr (s : State) (p : Nat) (x : PortState) : PortState :=
  let n := nextDwrr s p x.ptr
  { x with ptr := n, fresh := x.fresh ||| BitVec.ofNat 16 (2 ^ n) }

/-- One round of the DWRR loop (R330): the port's state, and the queue when one is selected. -/
def dwrrRound (s : State) (p half : Nat) (expressOnly : Bool) (x : PortState) : PortState × Option Nat :=
  let q := x.ptr
  match getQueue s (qKey p q half) with
  | [] => (advancePtr s p { x with deficit := sset 0 x.deficit q 0 }, none)
  | c :: _ =>
    if isStrict s p q || !eligible s p half expressOnly q then (advancePtr s p x, none)
    else
      let x := if x.fresh.getLsbD q then
          { x with deficit := smod 0 x.deficit q (· + pget s (pidTmQQuantum p q)), fresh := x.fresh &&& ~~~ BitVec.ofNat 16 (2 ^ q) }
        else x
      if c.counted ≤ sget 0 x.deficit q then ({ x with deficit := smod 0 x.deficit q (· - c.counted) }, some q)
      else (advancePtr s p x, none)

/-- Up to 16 rounds (R330). -/
def dwrrLoop (s : State) (p half : Nat) (expressOnly : Bool) (x : PortState) (fuel : Nat) : PortState × Option Nat :=
  match fuel with
  | 0 => (x, none)
  | fuel + 1 =>
    match dwrrRound s p half expressOnly x with
    | (x, some q) => (x, some q)
    | (x, none) => dwrrLoop s p half expressOnly x fuel

/-- The queue that a port selects (R330). -/
def selectQueue (s : State) (p half : Nat) (expressOnly : Bool) : PortState × Option Nat :=
  let x := getPort s (portKey p half)
  let strict := (List.range 16).filter fun q => isStrict s p q && eligible s p half expressOnly q
  match strict.getLast? with
  | some q => (x, some q)
  | none => dwrrLoop s p half expressOnly x 16

/-- A selected copy is over its residency limit (R21, R331). -/
def copyOver (s : State) (c : Copy) : Bool :=
  !bounded c.cls && (getPkt s c.pkt).any fun p => overResidency s p

/-- A frame that may be interrupted is being sent on the port, and none has been interrupted yet (R338). -/
def interruptible (s : State) (p : Nat) (x : PortState) : Bool :=
  match x.tx, x.held with
  | some t, none => preemptActive s p && t.out.isSome && !isExpress s p t.queue
  | _, _ => false

/-- Takes the head copy of a queue and starts it on the port, or on port 35 puts it into the capture writer's staging buffer: shapers are
charged; or discards it when it is over its residency limit, with no charge to a shaper, its deficit given back (R331, R332, R384). -/
def startCopy (s : State) (p half q : Nat) (x : PortState) (old : PortState) : State :=
  let key := qKey p q half
  match getQueue s key with
  | [] => s
  | c :: rest =>
    let s := setQueue s key rest
    if copyOver s c then
      let s := modPkt s c.pkt fun k => k.put fDisp dResidency
      let back := if isStrict s p q then x else { x with deficit := smod 0 x.deficit q (· + c.counted) }
      discardCopy (countDisp (modPort s (portKey p half) fun _ => back) c.half dResidency) c
    else
      let s := chargeShaper (chargeShaper s (shaperKey p q) c.counted) (shaperKey p 16) c.counted
      let s := pinc s (pidTmQDequeued p q)
      if p = 35 then
        settlePanic { modPort s 35 fun _ => x with hbm := { s.hbm with staged := s.hbm.staged ++ [c] } }
      else
      let s := if old.tx.isSome then pinc s (pidFragTx p) else s
      modPort s (portKey p half) fun _ => { x with tx := some { copy := c, queue := q, egress := now s }, held := if old.tx.isSome then old.tx else x.held }

/-- A held preemptable frame goes on when its port is free and no hold is in force (R338). -/
def resumeHeld (s : State) (port : Nat) : State :=
  modPort s port fun x => if x.hold || x.tx.isSome then x else { x with tx := x.held, held := none }

/-- A port that is free to start a frame selects the next copy; h names the half for port 33 (R330, R331). While a frame is interrupted only an
express one may start, and without one it goes on (R338). -/
def execDequeueSelect (pf : Fin 36) (h : Hf) (s : State) : Result :=
  let p := pf.val
  let half := hIdx h
  let x := getPort s (portKey p half)
  let preempting := interruptible s p x
  if (x.tx.isSome && !preempting) || !shaperOk s (shaperKey p 16) then .next s
  else
    let side := if p = 33 then half else 0
    match selectQueue s p side (preempting || x.held.isSome) with
    | (y, none) => .next (resumeHeld (modPort s (portKey p half) fun _ => y) (portKey p half))
    | (y, some q) => .next (startCopy s p side q y x)

/-! ### Measurement (R347) -/

/-- The histogram bin of a sojourn in ns (R347). -/
def histBin (s : State) (ns : Nat) : Nat := ((List.range 15).find? fun b => ns < pget s (pidTmHistEdge b)).getD 15

/-- Keeps the smallest value of a minimum figure, whose reset value is all ones (R347). -/
def keepMin (s : State) (id v : Nat) : State := if v < pget s id then pset s id v else s

/-- One sample of one queue (R347). -/
def sampleQueue (s : State) (p q : Nat) : State :=
  let cs := getQueue s (qKey p q 0) ++ (if p = 33 then getQueue s (qKey p q 1) else [])
  let d := min (queueDepth cs) (2 ^ 32 - 1)
  let s := pset s (pidTmQDepthLast p q) d
  let s := keepMin s (pidTmQDepthMin p q) d
  let s := pmax s (pidTmQDepthMax p q) d
  match cs with
  | [] => s
  | c :: _ =>
    let ns := min ((now s - c.enq) / 2 ^ 32) (2 ^ 32 - 1)
    let s := pset s (pidTmQSojournLast p q) ns
    let s := keepMin s (pidTmQSojournMin p q) ns
    let s := pmax s (pidTmQSojournMax p q) ns
    pinc s (pidTmQHist p q (histBin s ns))

/-- At each whole microsecond of Datum time every queue of ports 0-35 is sampled, once (R347). -/
def execQueueSample (s : State) : Result :=
  let us := now s / (1000 * 2 ^ 32)
  if us = s.tm.samples then .next s
  else
    let s := { s with tm := { s.tm with samples := us } }
    .next ((List.range 36).foldl (fun s p => (List.range 16).foldl (fun s q => sampleQueue s p q) s) s)

/-! ### Gate lists and preemption events -/

/-- A hold stops a preemptable frame that its port has selected: one that is being sent is interrupted, one that the editor still prepares does
not start (R338). -/
def holdFrame (s : State) (p : Nat) : State :=
  let x := getPort s p
  match x.tx, x.held with
  | some t, none =>
    if preemptActive s p && !isExpress s p t.queue then
      modPort (if t.out.isSome then pinc s (pidFragTx p) else s) p fun x => { x with held := x.tx, tx := none }
    else s
  | _, _ => s

/-- A port's list moves to the entry now in force: the list switch, the index, and hold or release (R337, R338). A hold interrupts a
preemptable frame that is being sent, and a release lets it go on. -/
def execGateEntryChange (pf : Fin 32) (s : State) : Result :=
  let p := pf.val
  let n := portGcl s p
  let s := modPort s p fun x => { x with gcl := n, gclNext := if n = x.gcl then x.gclNext else none }
  match gateNow s p with
  | none => .next (resumeHeld (modPort s p fun x => { x with gateIdx := 0, hold := false }) p)
  | some (i, e) =>
    let x := getPort s p
    let hold := if !preemptOn s p then false else if gateOp e = 1 then true else if gateOp e = 2 then false else x.hold
    let rising := hold && !x.hold
    let s := if rising then pinc s (pidHoldCount p) else s
    let s := modPort s p fun x => { x with gateIdx := i, hold := hold }
    .next (if hold then holdFrame s p else resumeHeld s p)

/-- Verification of a field port ends (R339). -/
def execPreemptVerifyResult (pf : Fin 32) (ok : Bool) (s : State) : Result :=
  let p := pf.val
  if !preemptOn s p || pget s (pidMacPortPreemptVerify p) = 0 then .next s
  else if ok then .next (modPort s p fun x => { x with verify := 1 })
  else
    let s := modPort s p fun x => { x with verify := 2 }
    .next (report (pinc s (pidVerifyFail p)) (0x30 + p) 0x19 clsWarning (0x1030 + p) 0 0 0)

end Sys2Proof.Machine
end

