-- ==== Sys2Proof/Machine/Parser.lean ====
section
/-! DEFINITION. The parser (R58 to R71): windows, the decode of the protocols of R62, field offsets, path code and parse status. -/

namespace Sys2Proof.Machine

/-- What the parser has found so far. -/
structure Parse where
  head : List Byte := []
  tail : List Byte := []
  /-- Number of data bytes, the frame's length less its FCS (R59). -/
  data : Nat := 0
  extra : Nat := 0
  /-- Field-offset entries (R68). -/
  fo : Sparse Nat := []
  offType : Nat := 0xFF
  offMpls : Nat := 0xFF
  offL3 : Nat := 0xFF
  offL4 : Nat := 0xFF
  offApp : Nat := 0xFF
  offHsr : Nat := 0xFF
  offPrp : Nat := 0xFF
  tags : Nat := 0
  hsr : Bool := false
  prp : Bool := false
  net : Nat := 0
  trans : Nat := 0
  app : Nat := 0
  status : Nat := 0
  ptpEvent : Bool := false
  csumOk : Bool := false
  frag4 : Bool := false
  frag6 : Bool := false
  ptpUdp : Bool := false
  mismatch : Bool := false
  /-- First byte after the last header fully decoded (R65). -/
  pos : Nat := 0
  deriving DecidableEq, Repr

/-- STATUS codes (R66). -/
def psWindow : Nat := 1
def psTagDepth : Nat := 2
def psMplsDepth : Nat := 3
def psIpHeader : Nat := 4
def psTruncated : Nat := 5
def psAppHeader : Nat := 6
def psUnsupported : Nat := 7

/-- A byte of the head window, as a number. -/
def Parse.b (x : Parse) (i : Nat) : Nat := (byteAt x.head i).toNat

/-- Two bytes in network order. -/
def Parse.w (x : Parse) (i : Nat) : Nat := x.b i * 256 + x.b (i + 1)

/-- An exception ends the decoding (R64). -/
def Parse.fail (x : Parse) (st : Nat) : Parse := { x with status := st }

/-- Reads `n` header bytes from offset `o`: the first byte that cannot be read gives TRUNCATED beyond the last data byte, else WINDOW
(R64). -/
def Parse.need (x : Parse) (o n : Nat) (go : Parse → Parse) : Parse :=
  let bad := max o (min x.data 256)
  if o + n ≤ bad then go x else if x.data ≤ bad then x.fail psTruncated else x.fail psWindow

/-- A field-offset entry (R68); a field without bytes, or one that starts beyond the window, has none. -/
def foEntry (off len : Nat) (tail : Bool) : Nat :=
  if len = 0 || 255 < off then 0 else 0x8000 + b2n tail * 0x4000 + min len 63 * 256 + off

/-- Describes a field of the head window. -/
def Parse.field (x : Parse) (i off len : Nat) : Parse := { x with fo := sset 0 x.fo i (foEntry off len false) }

/-- The header up to `n` is fully decoded. -/
def Parse.upTo (x : Parse) (n : Nat) : Parse := { x with pos := n }

/-! ### Applications -/

/-- The message types with a timestamp field (R69). -/
def ptpStamped (mt : Nat) : Bool := mt ≤ 3 || (8 ≤ mt && mt ≤ 11)

/-- PTP at an offset (R62, R67). -/
def parsePtp (x : Parse) (o : Nat) : Parse :=
  x.need o 2 fun x =>
    if x.b (o + 1) % 16 != 2 then x
    else x.need o 4 fun x =>
      let len := x.w (o + 2)
      let mt := x.b o % 16
      if len < 34 || x.data < o + len then x.fail psAppHeader
      else x.need o 34 fun x =>
        let x := { x with app := if mt ≤ 3 then 1 else 2, ptpEvent := mt ≤ 3, offApp := o }
        let x := ((x.field 20 o 34).field 21 (o + 8) 8).upTo (o + 34)
        if ptpStamped mt && 44 ≤ len then x.field 22 (o + 34) 10 else x

/-- GOOSE or SV at an offset (R62). -/
def parseGoose (x : Parse) (o app : Nat) : Parse :=
  x.need o 4 fun x =>
    let len := x.w (o + 2)
    let stop := if x.prp then x.data - 6 else x.data
    if len < 8 || stop < o + len then x.fail psAppHeader
    else x.need o 8 fun x => (({ x with app := app, offApp := o }.field 23 o 8).field 24 (o + 8) (len - 8)).upTo (o + 8)

/-- Routable GOOSE and SV at an offset, in a datagram that ends at `stop` (R62). -/
def parseSession (x : Parse) (o stop : Nat) : Parse :=
  if x.data < o + 2 then x.fail psAppHeader
  else x.need o 2 fun x =>
    let len := 2 + x.b (o + 1)
    if x.data < o + len then x.fail psAppHeader
    else
      let app := if x.b o = 0xA1 then 5 else 6
      x.need o len fun x =>
        (({ x with app := app, offApp := o }.field 25 o len).field 26 (o + len) (stop - (o + len))).upTo (o + len)

/-- Ulhiros service frames (R62). -/
def parseService (x : Parse) (o : Nat) : Parse :=
  x.need o 1 fun x =>
    ({ x with net := 6, app := if x.b o = 2 then 8 else 7 }.field 27 o 1).upTo (o + 1)

/-! ### Transport -/

/-- UDP (R62). PTP_UDP follows from the port alone, whatever the PTP header then holds (DEDUCED from R71, log entry 79). -/
def parseUdp (x : Parse) (o : Nat) : Parse :=
  x.need o 8 fun x =>
    let x := (((({ x with trans := 1, offL4 := o }.field 17 o 8).field 18 o 2).field 19 (o + 2) 2)).upTo (o + 8)
    let dst := x.w (o + 2)
    if dst = 319 || dst = 320 then parsePtp { x with ptpUdp := true } (o + 8)
    else if dst = 102 && o + 8 < x.data then
      x.need (o + 8) 1 fun x =>
        if x.b (o + 8) = 0xA1 || x.b (o + 8) = 0xA2 then parseSession x (o + 8) (o + x.w (o + 4)) else x
    else x

/-- TCP (R62, R64): the data offset is judged before the bytes behind it are. -/
def parseTcp (x : Parse) (o : Nat) : Parse :=
  x.need o 13 fun x =>
    let len := x.b (o + 12) / 16 * 4
    if len < 20 then x.fail psIpHeader
    else x.need o len fun x =>
      ((({ x with trans := 2, offL4 := o }.field 17 o len).field 18 o 2).field 19 (o + 2) 2).upTo (o + len)

/-- What follows an IP header (R62). -/
def parseL4 (x : Parse) (o proto : Nat) : Parse :=
  if proto = 17 then parseUdp x o else if proto = 6 then parseTcp x o else { x with trans := 3 }

/-! ### Network -/

/-- IPv4 (R62); `net` is its NETWORK code (R66). -/
def parseV4 (x : Parse) (net o : Nat) : Parse :=
  x.need o 1 fun x =>
    let len := x.b o % 16 * 4
    if x.b o / 16 != 4 || len < 20 then x.fail psIpHeader
    else x.need o 4 fun x =>
      let total := x.w (o + 2)
      if total < len then x.fail psIpHeader
      else if x.data < o + total then x.fail psTruncated
      else x.need o len fun x =>
        let x := ((((x.field 10 o len).field 11 (o + 12) 4).field 12 (o + 16) 4).field 30 (o + 20) (len - 20)).upTo (o + len)
        let fr := x.w (o + 6)
        let x := { x with net := net, offL3 := o, csumOk := ocSum16 (bytesAt x.head o len) = 65535, frag4 := fr % 2 ^ 14 != 0 }
        if fr % 2 ^ 13 != 0 then x else parseL4 x (o + len) (x.b (o + 9))

/-- Length of an IPv6 extension header (R62, RFC 8200, RFC 4302). -/
def extLen (x : Parse) (o nh : Nat) : Nat :=
  if nh = 44 then 8 else if nh = 51 then (x.b (o + 1) + 2) * 4 else (x.b (o + 1) + 1) * 8

/-- The extension headers that the parser reads (R62). -/
def isExt (nh : Nat) : Bool := nh = 0 || nh = 43 || nh = 44 || nh = 51 || nh = 60

/-- The chain of extension headers from number `n` on; `left` more may follow (R62). Headers behind the fragment header of a later fragment are
read and counted like any other (DEDUCED, log entry 79). -/
def parseExts (x : Parse) (o nh n : Nat) (later : Bool) (left : Nat) : Parse :=
  if !isExt nh then
    if nh = 59 || later then x else if nh = 50 then { x with trans := 3 } else parseL4 x o nh
  else
    match left with
    | 0 => x.fail psIpHeader
    | left + 1 =>
      x.need o 2 fun x =>
        let len := extLen x o nh
        x.need o len fun x =>
          let y := (x.field (13 + n) o len).upTo (o + len)
          let frag := nh = 44
          parseExts { y with frag6 := y.frag6 || frag } (o + len) (x.b o) (n + 1) (later || (frag && x.w (o + 2) / 8 != 0)) left

/-- IPv6 (R62); `net` is its NETWORK code (R66). -/
def parseV6 (x : Parse) (net o : Nat) : Parse :=
  x.need o 40 fun x =>
    let x := (((x.field 10 o 40).field 11 (o + 8) 16).field 12 (o + 24) 16).upTo (o + 40)
    parseExts { x with net := net, offL3 := o } (o + 40) (x.b (o + 6)) 0 false 4

/-- What follows the label stack (R62). -/
def parseMplsPayload (x : Parse) (o : Nat) : Parse :=
  x.need o 1 fun x =>
    let x := x.field 9 o 1
    if x.b o / 16 = 4 then parseV4 x 3 o
    else if x.b o / 16 = 6 then parseV6 x 4 o
    else x

/-- The label stack from a label on; `left` labels may still be read (R62). Each label that has been read counts as a decoded header, also when
MPLS_DEPTH follows (DEDUCED from R65 and R69, log entry 79). -/
def parseMpls (x : Parse) (o left : Nat) : Parse :=
  match left with
  | 0 => x.fail psMplsDepth
  | left + 1 =>
    x.need o 4 fun x =>
      let x := x.upTo (o + 4)
      let x := if x.offMpls = 0xFF then { x.field 7 o 4 with net := 5, offMpls := o } else x
      if x.b (o + 2) % 2 = 1 then parseMplsPayload (x.field 8 o 4) (o + 4) else parseMpls x (o + 4) left

/-! ### Ethernet -/

/-- The PRP trailer (R63), judged once the tags are known. -/
def parsePrp (x : Parse) : Parse :=
  let t i := (byteAt x.tail i).toNat
  if x.data < 6 || t 30 * 256 + t 31 != 0x88FB then x
  else
    let lan := t 28 / 16
    let size := t 28 % 16 * 256 + t 29
    if (lan = 0xA || lan = 0xB) && size + 12 + 4 * x.tags = x.data then
      { x with prp := true, offPrp := 26, fo := sset 0 x.fo 28 (foEntry 26 6 true) }
    else { x with mismatch := true }

/-- What the final ethertype at an offset leads to (R62). -/
def parseType (x : Parse) (o : Nat) : Parse :=
  let t := x.w o
  let x := parsePrp ({ x.field 6 o 2 with offType := o }.upTo (o + 2))
  let p := o + 2
  if t = 0x8847 || t = 0x8848 then parseMpls x p 6
  else if t = 0x0800 then parseV4 x 1 p
  else if t = 0x86DD then parseV6 x 2 p
  else if t = 0x88F7 then parsePtp x p
  else if t = 0x88B8 then parseGoose x p 3
  else if t = 0x88BA then parseGoose x p 4
  else if t = 0x88B5 then parseService x p
  else if t = 0x88E5 then x.fail psUnsupported
  else x

/-- An ethertype of a VLAN tag (R62). -/
def isTpid (x : Parse) (t : Nat) : Bool := t = 0x8100 || t = 0x88A8 || (x.extra != 0 && t = x.extra)

/-- The tags at an offset; at most three VLAN tags and one HSR tag follow (R62). -/
def parseTags (x : Parse) (o fuel : Nat) : Parse :=
  x.need o 2 fun x =>
    let t := x.w o
    match fuel with
    | 0 => parseType x o
    | fuel + 1 =>
      if isTpid x t then
        if x.tags = 3 then x.fail psTagDepth
        else x.need o 4 fun x =>
          parseTags ({ x.field (2 + x.tags) o 4 with tags := x.tags + 1 }.upTo (o + 4)) (o + 4) fuel
      else if t = 0x892F && !x.hsr then
        x.need o 6 fun x => parseTags ({ x.field 5 o 6 with hsr := true, offHsr := o }.upTo (o + 6)) (o + 6) fuel
      else parseType x o

/-- The decode of a frame from its windows (R62). -/
def parseFrame (head tail : List Byte) (length extra : Nat) : Parse :=
  let x : Parse := { head := head, tail := tail, data := length - 4, extra := extra }
  x.need 0 14 fun x => parseTags (((x.field 0 0 6).field 1 6 6).upTo 12) 12 5

/-! ### What it leaves in the packet -/

/-- The path code (R66). -/
def Parse.path (x : Parse) : Nat :=
  (b2n x.hsr + 2 * b2n x.prp) * 2 ^ 14 + x.tags * 2 ^ 12 + x.net * 2 ^ 9 + x.trans * 2 ^ 7 + x.app * 2 ^ 3 + x.status

/-- The parse status (R71). -/
def Parse.statusByte (x : Parse) : Nat :=
  b2n x.csumOk * 128 + b2n x.frag4 * 64 + b2n x.frag6 * 32 + b2n x.ptpUdp * 16 + b2n x.mismatch * 8 + x.status

/-- off_payload (R22, R65). -/
def Parse.offPayload (x : Parse) : Nat := if x.pos < 256 then x.pos else 0xFF

/-- fo[0] to fo[31], fo[29] included (R69). -/
def Parse.entry (x : Parse) (i : Nat) : Nat :=
  if i = 29 then foEntry x.pos (min 256 x.data - x.pos) false else sget 0 x.fo i

/-- The descriptor as the parser leaves it (R22, R23). -/
def Parse.fill (x : Parse) (d : BitVec 512) : BitVec 512 :=
  [(fOffType, x.offType), (fOffMpls, x.offMpls), (fOffL3, x.offL3), (fOffL4, x.offL4), (fOffApp, x.offApp), (fOffHsr, x.offHsr),
   (fOffPayload, x.offPayload), (fOffPrp, x.offPrp), (fTailValid, min 32 x.data), (fPathCode, x.path),
   (fFlag flPrpTrailer, b2n x.prp), (fFlag flHsrTag, b2n x.hsr), (fFlag flPtpEvent, b2n x.ptpEvent)].foldl
    (fun d fv => dput d fv.1.1 fv.1.2 fv.2) d

/-- Little-endian bytes of the entries. -/
def Parse.foBytes (x : Parse) : List Byte := (List.range 32).flatMap fun i => leBytes 2 (x.entry i)

/-- The head window of a frame (R58). -/
def headOf (frame : List Byte) : List Byte := fitBytes (frame.take 256) 256

/-- The tail window of a frame, right-aligned (R58). -/
def tailOf (frame : List Byte) : List Byte :=
  let data := frame.take (frame.length - 4)
  let t := data.drop (data.length - 32)
  List.replicate (32 - t.length) 0 ++ t

/-- A window as the state holds it. -/
def windowMap (bs : List Byte) : Sparse Byte := ssetRange 0 [] 0 bs

/-- The tail window of a packet's present length, from the buffer (R58, R60). -/
def refillTail (s : State) (p : Packet) : Sparse Byte := windowMap (tailOf ((chainBytes s p.folios).take (p.get fLength)))

/-- Metadata offsets (R70), from thread address 0x0160. -/
def mdRule : Nat := 0x40
def mdContract : Nat := 0x42
def mdPolicer : Nat := 0x44
def mdCapture : Nat := 0x46
def mdStatus : Nat := 0x47
def mdHash : Nat := 0x48
def mdUser : Nat := 0x4C
def mdKey : Nat := 0x50
def mdProfile : Nat := 0x78

/-- The parser's part of a packet: offsets, path code, flags, and the metadata that the classifier takes over (R65 to R71). -/
def parsePacket (s : State) (p : Packet) : Packet :=
  let x := parseFrame (sgetRange 0 p.head 0 256) (sgetRange 0 p.tail 0 32) (p.get fLength) (pget s pidParseTpidExtra)
  let md := ssetRange 0 [] 0 (x.foBytes)
  let md := bset md mdStatus (BitVec.ofNat 8 x.statusByte)
  let p := { p with desc := x.fill p.desc, metadata := md, stage := .parsed, len0 := p.get fLength, reason := x.status }
  if x.status != 0 then p.put fDisp dParseException else p

/-- The parser of a half accepts the oldest eligible frame and decodes it (R61, R65); in an activation pause it accepts
none (R464). -/
def execParse (h : Hf) (s : State) : Result :=
  match (if s.fw.pause then [] else (getHalf s h).rxQ) with
  | [] => .next s
  | i :: rest =>
    let s := modHalf s h fun x => { x with rxQ := rest }
    match getPkt s i with
    | none => .next s
    | some p =>
      let p := parsePacket s p
      let s := pinc s (pidParseHalfFrames (hIdx h))
      let s := if p.reason != 0 then pinc s (pidParseHalfReason (hIdx h) p.reason) else s
      .next (modHalf (setPkt s i p) h fun x => { x with clsQ := x.clsQ ++ [i] })

end Sys2Proof.Machine
end

