-- ==== Sys2Proof/Machine/Mac.lean ====
section
/-! DEFINITION. The receive side of the ports (R17, R18, R58, R61, R352, R353): reception, stamps, windows, and the entry of a packet
into the parser's queue of its half. -/

namespace Sys2Proof.Machine

/-- The port on which a packet enters its half: 33 for a later pass (R13, R17). -/
def entryPort (p : Packet) : Nat := if p.get fPass = 0 then p.get fIngress else 33

/-- The parser's order: the older verdict first, and the lower port among those of one PKT cycle (R61). -/
def parserRank (s : State) (i : Nat) : Nat :=
  match getPkt s i with
  | none => 0
  | some q => (q.arrived * 4 / 3) * 64 + entryPort q

/-- Queues a packet at the parser of its half (R14, R61). -/
def queueParser (s : State) (i : Nat) (p : Packet) : State :=
  let s := setPkt s i { p with stage := .received, arrived := s.clk }
  modHalf s p.half fun x => { x with rxQ := insertBy (parserRank s) i x.rxQ }

/-- The descriptor at creation (R22): everything else reads zero, and no egress port is chosen. -/
def freshDesc (ingress length folio stamp : Nat) : BitVec 512 :=
  [(fStamp, stamp), (fEgress, 0x3F), (fIngress, ingress), (fLength, length), (fFolio, folio), (fFlag flHeadPartial, b2n (256 < length)),
   (fTailValid, min 32 (length - 4))].foldl (fun d fv => dput d fv.1.1 fv.1.2 fv.2) 0

/-- A new packet from a frame in its folios, stamped in 2^-32 ns (R22, R58, R352). -/
def newPacket (h : Hf) (ingress : Nat) (bytes : List Byte) (folios : List Nat) (u : Nat) : Packet :=
  { half := h, desc := freshDesc ingress bytes.length (folios.headD 0) (shortStamp u), head := windowMap (headOf bytes),
    tail := windowMap (tailOf bytes), folios := folios, frac := frac16 u }

/-- Writes a frame of an ingress port into folios and hands it to the parser; counts it in `lost` when a folio is missing. -/
def acceptFrame (s : State) (h : Hf) (ingress : Nat) (bytes : List Byte) (u lost : Nat) : State :=
  match writeFrame s ingress 65 bytes with
  | none => pinc s lost
  | some (s, fs) => queueParser s (fs.headD 0) (newPacket h ingress bytes fs u)

/-- The ingress stamp of a line port in 2^-32 ns (R352, R354): the latched value, the interpolation in steps of 0.1 ns, the latency. -/
def ingressUnits (s : State) (p latch interp : Nat) : Nat :=
  let i := if s.datum.badLanes.contains p then 0 else interp * 2 ^ 32 / 10
  latch + i - rxLat p * 2 ^ 16

/-- The last four bytes are the FCS of the others. -/
def fcsGood (bytes : List Byte) : Bool := 4 ≤ bytes.length && bytes.drop (bytes.length - 4) = fcsOf (bytes.take (bytes.length - 4))

/-- Counts of the reassembly of preempted frames (R339). -/
def countAsm (s : State) (p : Nat) (asm : RxAsm) : State :=
  match asm with
  | .whole => s
  | .assembled n => pcount (pinc s (pidRxAssemblyOk p)) (pidRxFrag p) n
  | .assemblyErr n => pcount (pinc s (pidRxAssemblyErr p)) (pidRxFrag p) n
  | .smdErr => pinc s (pidRxSmdErr p)

/-- A frame came out of the reassembly (R338, R339). -/
def asmGives (asm : RxAsm) : Bool :=
  match asm with
  | .whole | .assembled _ => true
  | .assemblyErr _ | .smdErr => false

/-- The line MAC completes the reception of a frame (R18, R338, R339, R464). A port whose link is down receives nothing, and only a field port
reassembles. Of several conditions of R18 that hold at once the first in the order of its table is counted (DESIGN CHOICE, log entry 76). -/
def execFrameReceived (pf : Fin 32) (f : RxFrame) (latch : Nat) (interp : BitVec 4) (s : State) : Result :=
  let p := pf.val
  let asm := if p < 16 then .whole else f.asm
  if !(getPort s p).link then .next s
  else if s.fw.pause then .next (pinc s pidFwPauseRxDrop)
  else
    let s := countAsm s p asm
    if !asmGives asm then .next s
    else if !fcsGood f.bytes then .next (pinc s (pidMacPortRxFcsErr p))
    else if f.bytes.length < 64 then .next (pinc s (pidMacPortRxRunt p))
    else if 9216 < f.bytes.length then .next (pinc s (pidMacPortRxOversize p))
    else .next (acceptFrame s (portHalf p) p f.bytes (ingressUnits s p latch interp.toNat) (pidMacPortRxNoFolio p))

end Sys2Proof.Machine
end

