-- ==== Sys2Proof/Machine/Classifier.lean ====
section
/-! DEFINITION. The classifier (R72 to R84): profile, key, flow hash, rules and comparators, order domain and accession, due time, edition
tag, metadata, and the token buckets of the exception path. -/

namespace Sys2Proof.Machine

/-! ### The buckets of the exception path (R83, R84, R86) -/

/-- One packet in the unit of the buckets. -/
def oneToken : Nat := 10 ^ 10

/-- Tokens of a bucket now, in 10^-10 packet: rate × 0.8 ns for each CORE cycle, up to the burst (R84). -/
def excTokensNow (s : State) (r : Nat) : Nat :=
  let burst := pget s (pidExcReasonBurst r) * oneToken
  match sget none s.excTokens r with
  | none => burst
  | some t => min burst (t + (s.clk - sget 0 s.excLast r) * pget s (pidExcReasonRate r) * 8)

/-- Writes a bucket's tokens as of now. -/
def setExcTokens (s : State) (r t : Nat) : State :=
  { s with excTokens := sset none s.excTokens r (some t), excLast := sset 0 s.excLast r s.clk }

/-- The token test of a reason (R84): a rate of 0 discards every packet. -/
def takeToken (s : State) (r : Nat) : State × Bool :=
  let t := excTokensNow s r
  if pget s (pidExcReasonRate r) = 0 || t < oneToken then (pinc s (pidExcReasonDropped r), false)
  else (pinc (setExcTokens s r (t - oneToken)) (pidExcReasonSent r), true)

/-! ### Packets that leave before the traffic manager -/

/-- The packet itself has left; its record goes when no copy holds it, else with the last one (R383). -/
def forgetPacket (s : State) (i : Nat) : State :=
  match getPkt s i with
  | none => s
  | some p => if p.copies = 0 then dropPkt s i else setPkt s i { p with stage := .released }

/-- A packet without a tag is discarded: its folios return (R18, R108). -/
def discardUntagged (s : State) (i : Nat) : State :=
  match getPkt s i with
  | none => s
  | some p => forgetPacket (dropRefs s p.folios) i

/-- A descriptor is discarded: folios, edition count, record (R26, R102). -/
def discardPacket (s : State) (i : Nat) : State :=
  match getPkt s i with
  | none => s
  | some p => forgetPacket (leaveTag (dropRefs s p.folios) (hIdx p.half) (p.get fTag)) i

/-! ### Keys (R72 to R74) -/

/-- The profile of a packet (R72, R498). -/
def profileOf (e : Live) (path port : Nat) : Nat :=
  let hit (r : Nat) : Bool :=
    r % 2 = 1 && (path &&& bitsOf r 32 16) = (bitsOf r 16 16 &&& bitsOf r 32 16)
      && (port &&& bitsOf r 56 6) = (bitsOf r 48 6 &&& bitsOf r 56 6)
  match (List.range 32).find? fun i => hit (e.get (pidClsProfileSel i)) with
  | none => 0
  | some i => bitsOf (e.get (pidClsProfileSel i)) 8 8

/-- The entry fo[i] that the parser left in the metadata. -/
def foOf (p : Packet) (i : Nat) : Nat := (bget p.metadata (2 * i)).toNat + 256 * (bget p.metadata (2 * i + 1)).toNat

/-- A byte of a window, none outside it (R73). -/
def windowByte (p : Packet) (tail : Bool) (i : Nat) : Option Nat :=
  if tail then (if 32 - p.get fTailValid ≤ i && i < 32 then some (bget p.tail i).toNat else none)
  else (if i < 256 then some (bget p.head i).toNat else none)

/-- Two bytes of a field, 0 when the entry is absent or a byte lies outside the window (R73). -/
def fieldWord (p : Packet) (slot off : Nat) : Nat :=
  let f := foOf p slot
  if f < 0x8000 then 0
  else
    let tail := bitOf f 14
    let o := f % 256 + off
    match windowByte p tail o, windowByte p tail (o + 1) with
    | some a, some b => a * 256 + b
    | _, _ => 0

/-- The value of a DESC extractor (R73). -/
def descWord (p : Packet) (sel : Nat) : Nat :=
  if sel = 0 then p.get fIngress
  else if sel = 1 then p.get fPass
  else if sel = 2 then p.get fLength
  else b2n (p.flag flPrpTrailer) * 8 + b2n (p.flag flHsrTag) * 4 + b2n (p.flag flPtpEvent) * 2 + b2n (p.flag flHeadPartial)

/-- The word that an extractor builds (R73, R499). -/
def keyWord (p : Packet) (x : Nat) : Nat :=
  let kind := x % 256
  let sel := bitsOf x 8 8
  let mask := bitsOf x 32 16
  if kind = 1 then fieldWord p sel (bitsOf x 16 8) &&& mask
  else if kind = 2 then descWord p sel &&& mask
  else if kind = 3 then p.get fPathCode &&& mask
  else if kind = 4 then mask
  else 0

/-- The 20 key words of a profile. -/
def keyOf (e : Live) (p : Packet) (n : Nat) : List Nat := (List.range 20).map fun j => keyWord p (e.get (pidClsProfileWord n j))

/-- The flow hash of a key (R74). -/
def keyHash (e : Live) (n : Nat) (key : List Nat) : Nat :=
  let mask := e.get (pidClsProfileHashWords n)
  let ws := ((List.range 20).filter fun j => bitOf mask j).map fun j => BitVec.ofNat 16 (key.getD j 0)
  (flowHash ws (BitVec.ofNat 32 (e.get pidClsHashKey))).toNat

/-! ### Comparators and rules (R75 to R77, R82) -/

/-- A range comparator is true of a key (R75, R497). -/
def compTrue (e : Live) (key : List Nat) (n : Nat) : Bool :=
  let r := e.get (pidClsRange n)
  let w := r % 256
  let v := key.getD w 0
  w < 20 && bitsOf r 16 16 ≤ v && v ≤ bitsOf r 32 16

/-- A range test of a rule holds; one of a comparator with a parity error fails whatever its sense (R76, R82). -/
def rangeTest (e : Live) (h : HalfState) (key : List Nat) (t : Nat) : Bool :=
  !bitOf t 15 || (!h.badComps.contains (t % 1024, e.serial % 4) && compTrue e key (t % 1024) != bitOf t 14)

/-- A key as one 320-bit number, word j from bit 16 × j. -/
def packKey (key : List Nat) : Nat :=
  match key with
  | [] => 0
  | w :: rest => w + 65536 * packKey rest

/-- A rule record matches a key (R76, R496). -/
def ruleMatches (e : Live) (h : HalfState) (key : List Nat) (profile i r : Nat) : Bool :=
  let mask := bitsOf r 576 320
  r % 2 = 1 && bitsOf r 1 3 = profile && !h.badRules.contains (i, r)
    && (packKey key &&& mask) = (bitsOf r 256 320 &&& mask)
    && (List.range 4).all fun j => rangeTest e h key (bitsOf r (128 + 16 * j) 16)

/-- The staged rules of an edition in rising number. -/
def Live.rules (e : Live) : List (Nat × Nat) :=
  e.vals.filterMap fun kv => if kv.1 / 2 ^ 24 = 6 && kv.1 % 256 = 6 then some (kv.1 / 256 % 65536, kv.2) else none

/-- The lowest-numbered matching rule (R77). -/
def matchRule (e : Live) (h : HalfState) (key : List Nat) (profile : Nat) : Option (Nat × Nat) :=
  e.rules.find? fun ir => ruleMatches e h key profile ir.1 ir.2

/-- Result fields of a rule record (R496). -/
def ruleClass (r : Nat) : Nat := bitsOf r 4 2
def ruleUnordered (r : Nat) : Bool := bitOf r 6
def ruleGraph (r : Nat) : Nat := bitsOf r 8 8
def ruleOrderMode (r : Nat) : Nat := bitsOf r 16 8
def ruleDomainArg (r : Nat) : Nat := bitsOf r 24 8
def ruleDomainBase (r : Nat) : Nat := bitsOf r 32 16
def ruleContract (r : Nat) : Nat := bitsOf r 48 16
def rulePolicer (r : Nat) : Nat := bitsOf r 64 16
def ruleCapture (r : Nat) : Nat := bitsOf r 80 8
def ruleQueue (r : Nat) : Nat := bitsOf r 88 8
def ruleUser (r : Nat) : Nat := bitsOf r 96 32

/-- A field with an all-ones value for none. -/
def orNone (none' v : Nat) : Option Nat := if v = none' then none else some v

/-! ### Order domain and accession (R79, R80, R244) -/

/-- The order domain (R79). -/
def orderDomain (r ingress cls hash : Nat) (key : List Nat) : Nat :=
  let sel := if ruleOrderMode r = 0 then ingress * 4 + cls
    else if ruleOrderMode r = 1 then hash % 2 ^ ruleDomainArg r
    else if ruleOrderMode r = 2 then key.getD (ruleDomainArg r) 0
    else 0
  (ruleDomainBase r + sel) % 65536

/-- Outstanding numbers of a domain (R244). -/
def outstanding (h : HalfState) (d : Nat) : Nat := (sget 0 h.accession d + 65536 - sget 0 h.next d) % 65536

/-- Gives the next accession number of an ordered domain (R80, R244). -/
def takeAccession (s : State) (p : Packet) (d : Nat) : State × Packet :=
  let h := getHalf s p.half
  if p.flag flUnordered then (s, p.put fAccession 0)
  else if 32768 ≤ outstanding h d then (s, { p.put fAccession 0 with domainFull := true })
  else
    let a := sget 0 h.accession d
    (modHalf s p.half fun h => { h with accession := sset 0 h.accession d ((a + 1) % 65536) }, p.put fAccession a)

/-! ### Due time (R25) -/

/-- Nanoseconds after the ingress stamp's whole nanosecond at which a packet with class bound `bound` is due: stamp fraction, receive
latency, receive time and bound, rounded up. -/
def dueAfter (p : Packet) (bound : Nat) : Nat :=
  let port := p.get fIngress
  let rate := portRate port
  bound + ceilDiv ((p.frac + rxLat port) * rate + p.get fLength * 8000 * 65536) (65536 * rate)

/-- The due time of a contract's packet (R25). -/
def dueTime (e : Live) (p : Packet) (contract : Nat) : Nat :=
  match sget none e.figs contract with
  | none => 0
  | some f => (stampNs32 (p.get fStamp) + dueAfter p f.bound) % 2 ^ 32

/-! ### The result of a match (R78, R81, R70) -/

/-- Class, due time, contract, policer and FCS_CARRY of a first pass (R78, R81). -/
def firstPass (e : Live) (p : Packet) (r : Nat) : Packet :=
  let cls := ruleClass r
  let contract := orNone 0xFFFF (ruleContract r)
  let due := match contract with
    | some k => if bounded cls then dueTime e p k else 0
    | none => 0
  let p := (p.put fClass cls).put fDue due
  let p := p.put (fFlag flFcsCarry) (e.get (pidIntegClassFcsCarryCheck cls))
  { p with contract := contract, policer := orNone 0xFFFF (rulePolicer r) }

/-- Metadata of a matched packet (R70). -/
def matchMetadata (p : Packet) (i r hash profile : Nat) (key : List Nat) : Sparse Byte :=
  let w (m : Sparse Byte) (off n v : Nat) : Sparse Byte := ssetRange 0 m off (leBytes n v)
  let m := w p.metadata mdRule 2 i
  let m := w m mdContract 2 (p.contract.getD 0xFFFF)
  let m := w m mdPolicer 2 (p.policer.getD 0xFFFF)
  let m := w m mdCapture 1 (ruleCapture r)
  let m := w m mdHash 4 hash
  let m := w m mdUser 4 (ruleUser r)
  let m := ssetRange 0 m mdKey (key.flatMap fun k => leBytes 2 k)
  w m mdProfile 1 profile

/-- A packet under its matching rule: fields, domain, accession, metadata (R78 to R81). -/
def applyRule (s : State) (e : Live) (p : Packet) (i r profile : Nat) (key : List Nat) : State × Packet :=
  let later := p.get fPass != 0
  let hash := keyHash e profile key
  let p := if later then { p with policer := none } else firstPass e p r
  let capture := orNone 0xFF (ruleCapture r)
  let d := orderDomain r (p.get fIngress) (p.get fClass) hash key
  let p := { p with capture := capture, reason := 0, recorded := false, domainFull := false }
  let p := [(fGraph, ruleGraph r), (fDomain, d), (fQueue, ruleQueue r), (fFlag flUnordered, b2n (ruleUnordered r)),
    (fFlag flCapture, b2n capture.isSome)].foldl (fun (p : Packet) fv => p.put fv.1 fv.2) p
  let p := { p with metadata := matchMetadata p i r hash profile key, stage := .classified }
  let (s, p) := takeAccession s p d
  (pinc s (pidClsHalfRuleHits (hIdx p.half) i), p)

/-! ### Exception packets (R67, R77, R83 to R85) -/

/-- The fields of a packet that takes the exception path (R67). -/
def exceptionPacket (p : Packet) (reason disp : Nat) : Packet :=
  let p := [(fClass, 0), (fDue, 0), (fDomain, 0), (fAccession, 0), (fDisp, disp)].foldl (fun (p : Packet) fv => p.put fv.1 fv.2) p
  { p with reason := reason, contract := none, policer := none, capture := none, recorded := false, stage := .classified }

/-- The capture record of an exception packet, at its token test (R85, R383). -/
def excCapture (s : State) (i r : Nat) : State :=
  let n := pget s (pidExcReasonCapture r)
  if n < 64 && pget s (pidCapRuleEnable n) = 1 then addCapture s i n else s

/-- The token test at the classifier output: a packet without a token is discarded and keeps its disposition (R84). -/
def excTest (s : State) (i : Nat) (p : Packet) : State :=
  let s := excCapture (setPkt s i p) i p.reason
  match takeToken s p.reason with
  | (s, true) => modHalf s p.half fun h => { h with admQ := h.admQ ++ [i] }
  | (s, false) => discardPacket (countDisp s (hIdx p.half) (p.get fDisp)) i

/-! ### The command -/

/-- The edition that classifies a packet, with its tag (R81). -/
def entryEdition (s : State) (p : Packet) : Option (Nat × Live) :=
  let tag := if p.get fPass = 0 then s.ed.newest else some (p.get fTag)
  match tag with
  | none => none
  | some t => (liveEd s t).map fun e => (t, e)

/-- The fields of a packet that the Registrar itself sends to a port: control class, its port and queue, outside every order domain (R20, R291;
log entry 75). -/
def directPacket (p : Packet) : Packet :=
  let eq := p.direct.getD (0x3F, 0)
  let p := [(fClass, clsControl), (fEgress, eq.1), (fQueue, eq.2), (fFlag flUnordered, 1)].foldl (fun (p : Packet) fv => p.put fv.1 fv.2) p
  { p with reason := 0, stage := .classified }

/-- Classifies a packet under an edition (R67, R77, R81, R291). -/
def classifyUnder (s : State) (i : Nat) (p : Packet) (tag : Nat) (e : Live) : State :=
  let s := if p.get fPass = 0 then enterTag s (hIdx p.half) tag 1 else s
  let p := p.put fTag tag
  if p.direct.isSome then
    modHalf (setPkt s i (directPacket p)) p.half fun h => { h with admQ := h.admQ ++ [i] }
  else if p.reason != 0 then excTest s i (exceptionPacket p p.reason dParseException)
  else
    let profile := profileOf e (p.get fPathCode) (p.get fIngress)
    let key := keyOf e p profile
    match matchRule e (getHalf s p.half) key profile with
    | none => excTest (pinc s (pidClsHalfMiss (hIdx p.half))) i (exceptionPacket p 8 dClassifyMiss)
    | some (n, r) =>
      let (s, p) := applyRule s e p n r profile key
      modHalf (setPkt s i p) p.half fun h => { h with admQ := h.admQ ++ [i] }

/-- The classifier of a half takes the oldest parsed packet (R81); while no edition is live it discards it (R108). -/
def execClassify (h : Hf) (s : State) : Result :=
  match (getHalf s h).clsQ with
  | [] => .next s
  | i :: rest =>
    let s := modHalf s h fun x => { x with clsQ := rest }
    match getPkt s i with
    | none => .next s
    | some p =>
      match entryEdition s p with
      | none => .next (discardUntagged (pinc s (pidEditionHalfNoEdition (hIdx h))) i)
      | some (tag, e) => .next (classifyUnder s i p tag e)

end Sys2Proof.Machine
end

