-- ==== Sys2Proof/Machine/Image.lean ====
section
/-! DEFINITION. Program images (R212 to R214): header and operation entries, the checks of PROGRAM_LOAD, and the image that a task
runs. -/

namespace Sys2Proof.Machine

def imgOps (img : List Byte) : Nat := leAt img 6 1
def imgLength (img : List Byte) : Nat := leAt img 8 4
def imgCrc (img : List Byte) : Nat := leAt img 12 4
def imgSlots (img : List Byte) : Nat := leAt img 32 4

/-- The declared graph bound at a pool weight of 1, 2, 4 or 8, 0 when not declared (R212). -/
def imgBound (img : List Byte) (w : Nat) : Nat :=
  if w = 1 then leAt img 16 4 else if w = 2 then leAt img 20 4 else if w = 4 then leAt img 24 4
  else if w = 8 then leAt img 28 4 else 0

/-- A field of operation entry i (R213). -/
def opField (img : List Byte) (i off n : Nat) : Nat := leAt img (64 + 32 * i + off) n

def opCodeOff (img : List Byte) (i : Nat) : Nat := opField img i 0 4
def opCodeLen (img : List Byte) (i : Nat) : Nat := opField img i 4 4
def opToutOff (img : List Byte) (i : Nat) : Nat := opField img i 8 4
def opSucc (img : List Byte) (i : Nat) : Nat := opField img i 12 1
def opToutN (img : List Byte) (i : Nat) : Nat := opField img i 13 1
def opBudget3a (img : List Byte) (i : Nat) : Nat := opField img i 16 2
def opBudget3b (img : List Byte) (i : Nat) : Nat := opField img i 18 2
def opSlots (img : List Byte) (i : Nat) : Nat := opField img i 20 4

/-- Entry `tsel` of an operation's WAIT timeout table (R171); none when the table has no such entry. -/
def opTimeout (img : List Byte) (i tsel : Nat) : Option Nat :=
  if tsel < opToutN img i then some (leAt img (opToutOff img i + 2 * tsel) 2) else none

/-- The dispatch mask of operation i: its predecessors (R229). -/
def dispatchMask (img : List Byte) (i : Nat) : BitVec 16 :=
  (List.range (imgOps img)).foldl (fun m j => if bitOf (opSucc img j) i then m ||| flagMask j else m) 0
where
  /-- One bit of the mask. -/
  flagMask (j : Nat) : BitVec 16 := BitVec.ofNat 16 (2 ^ j)

/-- Every byte of an area is zero. -/
def zeroArea (img : List Byte) (off n : Nat) : Bool := (bytesAt img off n).all (· == 0)

/-- Operation entry i is in the ranges of R213. -/
def opEntryOk (img : List Byte) (i : Nat) : Bool :=
  let off := opCodeOff img i
  let len := opCodeLen img i
  off % 2 = 0 && len % 2 = 0 && 2 ≤ len && len ≤ 32768 && off + len ≤ img.length
    && opToutN img i ≤ 32 && opToutOff img i + 2 * opToutN img i ≤ img.length
    && (List.range 8).all (fun j => !bitOf (opSucc img i) j || (i < j && j < imgOps img))
    && zeroArea img (64 + 32 * i + 14) 2 && zeroArea img (64 + 32 * i + 24) 8

/-- Two code areas do not overlap (R214). -/
def codeApart (img : List Byte) (i j : Nat) : Bool :=
  opCodeOff img i + opCodeLen img i ≤ opCodeOff img j || opCodeOff img j + opCodeLen img j ≤ opCodeOff img i

/-- The CRC of an image with its field taken as zero (R212). -/
def imgCrcOf (img : List Byte) : Nat := (crc32 (putBytes img 12 [0, 0, 0, 0])).toNat

/-- The checks of PROGRAM_LOAD (R214). -/
def imageOk (img : List Byte) : Bool :=
  let ops := imgOps img
  64 ≤ img.length && leAt img 0 4 = 0x58425243 && leAt img 4 2 = 1 && 1 ≤ ops && ops ≤ 8 && leAt img 7 1 = 0
    && imgLength img = img.length && img.length % 4 = 0 && img.length ≤ 262144 && zeroArea img 36 28
    && 64 + 32 * ops ≤ img.length && imgCrcOf img = imgCrc img
    && (List.range ops).all (opEntryOk img)
    && (List.range ops).all fun i => (List.range i).all fun j => codeApart img i j

/-- The image of a graph in the edition with a tag. -/
def imageOf (s : State) (tag graph : Nat) : Option (List Byte) :=
  match liveEd s tag with
  | none => none
  | some e => sget none e.images graph

/-- The image that a task runs, none when its edition holds none. -/
def taskImage (s : State) (t : Task) : Option (List Byte) := imageOf s t.tag t.graph

/-! ### Program memory (R97, R104, R111, R136) -/

/-- Loads one image of an edition: one whose content is there already shares its memory (R97); where another is placed is not given (log
entry 7). -/
def loadImage (serial g : Nat) (img : List Byte) (ps : List ProgSeg) : List ProgSeg :=
  if ps.any fun x => x.bytes = img then ps.map fun x => if x.bytes = img then { x with users := x.users ++ [(serial, g)] } else x
  else ps ++ [{ addr := (Config.imageParcel serial g).toNat * 2, bytes := img, users := [(serial, g)] }]

/-- Loads the images of an edition. -/
def loadEdition (e : Live) (ps : List ProgSeg) : List ProgSeg :=
  (spresent e.images).foldl (fun ps gi => loadImage e.serial gi.1 gi.2 ps) ps

/-- Frees the program memory that no other edition uses (R104). -/
def unloadEdition (serial : Nat) (ps : List ProgSeg) : List ProgSeg :=
  (ps.map fun x => { x with users := x.users.filter fun u => u.1 != serial }).filter fun x => !x.users.isEmpty

/-- Changes the program memory of the stations that satisfy `p`. -/
def modProgs (s : State) (p : Station → Bool) (f : List ProgSeg → List ProgSeg) : State :=
  (List.range 17).foldl (fun s k => if p (getStn s k) then modStn s k fun st => { st with prog := f st.prog } else s) s

/-- The images of every live edition, as a preparation for a role loads them (R136). -/
def liveProgs (s : State) : List ProgSeg := (liveEds s).foldl (fun ps te => loadEdition te.2 ps) []

/-- The entry point of a task's operation in its station's program memory (R113). -/
def entryPc (s : State) (k : Nat) (t : Task) : BitVec 18 :=
  let serial := match liveEd s t.tag with
    | none => 0
    | some e => e.serial
  match (getStn s k).prog.find? fun x => x.users.contains (serial, t.graph) with
  | none => BitVec.ofNat 18 ((Config.imageParcel serial t.graph).toNat * 2)
  | some x => BitVec.ofNat 18 (x.addr + opCodeOff x.bytes t.node)

/-- The bytes of an operation's code. -/
def opCode (img : List Byte) (i : Nat) : List Byte := bytesAt img (opCodeOff img i) (opCodeLen img i)

/-- The declared bound of an image at the pool weight of an edition (R226). -/
def Live.graphBound (e : Live) (graph : Nat) : Nat :=
  match sget none e.images graph with
  | none => 0
  | some img => imgBound img (e.get pidStnMapPoolWeight)

/-- The largest graph bound of any live edition (R134, R251). -/
def largestBound (s : State) : Nat :=
  (liveEds s).foldl (fun m te => (spresent te.2.images).foldl (fun m gi => max m (te.2.graphBound gi.1)) m) 0

end Sys2Proof.Machine
end

