-- ==== Sys2Proof/Machine/Trap.lean ====
section
/-! DEFINITION. The end of tasks and passes (R230, R245), contexts and the shelf (R120, R121), traps (R126 to R131), debugger halts at
their boundary (R273), and the issue of one instruction (R150, R156, R168). -/

namespace Sys2Proof.Machine

/-! ### Contexts (R120) -/

/-- Cycles left of a pending WAIT (R120, R173). -/
def waitLeft (clk : Nat) (th : Thread) : Nat :=
  match th.wait with
  | none => 0
  | some w => (w.deadline - clk) % 65536

/-- The 72 bytes of a context (R120). -/
def contextBytes (clk : Nat) (th : Thread) (frozen : Nat) : List Byte :=
  ((List.range 15).flatMap fun i => leBytes 4 (sget 0 th.g (i + 1)).toNat)
    ++ leBytes 4 th.pc.toNat ++ leBytes 1 (th.preds.toNat / 2) ++ leBytes 1 th.repLeft.toNat ++ leBytes 1 th.wbank.toNat
    ++ leBytes 1 (b2n th.wait.isSome + 2 * b2n th.repActive) ++ leBytes 2 th.task
    ++ leBytes 2 (if frozen = 0 then waitLeft clk th else frozen)

/-- A snapshot entry is free: it is empty, or its trap record has gone out or been discarded with its packet and the entry may be used
again (R121, R131; DESIGN CHOICE, log entry 71). -/
def snapshotFree (st : Station) (e : Nat) : Bool :=
  match sget none st.shelf e with
  | none => true
  | some x => x.reusable

/-- The lowest free snapshot entry (R121). -/
def freeSnapshot (st : Station) : Option Nat := ((List.range 416).map (· + 96)).find? (snapshotFree st)

def setShelf (s : State) (k e : Nat) (x : Option ShelfEnt) : State :=
  modStn s k fun st => { st with shelf := sset none st.shelf e x }

/-! ### Ends of tasks and passes -/

/-- The tasks of one packet's pass in a station. -/
def passTasks (st : Station) (pkt : Nat) : List (Nat × Task) := (occupied st).filter fun kt => kt.2.pkt = pkt

/-- The store has become empty: the stall count stops (R251). -/
def closeStore (clk : Nat) (st : Station) : Station :=
  if (occupied st).isEmpty then { st with emptyAt := some clk } else st

/-- Entries enter a store: the stall count of an empty one goes on from where it stopped (R251). -/
def openStore (clk : Nat) (st : Station) : Station :=
  if !(occupied st).isEmpty then st
  else match st.emptyAt with
    | some e => { st with idleSince := st.idleSince + (clk - e), emptyAt := none }
    | none => { st with idleSince := clk }

/-- Frees the pass's entries; the generation stays (R230). -/
def freePass (clk : Nat) (st : Station) (pkt : Nat) : Station :=
  closeStore clk
    { st with tasks := (passTasks st pkt).foldl (fun ts kt => sset {} ts kt.1 { gen := kt.2.gen }) st.tasks }

/-- Hands a packet whose pass is complete to the release unit of its half (R245). -/
def completePkt (s : State) (pkt : Nat) : State :=
  match getPkt s pkt with
  | none => s
  | some p =>
    let s := setPkt s pkt { p with stage := .complete }
    modHalf s p.half fun h => { h with relQ := h.relQ ++ [pkt] }

/-- When every task of the pass is DONE or cancelled, its entries become FREE and the pass is complete (R230, R245). -/
def checkPass (s : State) (k pkt : Nat) : State :=
  let ts := passTasks (getStn s k) pkt
  if !ts.isEmpty && ts.all (fun kt => kt.2.st = .done) then
    completePkt (modStn s k fun st => freePass s.clk st pkt) pkt
  else s

/-- Cancels tasks of a pass that satisfy `p`. -/
def cancelTasks (st : Station) (pkt : Nat) (p : Task → Bool) : Station :=
  { st with tasks := (passTasks st pkt).foldl (fun ts kt =>
      if p kt.2 then smod {} ts kt.1 (fun t => { t with st := .done, cancelled := true }) else ts) st.tasks }

/-- A thread that has no task. -/
def idleThread (th : Thread) : Thread :=
  { th with st := .idle, wait := none, ended := false, repActive := false, repLeft := 0, openMsg := none }

/-! ### Debugger halts (R272, R273) -/

/-- The thread holds an open message, the helper lock or a bank lock (R273). -/
def holdsAny (s : State) (k lane : Nat) : Bool :=
  (getThr s k lane).openMsg.isSome || holdsHelper (getStn s k) lane || !(heldTask s (masterId k lane) (getThr s k lane).task).isEmpty

/-- The thread's control-register writes that have not yet taken effect do so at once: its next instruction issues later than 2 CORE cycles
from now (R148, R185). -/
def flushRegs (s : State) (k lane : Nat) : State :=
  let mine (e : Nat × Effect) : Bool := match e.2 with
    | .threadReg k' l' _ _ => k' = k && l' = lane
    | _ => false
  let s' := { s with delayed := s.delayed.filter fun e => !mine e }
  (s.delayed.filter mine).foldl (fun s e => match e.2 with
    | .threadReg _ _ off v => ctlApply s k lane off v
    | _ => s) s'

/-- What the thread has issued and not committed is squashed: the commands of such instructions that still come have no effect (R185). -/
def squash (s : State) (k lane : Nat) : State := modThr (flushRegs s k lane) k lane fun th => { th with squashAt := some s.clk }

/-- The halt takes effect: the context goes to its snapshot entry, and the reply carries the entry and FORCED (R272, R273). A halt sets
`stn.s[s].halted` (R274). -/
def haltThread (s : State) (k lane : Nat) (r : HaltReq) (forced : Bool) : State :=
  let s := squash s k lane
  let th := getThr s k lane
  let ent : ShelfEnt := { kind := .halted, lane := lane, thread := { th with halt := none }, frozen := waitLeft s.clk th }
  let s1 := setShelf s k r.entry (some ent)
  let s1 := modThr s1 k lane fun th => { th with st := .halted, halt := none }
  let s1 := modStn s1 k fun st => { st with halted := true }
  let s1 := settleBounds s s1
  match r.hdr with
  | none => s1
  | some h => sendReply s1 h 0x0704 0 (leBytes 2 r.entry ++ leBytes 1 (b2n forced) ++ leBytes 1 0)

/-- The thread is in the emulation handler of its station (R210). -/
def inEmu (st : Station) (lane : Nat) : Bool := st.emu.any fun e => e.job.lane = lane

/-- An instruction boundary: a halt that was asked for takes effect when the thread holds nothing (R273). It waits for a task that has
issued END (R176), for a trap that is being handled, and for the emulation handler (R210). -/
def haltBoundary (s : State) (k lane : Nat) : State :=
  match (getThr s k lane).halt with
  | none => s
  | some r =>
    if holdsAny s k lane || (getThr s k lane).ended || (getThr s k lane).st = .trapped || inEmu (getStn s k) lane then s
    else haltThread s k lane r false

/-! ### Traps (R126 to R131) -/

/-- The 32 bytes of a trap record (R131). -/
def trapRecord (s : State) (k lane : Nat) (i : TrapInfo) (stamp entry : Nat) : List Byte :=
  let t := thrTask s k lane
  let p := thrPkt s k lane
  leBytes 1 i.ty ++ leBytes 1 (if i.ty = 1 then i.code else 0) ++ leBytes 2 entry ++ leBytes 2 (masterId k lane)
    ++ leBytes 1 (getStn s k).role ++ leBytes 1 t.graph ++ leBytes 1 t.node ++ leBytes 1 (t.tag % 4 + t.pass % 4 * 4)
    ++ leBytes 2 (p.get fDomain) ++ leBytes 2 (p.get fAccession) ++ leBytes 2 (if i.ty = 2 then i.addr else 0)
    ++ leBytes 4 (getThr s k lane).pc.toNat ++ leBytes 4 0 ++ leBytes 8 stamp

/-- Step 3 of R129: the context and the record in a snapshot entry, or a count when none is free (R121). -/
def trapSnapshot (s : State) (k lane : Nat) (i : TrapInfo) (stamp : Nat) : State × List Byte :=
  match freeSnapshot (getStn s k) with
  | none => (pinc s (pidStnSSnapshotLost k), trapRecord s k lane i stamp 0xFFFF)
  | some e =>
    let r := trapRecord s k lane i stamp e
    let ent : ShelfEnt := { kind := .trapped, lane := lane, thread := getThr s k lane, record := r }
    (setShelf s k e (some ent), r)

/-- The trap disposition of a task's graph (R130, R252). -/
def trapDisposition (s : State) (t : Task) : Nat :=
  if edGet s t.tag (pidDispGraphTrapAction t.graph) = 0 then dTrapHost else dTrapDiscard

/-- The packet of a trapping task: the record and disposition of the first trap stay (R130). -/
def trapPkt (p : Packet) (r : List Byte) (disp : Nat) : Packet :=
  { p with trap := if p.trap.isSome then p.trap else some r, cancel := if p.cancel.isSome then p.cancel else some disp }

/-- CORE cycles of trap handling: R129 allows at most 16, and the example of R261 takes 16 (DESIGN CHOICE, log entry 72). -/
def trapCycles : Nat := 16

/-- A thread traps (R129): it is TRAPPED, what it has issued after the trapping instruction is squashed, and the trap is counted, a HELPER
trap by its cause too (R211). The state is that before the trapping instruction, which has no effect (R177). -/
def takeTrap (s : State) (k lane : Nat) (i : TrapInfo) : State :=
  let s := flushRegs s k lane
  let s := modThr s k lane fun th =>
    { th with st := .trapped, trap := some (i, nowStamp s), squashAt := some (s.clk - 1) }
  let s := pinc s (pidStnSTrap k i.ty)
  let s := if i.ty = 6 then pinc s (pidHlpSHelperErr k i.code) else s
  delay s trapCycles (.trapEnd k lane)

/-- The end of a TRAPPED thread's trap handling: steps 2 to 5 of R129. A station that has been aborted meanwhile has taken the thread over
(R127). -/
def endTrap (s : State) (k lane : Nat) : State :=
  match (getThr s k lane).trap with
  | none => s
  | some (i, stamp) =>
    let t := thrTask s k lane
    let idx := (getThr s k lane).task
    let s1 := abandonTask s (masterId k lane) idx
    let s1 := abandonHelper s1 k lane
    let s1 := abortOpen s1 k lane
    let (s1, r) := trapSnapshot s1 k lane i stamp
    let s1 := modPkt s1 t.pkt fun p => trapPkt p r (trapDisposition s t)
    let s1 := modTask s1 k idx fun t => { t with st := .done, cancelled := true }
    let s1 := modStn s1 k fun st => cancelTasks st t.pkt fun t => t.st = .pending || t.st = .ready
    let s1 := modThr s1 k lane fun th => { idleThread th with trap := none }
    haltBoundary (checkPass s1 k t.pkt) k lane

/-! ### The issue of one instruction

A command of a core or helper instruction stands for its commit cycle: the instruction issued 4 CORE cycles earlier (R183; DESIGN CHOICE,
log entry 73). -/

/-- CORE cycles from the issue of an instruction to its commit (R183). -/
def commitCycles : Nat := 4

/-- The thread runs on: RUNNING, not waiting, not ended, not in the emulation handler (R125, R150, R176, R210). -/
def runsOn (st : Station) (lane : Nat) : Bool :=
  let th := sget {} st.threads lane
  th.st = .running && th.wait.isNone && !th.ended && !inEmu st lane

/-- An instruction of the lane whose commit cycle is now had issued when an event squashed what the thread had in flight (R185). -/
def squashed (clk : Nat) (th : Thread) : Bool :=
  match th.squashAt with
  | none => false
  | some p => p < clk && clk ≤ p + commitCycles

/-- The owners of slots A and B of a core, in the CORE cycle in which an instruction issues that commits at `clk` (R122, R123, R183); the
calendar in force is the newest edition's (R98). -/
def slotOwners (s : State) (k core clk : Nat) : List (Option Nat) :=
  match newestEd s with
  | none => [none, none]
  | some e =>
    let c := e.get (pidStnRoleCoreCal (getStn s k).role core ((clk + 16 - commitCycles) % 16))
    [if bitOf c 7 then some (8 * core + bitsOf c 4 3) else none, if bitOf c 3 then some (8 * core + bitsOf c 0 3) else none]

/-- The lane owns a slot of that cycle. -/
def ownsSlot (s : State) (k lane clk : Nat) : Bool := (slotOwners s k (lane / 8) clk).contains (some lane)

/-- The slots of a core as used in this cycle so far (R125). -/
def coreNow (st : Station) (core clk : Nat) : CoreSlots :=
  let c := sget {} st.cores core
  if c.cyc = clk then c else { cyc := clk, last := c.last }

/-- The thread is ready whatever its next instruction is: it runs on and every result it waits for is available, none taking longer than
16 CORE cycles (R144, R150, R151). -/
def surelyReady (st : Station) (lane clk : Nat) : Bool :=
  runsOn st lane && match (sget {} st.threads lane).lastAt with
    | none => true
    | some a => a + 16 ≤ clk

/-- Slots of a core that are unused in this cycle and not yet given away: without an owner, or with one that may not be ready and has not
issued in it (R125). -/
def unusedSlots (s : State) (k core clk : Nat) : Nat :=
  let st := getStn s k
  let c := coreNow st core clk
  ((slotOwners s k core clk).filter fun o => match o with
    | none => true
    | some l => !c.used.contains l && !surelyReady st l clk).length - c.won

/-- Place of a lane in the round robin for reclaimed slots, from the thread after the last winner (R125). -/
def slotTurn (c : CoreSlots) (lane : Nat) : Nat := (lane % 8 + 7 - c.last) % 8

/-- The lane wins an unused slot: one is left, and no thread that is sure to be ready, owns none of this cycle's slots and has not issued
in it comes before it in the round robin (R125). -/
def winsSlot (s : State) (k lane clk : Nat) : Bool :=
  let st := getStn s k
  let core := lane / 8
  let c := coreNow st core clk
  0 < unusedSlots s k core clk &&
    ((List.range 8).map (8 * core + ·)).all fun l =>
      !(surelyReady st l clk && !ownsSlot s k l clk && !c.used.contains l && slotTurn c l < slotTurn c lane)

/-- The thread can issue: it runs on, has not issued in this cycle, was not squashed, and has a slot, its own or a reclaimed one (R125, R150,
R176). -/
def canIssue (s : State) (k lane : Nat) : Bool :=
  let c := coreNow (getStn s k) (lane / 8) s.clk
  runsOn (getStn s k) lane && !squashed s.clk (getThr s k lane) && !c.used.contains lane && c.used.length < 2 &&
    (ownsSlot s k lane s.clk || winsSlot s k lane s.clk)

/-- CORE cycles without an issue in the present episode (R251). -/
def stallCount (clk : Nat) (st : Station) : Nat := clk - st.idleSince

/-- The slots of a core after a lane has issued in one, reclaimed or its own (R125). -/
def takeSlot (c : CoreSlots) (lane : Nat) (own : Bool) : CoreSlots :=
  { c with used := c.used ++ [lane], won := c.won + b2n (!own), last := if own then c.last else lane % 8 }

/-- The slot is used: SLOTS counts it, repetitions included (R148); one that the thread does not own is reclaimed (R125); and the
station's stall episode ends (R251). -/
def useSlot (s : State) (k lane : Nat) : State :=
  let own := ownsSlot s k lane s.clk
  let at_ := s.clk - commitCycles
  let s := pmax s (pidDispSStallMax k) (stallCount at_ (getStn s k) - 1)
  let s := if own then s else pinc s (pidStnSCoreReclaimed k (lane / 8))
  modStn s k fun st =>
    { st with threads := smod {} st.threads lane fun th => { th with slots := th.slots + 1, lastAt := some s.clk }
              cores := sset {} st.cores (lane / 8) (takeSlot (coreNow st (lane / 8) s.clk) lane own)
              idleSince := at_, stallSeen := 0 }

/-- A kill tag goes to the helper of a squashed helper instruction (R186). -/
def killTag (s : State) (k : Nat) (helper : Bool) : State := if helper then pinc s (pidHlpSKills k) else s

/-- The next instruction: a repetition counts down and stays, and the last one goes on (R168). -/
def advance (bytes : Nat) (th : Thread) : Thread :=
  if th.repActive && th.repLeft != 1 then { th with repLeft := th.repLeft - 1 }
  else { th with repActive := false, repLeft := 0, pc := th.pc + BitVec.ofNat 18 bytes }

/-- The latency of a range (R144). -/
def rangeLatency (a : Nat) : Nat :=
  match rangeOf a with
  | .scratch | .flow | .shared => 6
  | .locks => 8
  | .aperture => 16
  | .chanWin => 12
  | _ => 2

/-- Notes when an access of the thread is complete, its latency counting from the issue: the task completes no earlier (R176). -/
def noteAccess (s : State) (k lane latency : Nat) : State :=
  modThr s k lane fun th => { th with endAt := max th.endAt (s.clk - commitCycles + latency) }

/-- An instruction's effect: the state after it, or a trap. -/
abbrev Effects := Except TrapInfo State

/-- Issues one instruction of a core or, with `helper`, of a helper unit (R150, R156, R157, R168, R177). An undefined encoding traps whatever
its guard; a false guard leaves everything but the slot; `body` sees the pc at the following instruction. A helper instruction that is
squashed, by its own trap too, is killed (R185, R186). -/
def issueAs (helper : Bool) (s : State) (t : Tid) (p : Guard) (undef : Bool) (bytes : Nat) (body : State → Effects) : Result :=
  let k := t.stn.val
  let lane := (tlane t)
  if !canIssue s k lane then .next (killTag s k (helper && squashed s.clk (getThr s k lane)))
  else if undef || guardUndef p then .next (takeTrap (killTag (useSlot s k lane) k helper) k lane trapUndefined)
  else
    let s1 := modThr (useSlot s k lane) k lane (advance bytes)
    if !(getThr s k lane).guard p then .next (haltBoundary s1 k lane)
    else
      match body s1 with
      | .ok s2 => .next (haltBoundary s2 k lane)
      | .error i => .next (takeTrap (killTag (useSlot s k lane) k helper) k lane i)

/-- Issues one core instruction. -/
def issue (s : State) (t : Tid) (p : Guard) (undef : Bool) (bytes : Nat) (body : State → Effects) : Result :=
  issueAs false s t p undef bytes body

/-- An instruction that changes its thread's registers and predicates only. -/
def issueThr (s : State) (t : Tid) (p : Guard) (undef : Bool) (bytes : Nat) (f : Thread → Thread) : Result :=
  issue s t p undef bytes fun s => .ok (modThr s t.stn.val (tlane t) f)

end Sys2Proof.Machine
end

