-- ==== Sys2Proof/Machine/Admission.lean ====
section
/-! DEFINITION. The admission check (R37, R85, R117, R118, R229, R244, R312, R319, R320): length, policer, account, station, and the tasks of
a pass. -/

namespace Sys2Proof.Machine

/-- The account that a packet is charged to (R319, R85). -/
def accountOf (s : State) (p : Packet) : Nat :=
  let i := p.get fIngress
  if i < 32 then pget s (pidBufMap i (if bounded (p.get fClass) then 0 else 1)) else 64

/-- A drop of the buffer test is counted for its owner (R320). -/
def countBufferDrop (s : State) (a : Nat) (r : Admit) : State :=
  if 64 ≤ a then s
  else match r with
    | .max => pinc s (pidBufOwnerDropMax a)
    | .shared => pinc s (pidBufOwnerDropShared a)
    | .ok => s

/-! ### Order of release (R244 to R247) -/

/-- The packet releases in accession order: it holds an accession number (R80, R244, R247). -/
def ordered (p : Packet) : Bool := !p.flag flUnordered && !p.domainFull

/-- A complete packet has its turn (R246, R247). -/
def hasTurn (h : HalfState) (p : Packet) : Bool := !ordered p || p.get fAccession = sget 0 h.next (p.get fDomain)

/-- Complete packets of a half that wait for their turn (R246). -/
def parkedCount (s : State) (h : Hf) : Nat :=
  ((getHalf s h).relQ.filter fun i => (getPkt s i).any fun p => p.stage = .checked && !hasTurn (getHalf s h) p).length

/-- A packet whose disposition is final waits for its release; `ord.half[h].parked_max` follows (R246, R252). -/
def toRelease (s : State) (i : Nat) (p : Packet) : State :=
  let s := setPkt s i { p with stage := .checked, relAt := s.clk }
  pmax s (pidOrdHalfParkedMax (hIdx p.half)) (parkedCount s p.half)

/-- A packet discarded at admission releases as a hole at its accession position (R28). -/
def admissionDrop (s : State) (i : Nat) (p : Packet) (disp : Nat) : State :=
  let s := modHalf (countDisp s (hIdx p.half) disp) p.half fun h => { h with relQ := h.relQ ++ [i] }
  toRelease s i { p.put fDisp disp with hole := true }

/-! ### The distributor (R117, R118, R229) -/

/-- Entries of a station's task store in use, and those held by standard tasks. -/
def storeUsed (st : Station) : Nat := (occupied st).length
def storeStandard (st : Station) : Nat := ((occupied st).filter fun kt => kt.2.cls = 0).length

/-- A station can take all tasks of a pass (R118, R229). -/
def storeTakes (s : State) (h : Hf) (cls n k : Nat) : Bool :=
  let st := getStn s k
  storeUsed st + n ≤ 4096 && (cls != 0 || storeStandard st + n ≤ pget s (pidStnHalfStdTaskLimit (hIdx h)))

/-- The station that the distributor chooses: the fewest occupied entries, ties to the lower role code (R117). -/
def chooseStation (s : State) (h : Hf) (cls n : Nat) : Option Nat :=
  argMin (fun k => storeUsed (getStn s k) * 32 + (getStn s k).role) ((servingStations s h).filter (storeTakes s h cls n))

/-- A packet that finds no room for its tasks (R118, R229). -/
def taskDrop (s : State) (i : Nat) (p : Packet) : State :=
  let h := hIdx p.half
  let cls := p.get fClass
  let s := pinc s (pidStnHalfTaskDrop h)
  let s := if cls = clsStandard then s
    else report s (0x22 + 8 * h) 0x07 (if bounded cls then clsCritical else clsMajor) (0x1022 + 8 * h) (p.get fGraph) cls 0
  admissionDrop s i p dBufferDrop

/-- The first free entries of a task store, lowest first (DESIGN CHOICE, log entry 28). -/
def freeEntries (st : Station) (n : Nat) : List Nat :=
  ((List.range 4096).filter fun e => (sget {} st.tasks e).st = .free).take n

/-- KEY of a packet's tasks (R230). -/
def taskKey (p : Packet) : Nat := if bounded (p.get fClass) then p.get fDue else stampNs32 (p.get fStamp)

/-- The entry of operation `node` of a pass (R229, R230). -/
def newTask (clk i node : Nat) (p : Packet) (img : List Byte) (old : Task) : Task :=
  let m := dispatchMask img node
  { gen := old.gen + 1, st := if m = 0 then .ready else .pending, node := node, graph := p.get fGraph, cls := p.get fClass,
    tag := p.get fTag, pass := p.get fPass, mask := m, key := BitVec.ofNat 32 (taskKey p), pkt := i, readyAt := clk }

/-- Creates the entries of a pass in ascending operation order (R229). -/
def createTasks (s : State) (k i : Nat) (p : Packet) (img : List Byte) : State :=
  let es := freeEntries (getStn s k) (imgOps img)
  let add (ts : Sparse Task) (ne : Nat × Nat) : Sparse Task := smod {} ts ne.2 (newTask s.clk i ne.1 p img)
  modStn s k fun st =>
    let st := openStore s.clk st
    { st with tasks := ((List.range (imgOps img)).zip es).foldl add st.tasks }

/-! ### The check -/

/-- An exception packet of reasons 1 to 8 is charged to its standard account and goes to port 32 (R85). -/
def admitException (s : State) (i : Nat) (p : Packet) : State :=
  let a := accountOf s p
  match admitTest s a p.folios.length with
  | .ok =>
    let s := countDisp (charge s a p.folios) (hIdx p.half) (p.get fDisp)
    enqueuePacket (setPkt s i { p with account := some a }) i 32 (pget s (pidExcReasonQueue p.reason)) true
  | r => discardPacket (countDisp (countBufferDrop s a r) (hIdx p.half) dBufferDrop) i

/-- A packet of the Registrar's own is charged to the internal account and goes to its port (R291, R320; log entry 75). -/
def admitDirect (s : State) (i : Nat) (p : Packet) (eq : Nat × Nat) : State :=
  let a := accountOf s p
  match admitTest s a p.folios.length with
  | .ok => enqueuePacket (setPkt (charge s a p.folios) i { p with account := some a }) i eq.1 eq.2 false
  | r => discardPacket (countDisp (countBufferDrop s a r) (hIdx p.half) dBufferDrop) i

/-- A packet that has conformed is charged and sent to a station (R229, R320). -/
def admitPacket (s : State) (i : Nat) (p : Packet) : State :=
  let a := accountOf s p
  match admitTest s a p.folios.length with
  | .ok =>
    match imageOf s (p.get fTag) (p.get fGraph) with
    | none => admissionDrop s i p dBufferDrop
    | some img =>
      match chooseStation s p.half (p.get fClass) (imgOps img) with
      | none => taskDrop s i p
      | some k =>
        let p := { p with account := some a, station := k, stage := .inStation }
        createTasks (setPkt (charge s a p.folios) i p) k i p img
  | r => admissionDrop (countBufferDrop s a r) i p dBufferDrop

/-- The packet is longer than its contract allows (R37). -/
def overContract (s : State) (p : Packet) : Bool :=
  match p.contract with
  | none => false
  | some k => bounded (p.get fClass) && edGet s (p.get fTag) (pidBoundContractMaxLen k) < p.get fLength

/-- The policer of a packet, none on a later pass (R312, R325): whether the packet conforms or may proceed. -/
def policePacket (s : State) (p : Packet) : State × Bool :=
  match p.policer with
  | none => (s, true)
  | some n =>
    if p.get fPass != 0 then (s, true)
    else
      let (s, ok) := polTest s n (p.get fStamp) (p.get fLength) (0x1022 + 8 * hIdx p.half)
      (s, ok || (getPol s n).action = 1)

/-- The admission check of one packet. -/
def admissionCheck (s : State) (i : Nat) (p : Packet) : State :=
  if let some eq := p.direct then admitDirect s i p eq
  else if p.reason != 0 then admitException s i p
  else if p.domainFull then admissionDrop (pinc s (pidOrdHalfDomainFull (hIdx p.half))) i p dBufferDrop
  else if p.get fPass = 0 && overContract s p then
    admissionDrop (pinc s (pidBoundContractOversize (p.contract.getD 0))) i p dPolicerDrop
  else
    match policePacket s p with
    | (s, true) => admitPacket s i p
    | (s, false) => admissionDrop s i p dPolicerDrop

/-- The admission check of a half takes its oldest packet. -/
def execAdmissionCheck (h : Hf) (s : State) : Result :=
  match (getHalf s h).admQ with
  | [] => .next s
  | i :: rest =>
    let s := modHalf s h fun x => { x with admQ := rest }
    match getPkt s i with
    | none => .next s
    | some p => .next (admissionCheck s i p)

end Sys2Proof.Machine
end

