-- ==== Sys2Proof/Machine/Alu.lean ====
section
/-! DEFINITION. The arithmetic, logic, immediate, select, compare, predicate and bit-field instructions (R158 to R163). -/

namespace Sys2Proof.Machine

/-- rd ← op rs rt. -/
def aluRRR (s : State) (t : Tid) (p : Guard) (f : Form) (rd rs rt : BitVec 4) (op : Word → Word → Word) : Result :=
  issueThr s t p (shortBad f p [rd, rs, rt]) (formBytes f) fun th => th.setReg rd (op (th.reg rs) (th.reg rt))

/-- rd ← op rs; rt must be g0 (R160). -/
def aluRR (s : State) (t : Tid) (p : Guard) (rd rs rt : BitVec 4) (op : Word → Word) : Result :=
  issueThr s t p (rt != 0) 4 fun th => th.setReg rd (op (th.reg rs))

/-- NOP does nothing (R158). -/
def execNopInsn (t : Tid) (p : Guard) (s : State) : Result := issueThr s t p (shortBad .short p []) 2 id

/-- MOV (R158). -/
def execMov (t : Tid) (p : Guard) (rd rs : BitVec 4) (s : State) : Result :=
  issueThr s t p (shortBad .short p [rd, rs]) 2 fun th => th.setReg rd (th.reg rs)

/-- ADD (R158, R160). -/
def execAdd (t : Tid) (p : Guard) (f : Form) (rd rs rt : BitVec 4) (s : State) : Result := aluRRR s t p f rd rs rt (· + ·)

/-- SUB. -/
def execSub (t : Tid) (p : Guard) (f : Form) (rd rs rt : BitVec 4) (s : State) : Result := aluRRR s t p f rd rs rt (· - ·)

/-- AND. -/
def execAnd (t : Tid) (p : Guard) (f : Form) (rd rs rt : BitVec 4) (s : State) : Result := aluRRR s t p f rd rs rt (· &&& ·)

/-- OR. -/
def execOr (t : Tid) (p : Guard) (f : Form) (rd rs rt : BitVec 4) (s : State) : Result := aluRRR s t p f rd rs rt (· ||| ·)

/-- XOR. -/
def execXor (t : Tid) (p : Guard) (f : Form) (rd rs rt : BitVec 4) (s : State) : Result := aluRRR s t p f rd rs rt (· ^^^ ·)

/-- ANDN: rs AND NOT rt. -/
def execAndn (t : Tid) (p : Guard) (f : Form) (rd rs rt : BitVec 4) (s : State) : Result :=
  aluRRR s t p f rd rs rt fun a b => a &&& ~~~ b

/-- SHL by rt[4:0]. -/
def execShl (t : Tid) (p : Guard) (rd rs rt : BitVec 4) (s : State) : Result :=
  aluRRR s t p .long rd rs rt fun a b => shiftBy 0 a (b.toNat % 32)

/-- SHR, logical. -/
def execShr (t : Tid) (p : Guard) (rd rs rt : BitVec 4) (s : State) : Result :=
  aluRRR s t p .long rd rs rt fun a b => shiftBy 1 a (b.toNat % 32)

/-- SAR, arithmetic. -/
def execSar (t : Tid) (p : Guard) (rd rs rt : BitVec 4) (s : State) : Result :=
  aluRRR s t p .long rd rs rt fun a b => shiftBy 2 a (b.toNat % 32)

/-- ROL. -/
def execRol (t : Tid) (p : Guard) (rd rs rt : BitVec 4) (s : State) : Result :=
  aluRRR s t p .long rd rs rt fun a b => shiftBy 3 a (b.toNat % 32)

/-- MIN, signed. -/
def execMin (t : Tid) (p : Guard) (rd rs rt : BitVec 4) (s : State) : Result :=
  aluRRR s t p .long rd rs rt fun a b => if a.slt b then a else b

/-- MAX, signed. -/
def execMax (t : Tid) (p : Guard) (rd rs rt : BitVec 4) (s : State) : Result :=
  aluRRR s t p .long rd rs rt fun a b => if a.slt b then b else a

/-- MINU, unsigned. -/
def execMinu (t : Tid) (p : Guard) (rd rs rt : BitVec 4) (s : State) : Result :=
  aluRRR s t p .long rd rs rt fun a b => if a.ult b then a else b

/-- MAXU, unsigned. -/
def execMaxu (t : Tid) (p : Guard) (rd rs rt : BitVec 4) (s : State) : Result :=
  aluRRR s t p .long rd rs rt fun a b => if a.ult b then b else a

/-- MUL: low 32 bits of the product. -/
def execMul (t : Tid) (p : Guard) (rd rs rt : BitVec 4) (s : State) : Result := aluRRR s t p .long rd rs rt (· * ·)

/-- MULHU: high 32 bits of the unsigned product. -/
def execMulhu (t : Tid) (p : Guard) (rd rs rt : BitVec 4) (s : State) : Result :=
  aluRRR s t p .long rd rs rt fun a b => BitVec.ofNat 32 (a.toNat * b.toNat / 2 ^ 32)

/-- SXB. -/
def execSxb (t : Tid) (p : Guard) (rd rs rt : BitVec 4) (s : State) : Result :=
  aluRR s t p rd rs rt fun a => (a.setWidth 8).signExtend 32

/-- SXH. -/
def execSxh (t : Tid) (p : Guard) (rd rs rt : BitVec 4) (s : State) : Result :=
  aluRR s t p rd rs rt fun a => (a.setWidth 16).signExtend 32

/-- ZXB. -/
def execZxb (t : Tid) (p : Guard) (rd rs rt : BitVec 4) (s : State) : Result :=
  aluRR s t p rd rs rt fun a => (a.setWidth 8).setWidth 32

/-- ZXH. -/
def execZxh (t : Tid) (p : Guard) (rd rs rt : BitVec 4) (s : State) : Result :=
  aluRR s t p rd rs rt fun a => (a.setWidth 16).setWidth 32

/-- CLZ: 0-32. -/
def execClz (t : Tid) (p : Guard) (rd rs rt : BitVec 4) (s : State) : Result :=
  aluRR s t p rd rs rt fun a => BitVec.ofNat 32 (clz32 a)

/-- POPC. -/
def execPopc (t : Tid) (p : Guard) (rd rs rt : BitVec 4) (s : State) : Result :=
  aluRR s t p rd rs rt fun a => BitVec.ofNat 32 (popc32 a)

/-- ADDI: the short form adds to rd itself (R158, R161). -/
def execAddi (t : Tid) (p : Guard) (f : Form) (rd rs : BitVec 4) (imm : BitVec 13) (s : State) : Result :=
  issueThr s t p (shortBad f p [rd] || (f = .short && rs != rd)) (formBytes f) fun th => th.setReg rd (th.reg rs + addiImm f imm)

/-- ANDI (R161). -/
def execAndi (t : Tid) (p : Guard) (rd rs : BitVec 4) (imm : BitVec 13) (s : State) : Result :=
  issueThr s t p false 4 fun th => th.setReg rd (th.reg rs &&& imm13 imm)

/-- ORI (R161). -/
def execOri (t : Tid) (p : Guard) (rd rs : BitVec 4) (imm : BitVec 13) (s : State) : Result :=
  issueThr s t p false 4 fun th => th.setReg rd (th.reg rs ||| imm13 imm)

/-- XORI (R161). -/
def execXori (t : Tid) (p : Guard) (rd rs : BitVec 4) (imm : BitVec 13) (s : State) : Result :=
  issueThr s t p false 4 fun th => th.setReg rd (th.reg rs ^^^ imm13 imm)

/-- SHI: SHL, SHR, SAR or ROL by n; the short form shifts rd itself (R158, R161). -/
def execShi (t : Tid) (p : Guard) (f : Form) (rd rs : BitVec 4) (kind : BitVec 2) (n : BitVec 5) (s : State) : Result :=
  issueThr s t p (shortBad f p [rd] || (f = .short && rs != rd)) (formBytes f) fun th =>
    th.setReg rd (shiftBy kind (th.reg rs) n.toNat)

/-- MOVI: 16 bits zero-extended, 7 bits in the short form (R158, R161). -/
def execMovi (t : Tid) (p : Guard) (f : Form) (rd : BitVec 4) (imm : BitVec 16) (s : State) : Result :=
  issueThr s t p (shortBad f p [rd]) (formBytes f) fun th => th.setReg rd (moviImm f imm)

/-- MOVHI: rd[31:16] ← imm, rd[15:0] kept (R161). -/
def execMovhi (t : Tid) (p : Guard) (rd : BitVec 4) (imm : BitVec 16) (s : State) : Result :=
  issueThr s t p false 4 fun th => th.setReg rd ((imm ++ (th.reg rd).setWidth 16 : BitVec 32))

/-- SEL: rd ← pa ? rs : rt (R161). -/
def execSel (t : Tid) (p : Guard) (rd rs rt : BitVec 4) (pa : BitVec 3) (s : State) : Result :=
  issueThr s t p false 4 fun th => th.setReg rd (if th.pred pa then th.reg rs else th.reg rt)

/-- pd ← combine(pd, r); the state of the thread is unchanged where the encoding is reserved, which traps before. -/
def setCompare (th : Thread) (pd : BitVec 3) (comb : BitVec 2) (r : Option Bool) : Thread :=
  match r with
  | none => th
  | some r =>
    match combine comb (th.pred pd) r with
    | none => th
    | some v => th.setPred pd v

/-- A reserved condition or combining mode (R157, R161); the short forms write p1 only, with the modes of R158. -/
def compareBad (f : Form) (p : Guard) (rs : List (BitVec 4)) (pd : BitVec 3) (cond : BitVec 4) (comb : BitVec 2) (combs : Nat) : Bool :=
  (cmpHolds f cond 0 0).isNone || (combine comb false false).isNone || shortBad f p rs
    || (f = .short && (pd != 1 || combs ≤ comb.toNat))

/-- CMP (R158, R161). -/
def execCmp (t : Tid) (p : Guard) (f : Form) (pd : BitVec 3) (rs rt : BitVec 4) (cond : BitVec 4) (comb : BitVec 2) (s : State) :
    Result :=
  issueThr s t p (compareBad f p [rs, rt] pd cond comb 2) (formBytes f) fun th =>
    setCompare th pd comb (cmpHolds f cond (th.reg rs) (th.reg rt))

/-- CMPI (R158, R161). -/
def execCmpi (t : Tid) (p : Guard) (f : Form) (pd : BitVec 3) (rs : BitVec 4) (imm : BitVec 8) (cond : BitVec 4) (comb : BitVec 2)
    (s : State) : Result :=
  issueThr s t p (compareBad f p [rs] pd cond comb 1) (formBytes f) fun th =>
    setCompare th pd comb (cmpHolds f cond (th.reg rs) (cmpiImm f cond imm))

/-- A predicate operation (R162). -/
def predOp (s : State) (t : Tid) (p : Guard) (undef : Bool) (pd pa pb : BitVec 3) (op : Bool → Bool → Bool) : Result :=
  issueThr s t p undef 4 fun th => th.setPred pd (op (th.pred pa) (th.pred pb))

/-- PAND. -/
def execPand (t : Tid) (p : Guard) (pd pa pb : BitVec 3) (s : State) : Result := predOp s t p false pd pa pb (· && ·)

/-- POR. -/
def execPor (t : Tid) (p : Guard) (pd pa pb : BitVec 3) (s : State) : Result := predOp s t p false pd pa pb (· || ·)

/-- PXOR. -/
def execPxor (t : Tid) (p : Guard) (pd pa pb : BitVec 3) (s : State) : Result := predOp s t p false pd pa pb (· ^^ ·)

/-- PANDN: pa ∧ ¬pb. -/
def execPandn (t : Tid) (p : Guard) (pd pa pb : BitVec 3) (s : State) : Result := predOp s t p false pd pa pb fun a b => a && !b

/-- PNOT: ¬pa; pb must be p0. -/
def execPnot (t : Tid) (p : Guard) (pd pa pb : BitVec 3) (s : State) : Result := predOp s t p (pb != 0) pd pa pb fun a _ => !a

/-- PSET: 1; pa and pb must be p0. -/
def execPset (t : Tid) (p : Guard) (pd pa pb : BitVec 3) (s : State) : Result :=
  predOp s t p (pa != 0 || pb != 0) pd pa pb fun _ _ => true

/-- PCLR: 0; pa and pb must be p0. -/
def execPclr (t : Tid) (p : Guard) (pd pa pb : BitVec 3) (s : State) : Result :=
  predOp s t p (pa != 0 || pb != 0) pd pa pb fun _ _ => false

/-- A field that leaves the word is reserved (R163). -/
def fieldBad (pos len1 : BitVec 5) : Bool := 32 < pos.toNat + (len1.toNat + 1)

/-- EXT (R163). -/
def execExt (t : Tid) (p : Guard) (rd rs : BitVec 4) (pos len1 : BitVec 5) (s : State) : Result :=
  issueThr s t p (fieldBad pos len1) 4 fun th => th.setReg rd (extField (th.reg rs) pos.toNat (len1.toNat + 1))

/-- EXTS (R163). -/
def execExts (t : Tid) (p : Guard) (rd rs : BitVec 4) (pos len1 : BitVec 5) (s : State) : Result :=
  issueThr s t p (fieldBad pos len1) 4 fun th => th.setReg rd (extsField (th.reg rs) pos.toNat (len1.toNat + 1))

/-- INS (R163). -/
def execIns (t : Tid) (p : Guard) (rd rs : BitVec 4) (pos len1 : BitVec 5) (s : State) : Result :=
  issueThr s t p (fieldBad pos len1) 4 fun th =>
    th.setReg rd (insField (th.reg rd) (th.reg rs) pos.toNat (len1.toNat + 1))

end Sys2Proof.Machine
end

