-- ==== Sys2Proof/Machine/Sha.lean ====
section
/-! DEFINITION. SHA-256 and SHA-384 (FIPS 180-4) and HMAC-SHA-256 (FIPS 198-1), which the crypto helper (R201) and the update machinery
(R453) name by their standards. -/

namespace Sys2Proof.Machine

/-- The first 64 bits of the fractional parts of the cube roots of the first 80 primes; SHA-256 uses the upper halves of the first 64. -/
def shaK : List (BitVec 64) :=
  [0x428A2F98D728AE22, 0x7137449123EF65CD, 0xB5C0FBCFEC4D3B2F, 0xE9B5DBA58189DBBC,
   0x3956C25BF348B538, 0x59F111F1B605D019, 0x923F82A4AF194F9B, 0xAB1C5ED5DA6D8118,
   0xD807AA98A3030242, 0x12835B0145706FBE, 0x243185BE4EE4B28C, 0x550C7DC3D5FFB4E2,
   0x72BE5D74F27B896F, 0x80DEB1FE3B1696B1, 0x9BDC06A725C71235, 0xC19BF174CF692694,
   0xE49B69C19EF14AD2, 0xEFBE4786384F25E3, 0x0FC19DC68B8CD5B5, 0x240CA1CC77AC9C65] ++
  [0x2DE92C6F592B0275, 0x4A7484AA6EA6E483, 0x5CB0A9DCBD41FBD4, 0x76F988DA831153B5,
   0x983E5152EE66DFAB, 0xA831C66D2DB43210, 0xB00327C898FB213F, 0xBF597FC7BEEF0EE4,
   0xC6E00BF33DA88FC2, 0xD5A79147930AA725, 0x06CA6351E003826F, 0x142929670A0E6E70,
   0x27B70A8546D22FFC, 0x2E1B21385C26C926, 0x4D2C6DFC5AC42AED, 0x53380D139D95B3DF,
   0x650A73548BAF63DE, 0x766A0ABB3C77B2A8, 0x81C2C92E47EDAEE6, 0x92722C851482353B] ++
  [0xA2BFE8A14CF10364, 0xA81A664BBC423001, 0xC24B8B70D0F89791, 0xC76C51A30654BE30,
   0xD192E819D6EF5218, 0xD69906245565A910, 0xF40E35855771202A, 0x106AA07032BBD1B8,
   0x19A4C116B8D2D0C8, 0x1E376C085141AB53, 0x2748774CDF8EEB99, 0x34B0BCB5E19B48A8,
   0x391C0CB3C5C95A63, 0x4ED8AA4AE3418ACB, 0x5B9CCA4F7763E373, 0x682E6FF3D6B2B8A3,
   0x748F82EE5DEFB2FC, 0x78A5636F43172F60, 0x84C87814A1F0AB72, 0x8CC702081A6439EC] ++
  [0x90BEFFFA23631E28, 0xA4506CEBDE82BDE9, 0xBEF9A3F7B2C67915, 0xC67178F2E372532B,
   0xCA273ECEEA26619C, 0xD186B8C721C0C207, 0xEADA7DD6CDE0EB1E, 0xF57D4F7FEE6ED178,
   0x06F067AA72176FBA, 0x0A637DC5A2C898A6, 0x113F9804BEF90DAE, 0x1B710B35131C471B,
   0x28DB77F523047D84, 0x32CAAB7B40C72493, 0x3C9EBE0A15C9BEBC, 0x431D67C49C100D4C,
   0x4CC5D4BECB3E42B6, 0x597F299CFC657E2A, 0x5FCB6FAB3AD6FAEC, 0x6C44198C4A475817]

/-- Initial value of SHA-256. -/
def sha256Init : List (BitVec 32) :=
  [0x6A09E667, 0xBB67AE85, 0x3C6EF372, 0xA54FF53A, 0x510E527F, 0x9B05688C, 0x1F83D9AB, 0x5BE0CD19]

/-- Initial value of SHA-384. -/
def sha384Init : List (BitVec 64) :=
  [0xCBBB9D5DC1059ED8, 0x629A292A367CD507, 0x9159015A3070DD17, 0x152FECD8F70E5939,
   0x67332667FFC00B31, 0x8EB44A8768581511, 0xDB0C2E0D64F98FA7, 0x47B5481DBEFA4FA4]

/-- The rotation and shift amounts of one SHA-2 variant: Σ0, Σ1, σ0, σ1. -/
structure ShaShape where
  s0 : Nat × Nat × Nat
  s1 : Nat × Nat × Nat
  g0 : Nat × Nat × Nat
  g1 : Nat × Nat × Nat

def shape256 : ShaShape := { s0 := (2, 13, 22), s1 := (6, 11, 25), g0 := (7, 18, 3), g1 := (17, 19, 10) }
def shape512 : ShaShape := { s0 := (28, 34, 39), s1 := (14, 18, 41), g0 := (1, 8, 7), g1 := (19, 61, 6) }

/-- Three rotations. -/
def rot3 {w : Nat} (x : BitVec w) (r : Nat × Nat × Nat) : BitVec w :=
  x.rotateRight r.1 ^^^ x.rotateRight r.2.1 ^^^ x.rotateRight r.2.2

/-- Two rotations and a shift. -/
def rot2 {w : Nat} (x : BitVec w) (r : Nat × Nat × Nat) : BitVec w :=
  x.rotateRight r.1 ^^^ x.rotateRight r.2.1 ^^^ (x >>> r.2.2)

/-- The message schedule, latest word first. -/
def shaSchedule {w : Nat} (sh : ShaShape) (ws : List (BitVec w)) (n : Nat) : List (BitVec w) :=
  match n with
  | 0 => ws
  | n + 1 =>
    let x := rot2 (ws.getD 1 0) sh.g1 + ws.getD 6 0 + rot2 (ws.getD 14 0) sh.g0 + ws.getD 15 0
    shaSchedule sh (x :: ws) n

/-- One round on the eight working words. -/
def shaRound {w : Nat} (sh : ShaShape) (v : List (BitVec w)) (kw : BitVec w × BitVec w) : List (BitVec w) :=
  match v with
  | [a, b, c, d, e, f, g, h] =>
    let t1 := h + rot3 e sh.s1 + ((e &&& f) ^^^ (~~~ e &&& g)) + kw.1 + kw.2
    let t2 := rot3 a sh.s0 + ((a &&& b) ^^^ (a &&& c) ^^^ (b &&& c))
    [t1 + t2, a, b, c, d + t1, e, f, g]
  | _ => v

/-- One block. -/
def shaBlock {w : Nat} (sh : ShaShape) (ks : List (BitVec w)) (hv : List (BitVec w)) (block : List (BitVec w)) : List (BitVec w) :=
  let ws := (shaSchedule sh block.reverse (ks.length - 16)).reverse
  let v := (ks.zip ws).foldl (shaRound sh) hv
  List.zipWith (· + ·) hv v

/-- Splits a list into pieces of `n`, at most `k` of them. -/
def chunks {α : Type} (n : Nat) (l : List α) (k : Nat) : List (List α) :=
  match k with
  | 0 => []
  | k + 1 => if l.isEmpty then [] else l.take n :: chunks n (l.drop n) k

/-- A message with its padding: 0x80, zeros, and the bit length in `lenBytes` bytes, to whole blocks. -/
def shaPad (block lenBytes : Nat) (m : List Byte) : List Byte :=
  let used := m.length + 1 + lenBytes
  let zeros := (block - used % block) % block
  m ++ [0x80] ++ List.replicate zeros 0 ++ beBytes lenBytes (8 * m.length)

/-- SHA-256 of a message. -/
def sha256 (m : List Byte) : List Byte :=
  let p := shaPad 64 8 m
  let blocks := (chunks 64 p (p.length / 64)).map fun b => (chunks 4 b 16).map fun x => BitVec.ofNat 32 (beNat x)
  let ks : List (BitVec 32) := (shaK.take 64).map fun k => BitVec.ofNat 32 (k.toNat / 2 ^ 32)
  (blocks.foldl (shaBlock shape256 ks) sha256Init).flatMap fun x => beBytes 4 x.toNat

/-- SHA-384 of a message. -/
def sha384 (m : List Byte) : List Byte :=
  let p := shaPad 128 16 m
  let blocks := (chunks 128 p (p.length / 128)).map fun b => (chunks 8 b 16).map fun x => BitVec.ofNat 64 (beNat x)
  ((blocks.foldl (shaBlock shape512 shaK) sha384Init).flatMap fun x => beBytes 8 x.toNat).take 48

/-- HMAC-SHA-256 under a key of at most 64 bytes. -/
def hmacSha256 (key m : List Byte) : List Byte :=
  let k := fitBytes key 64
  sha256 (k.map (· ^^^ 0x5C) ++ sha256 (k.map (· ^^^ 0x36) ++ m))

end Sys2Proof.Machine
end

