-- ==== Sys2Proof/Machine/Firmware.lean ====
section
/-! DEFINITION. Firmware images: the manifest (R457, R458), the P-384 signature (R453), and the checks of R459. -/

namespace Sys2Proof.Machine

/-! ### ECDSA on P-384 (R453) -/

/-- The curve y² = x³ − 3x + b over the field of p elements, with the base point G of order n (FIPS 186). -/
def p384P : Nat := 2 ^ 384 - 2 ^ 128 - 2 ^ 96 + 2 ^ 32 - 1
def p384N : Nat := 0xFFFFFFFFFFFFFFFFFFFFFFFFFFFFFFFFFFFFFFFFFFFFFFFFC7634D81F4372DDF581A0DB248B0A77AECEC196ACCC52973
def p384B : Nat := 0xB3312FA7E23EE7E4988E056BE3F82D19181D9C6EFE8141120314088F5013875AC656398D8A2ED19D2A85C8EDD3EC2AEF
def p384G : Nat × Nat :=
  (0xAA87CA22BE8B05378EB1C71EF320AD746E1D3B628BA79B9859F741E082542A385502F25DBF55296C3A545E3872760AB7,
   0x3617DE4A96262C6F5D9E98BF9292DC29F8F41DBD289A147CE9DA3113B5F0B8C00A60B1CE1D7E819D7A431D7C90EA0E5F)

/-- `b` to the power `e` below 2^384, modulo `m`. -/
def powMod (b e m : Nat) : Nat :=
  (List.range 384).foldr (fun i r => let q := r * r % m; if bitOf e (383 - i) then q * b % m else q) 1

/-- The inverse modulo a prime. -/
def invMod (a m : Nat) : Nat := powMod (a % m) (m - 2) m

/-- The sum of two points; `none` is the point at infinity. -/
def ecAdd (a b : Option (Nat × Nat)) : Option (Nat × Nat) :=
  match a, b with
  | none, q => q
  | q, none => q
  | some (x1, y1), some (x2, y2) =>
    let p := p384P
    if x1 = x2 && (y1 + y2) % p = 0 then none
    else
      let l := if x1 = x2 then (3 * x1 * x1 + (p - 3)) * invMod (2 * y1) p % p
        else (y2 + p - y1) * invMod (x2 + p - x1) p % p
      let x := (l * l + 2 * p - x1 - x2) % p
      some (x, (l * (x1 + p - x) + p - y1) % p)

/-- A multiple of a point. -/
def ecMul (k : Nat) (q : Nat × Nat) : Option (Nat × Nat) :=
  (List.range 384).foldr (fun i r => let d := ecAdd r r; if bitOf k (383 - i) then ecAdd d (some q) else d) none

/-- A point lies on the curve. -/
def ecOn (q : Nat × Nat) : Bool :=
  q.1 < p384P && q.2 < p384P && q.2 * q.2 % p384P = (q.1 * q.1 * q.1 + (p384P - 3) * q.1 + p384B) % p384P

/-- The signature (r, s) of a digest verifies under a public key. -/
def ecdsaOk (key : Nat × Nat) (digest r s : Nat) : Bool :=
  let n := p384N
  ecOn key && 1 ≤ r && r < n && 1 ≤ s && s < n &&
    (let w := invMod s n
     match ecAdd (ecMul (digest * w % n) p384G) (ecMul (r * w % n) key) with
     | none => false
     | some q => q.1 % n = r)

/-! ### The manifest (R457, R458) -/

def fwImgVersion (b : List Byte) : Nat := leAt b 8 4
def fwImgLevel (b : List Byte) : Nat := leAt b 12 1
def fwImgSettings (b : List Byte) : Nat := leAt b 13 1
def fwImgState (b : List Byte) : Nat := leAt b 14 2
def fwImgLength (b : List Byte) : Nat := leAt b 20 4
def fwImgRestart (b : List Byte) : Bool := bitOf (leAt b 7 1) 0

/-- Fields of component i: identifier, version, offset, length, digest. -/
def compAt (i : Nat) : Nat := 64 + 64 * i
def compVersion (b : List Byte) (i : Nat) : Nat := leAt b (compAt i + 4) 4
def compOffset (b : List Byte) (i : Nat) : Nat := leAt b (compAt i + 8) 4
def compLength (b : List Byte) (i : Nat) : Nat := leAt b (compAt i + 12) 4
def compDigest (b : List Byte) (i : Nat) : List Byte := bytesAt b (compAt i + 16) 48

/-- Components in manifest order, behind the manifest and within the image (R457). -/
def compsPlaced (b : List Byte) : Bool :=
  (List.range 6).all fun i => leAt b (compAt i) 1 = i && leAt b (compAt i + 1) 3 = 0 && 640 ≤ compOffset b i
    && compOffset b i + compLength b i ≤ fwImgLength b

/-- No two components overlap. -/
def compsApart (b : List Byte) : Bool :=
  (List.range 6).all fun i => (List.range i).all fun j =>
    compOffset b i + compLength b i ≤ compOffset b j || compOffset b j + compLength b j ≤ compOffset b i

/-- The longest image of a mode (R459). -/
def fwImgLimit (inPlace : Bool) : Nat := if inPlace then 48 * 2 ^ 20 else 24 * 2 ^ 20

/-- The first check: lengths, fixed and reserved fields, components (R459). -/
def fwImgFormOk (inPlace : Bool) (b : List Byte) : Bool :=
  b.length = fwImgLength b && leAt b 0 4 = 0x464E4B4D && leAt b 4 2 = 1 && leAt b 6 1 = 6 && leAt b 7 1 < 2 && leAt b 18 2 = 0
    && leAt b 24 40 = 0 && fwImgLength b ≤ fwImgLimit inPlace && compsPlaced b && compsApart b

/-- The second check: the key's digest is the fused hash, and the signature verifies (R453). -/
def fwImgSigned (f : Fuses) (b : List Byte) : Bool :=
  sha384 (bytesAt b 448 96) == f.keyHash
    && ecdsaOk (beAt b 448 48, beAt b 496 48) (beNat (sha384 (b.take 544))) (beAt b 544 48) (beAt b 592 48)

/-- The third check: the digest of each component. -/
def fwImgDigests (b : List Byte) : Bool :=
  (List.range 6).all fun i => sha384 (bytesAt b (compOffset b i) (compLength b i)) == compDigest b i

/-- How an image fares in the checks of R459. -/
inductive FwVerdict where
  | good
  | invalid
  | rollback
  deriving DecidableEq, Repr

/-- The checks of R459, in order. -/
def checkFw (f : Fuses) (b : List Byte) : FwVerdict :=
  if !fwImgFormOk f.inPlace b then .invalid
  else if !fwImgSigned f b then .invalid
  else if !fwImgDigests b then .invalid
  else if leAt b 16 2 != 0x00B0 then .invalid
  else if fwImgLevel b < f.rollback then .rollback
  else .good

/-- Blocks of an in-place overwrite (R460). -/
def fwImgBlocks (len : Nat) : Nat := ceilDiv len 262144

end Sys2Proof.Machine
end

