-- ==== Sys2Proof/Machine/Hbm.lean ====
section
/-! DEFINITION. The in-package memory (R371 to R381): self-refresh, refresh, scrub, errors, host access, and the spilled copies (R340,
R341). -/

namespace Sys2Proof.Machine

/-! ### Host access (R381, R396, R397) -/

/-- The host comes to hold a capture-region line: the oldest tracked line goes when the filter is full (R381). -/
def trackLine (s : State) (l : Nat) : State :=
  if s.hbm.snoop.contains l then s
  else
    let q := if 262144 ≤ s.hbm.snoop.length then s.hbm.snoop.drop 1 else s.hbm.snoop
    { s with hbm := { s.hbm with snoop := q ++ [l] } }

/-- Capture-region lines are tracked on a CXL host; over a memory BAR there is no coherence (R381). -/
def trackRange (s : State) (off n : Nat) : State :=
  if s.host.cxl then ((linesOf off n).filter fun l => l * lineBytes < captureBytes s).foldl trackLine s else s

/-- A read from a device address on meets an error: a corrected one is counted, and so is an uncorrectable one, which is also reported (R379, R424,
R495). -/
def readError (s : State) (err : HbmErr) (a : Nat) : State :=
  let c := channelOf s a
  match err with
  | .none => s
  | .corrected => pinc (pinc s (pidHbmChCe c)) (pidIntegCe 6)
  | .uncorrectable =>
    let l := a / lineBytes
    report (pinc (pinc s (pidHbmChUe c)) (pidIntegUe 6)) (0x70 + c) 0x14 clsMajor 0x1066 (pseudoOf s a) (Config.hbmBank l).toNat
      (Config.hbmRow l).toNat

/-- A host read: bytes beyond the two regions read zero (R397), and poison stands for the whole access (R379). -/
def hostRead (s : State) (off n : Nat) (err : HbmErr) : State :=
  let s := requestRange s (deviceAddr s off) n
  let s := readError s err (deviceAddr s off)
  let data := (List.range n).map fun i => if off + i < hdmBytes s then bget s.hbm.mem (off + i) else 0
  let r := if rangePoisoned s off n || err == .uncorrectable then none else some data
  let s := trackRange s off n
  { s with host := { s.host with memRead := r } }

/-- A host write: the part in the capture region is discarded and counted, the part beyond the regions is ignored (R381, R397). -/
def hostWrite (s : State) (off : Nat) (data : List Byte) : State :=
  let c := captureBytes s
  let s := if off < c && !data.isEmpty then pinc s pidHbmHostRoWrite else s
  let start := max off c
  let kept := (data.drop (start - off)).take (hdmBytes s - start)
  if kept.isEmpty then s else writeHdm s start kept

/-- A host access to HBM (R381, R396). Without a link there is none. -/
def execHostMemoryAccess (off : BitVec 35) (len : Fin 65) (a : MemAccess) (s : State) : Result :=
  if !s.host.link then .next s
  else match a with
    | .read err => .next (hostRead s off.toNat len.val err)
    | .write data => .next (hostWrite s off.toNat (fitBytes data len.val))

/-! ### Refresh (R377, R378) -/

/-- A refresh of a pseudo-channel is due: it is postponed in panic, up to 8, and performed otherwise (R377). -/
def execHbmRefresh (pc : Fin 32) (s : State) : Result :=
  let s := settlePanic s
  .next { s with hbm := { s.hbm with
    postponed := if panics s then smod 0 s.hbm.postponed pc.val fun n => min 8 (n + 1) else s.hbm.postponed } }

/-- A healthy channel without a request for `hbm.sr_idle_us` enters self-refresh; before that nothing happens (R378). -/
def execHbmSelfRefreshEntry (c : Fin 16) (s : State) : Result :=
  let idle := pget s pidHbmSrIdleUs
  if s.hbm.healthy.getLsbD c.val && idle != 0 && sget 0 s.hbm.lastReq c.val + idle * usCycles ≤ s.clk then
    .next { s with hbm := { s.hbm with selfRefresh := s.hbm.selfRefresh ||| BitVec.ofNat 16 (2 ^ c.val) } }
  else .next s

/-- The temperature of the stack in 0.1 °C: the refresh interval is halved above 85 °C (R377). -/
def execHbmTempRead (t : BitVec 16) (s : State) : Result :=
  .next { s with hbm := { s.hbm with hot := 850 < toSigned 16 t.toNat } }

/-! ### Patrol scrub (R379, R380) -/

/-- Lines of the stack: 1.5 GiB for each healthy channel. -/
def stackLines (s : State) : Nat := (healthyChannels s).length * (3 * hbmUnit) / lineBytes

/-- An uncorrectable error that the scrub finds in a line marks the line (R379). -/
def scrubLine (s : State) (l : Nat) (err : HbmErr) : State :=
  let s := readError (requestChannel s (channelOf s (l * lineBytes))) err (l * lineBytes)
  if err = .uncorrectable then { s with hbm := { s.hbm with poisoned := sset false s.hbm.poisoned l true } } else s

/-- A pass of the scrub may begin, or one is under way (R380). -/
def scrubDue (s : State) : Bool := s.hbm.scrub != 0 || s.hbm.scrubNext ≤ s.clk

/-- The scrub reads the next line; a pass begins `hbm.scrub_hours` after the pass before it began (R379, R380, R424). -/
def execHbmPatrolScrub (err : HbmErr) (s : State) : Result :=
  if stackLines s = 0 || !scrubDue s then .next s
  else
    let l := s.hbm.scrub
    let next := if l = 0 then s.clk + pget s pidHbmScrubHours * 3600 * secCycles else s.hbm.scrubNext
    .next (scrubLine { s with hbm := { s.hbm with scrub := (l + 1) % stackLines s, scrubNext := next } } l err)

/-! ### Spilling and reading back (R340, R341) -/

/-- The first queue with a copy that waits for the spill writer. -/
def spillNext (s : State) : Option (Nat × Copy) :=
  s.tm.queues.findSome? fun kq => (kq.2.find? fun c => c.place = 1).map fun c => (kq.1, c)

/-- Changes the first copy that satisfies `p`. -/
def modFirst {α : Type} (p : α → Bool) (f : α → α) (l : List α) : List α :=
  match l with
  | [] => []
  | x :: rest => if p x then f x :: rest else x :: modFirst p f rest

/-- The device address at which the next spilled copy is laid, a free value within the deep region (R371; log entry 35). -/
def spillAddr (s : State) : Nat := hbmUnit + (Config.deepPlace s.freeCtr).toNat * 64 % max 64 (s.hbm.deep * hbmUnit)

/-- The spill writer copies one copy into the deep region, and its SRAM folios give up their references (R340, R378). -/
def execSpill (s : State) : Result :=
  match spillNext s with
  | none => .next s
  | some (key, c) =>
    match getPkt s c.pkt with
    | none => .next s
    | some p =>
      let data := chainBytes s p.folios
      let a := spillAddr s
      let s := requestRange { s with freeCtr := s.freeCtr + 1 } a data.length
      let s := dropRefs s p.folios
      .next (setQueue s key (modFirst (fun x => x.place = 1) (fun x => { x with place := 2, data := data, addr := a }) (getQueue s key)))

/-- The deep reader reads the next spilled copy of a queue into SRAM, or discards one whose read meets an uncorrectable error (R341, R379).
It reads only while the prefetch limit and S − C allow. -/
def execDeepRead (pf : Fin 32) (qf : Fin 16) (err : HbmErr) (s : State) : Result :=
  let p := pf.val
  let q := qf.val
  let key := qKey p q 0
  let cs := getQueue s key
  match cs.find? fun c => c.place = 2 with
  | none => .next s
  | some c =>
    if pget s pidTmDeepPrefetch < prefetched cs + c.len then .next s
    else if sharedFolios s - s.buf.claim < (ceilDiv c.data.length folioData : Nat) then .next s
    else
      let s := readError (requestRange s c.addr c.data.length) err c.addr
      if err = .uncorrectable then
        let s := setQueue s key (dropFirst (· == c) cs)
        .next (settlePanic (discardCopy (pinc s (pidTmQDeepEccDrop p q)) c))
      else
        match writeFrame s 33 66 c.data with
        | none => .next s
        | some (s, fs) =>
          .next (settlePanic (setQueue s key (modFirst (· == c) (fun x => { x with place := 3, data := [], own := fs }) cs)))

end Sys2Proof.Machine
end

