-- ==== Sys2Proof/Machine/HelperField.lean ====
section
/-! DEFINITION. The field unit and the hash unit (R188 to R192), and the memory operands of helpers. -/

namespace Sys2Proof.Machine

/-! ### Memory operands (R188) -/

/-- The ranges that helpers read (R188). -/
def helperRange (r : Range) : Bool :=
  match r with
  | .head | .tail | .desc | .metadata | .scratch | .flow | .shared => true
  | _ => false

/-- An operand of `n` bytes at `a` lies in one readable range (R188, R194). -/
def helperOk (s : State) (k lane a n : Nat) : Bool :=
  a + n ≤ 0x10000 && 0 < n && rangeOf a = rangeOf (a + n - 1) && helperRange (rangeOf a) &&
    match rangeOf a with
    | .scratch => scratchOk s k lane a && scratchOk s k lane (a + n - 1)
    | .shared => (getThr s k lane).wbank.toNat ≤ 12
    | _ => true

/-- The bytes of an operand in ascending addresses (R188), or ADDRESS. -/
def helperBytes (s : State) (k lane a n : Nat) : Except TrapInfo (List Byte) :=
  if helperOk s k lane a n then .ok (loadBytes s k lane a n) else .error (trapAddress a)

/-- The issue of a helper instruction: a reserved encoding is refused and raises UNDEFINED (R157, R208); the refusal is counted when the
request is made. -/
def issueHelper (s : State) (t : Tid) (p : Guard) (major : Nat) (reserved : Bool) (body : State → Effects) : Result :=
  let k := t.stn.val
  let asked := canIssue s k (tlane t) && reserved && !guardUndef p && (getThr s k (tlane t)).guard p
  issueAs true (if asked then pinc s (pidHlpSRefused k major) else s) t p reserved 4 body

/-! ### CRC (R188 to R190) -/

/-- One bit of a CRC with the most significant bit first. -/
def crcBitMsb (r : BitVec 32) : BitVec 32 :=
  (if r.getLsbD 15 then (r <<< 1) ^^^ 0x1021 else r <<< 1) &&& 0xFFFF

/-- One byte of CRC16_CCITT. -/
def crcByteMsb (r : BitVec 32) (b : Byte) : BitVec 32 :=
  (List.range 8).foldl (fun r _ => crcBitMsb r) ((r ^^^ (b.setWidth 32 <<< 8)) &&& 0xFFFF)

/-- One byte under a polynomial of R189: CRC32, CRC16_ARC, CRC16_CCITT, CRC16_DNP. -/
def crcPolyByte (poly : Nat) (r : BitVec 32) (b : Byte) : BitVec 32 :=
  if poly = 0 then crcByte 0xEDB88320 r b
  else if poly = 1 then crcByte 0xA001 (r &&& 0xFFFF) b
  else if poly = 2 then crcByteMsb r b
  else crcByte 0xA6BC (r &&& 0xFFFF) b

/-- The CRC state after some bytes; 16-bit states are written with bits 31:16 zero (R189). -/
def crcPoly (poly : Nat) (r : Word) (bs : List Byte) : Word :=
  let r := bs.foldl (crcPolyByte poly) r
  if poly = 0 then r else r &&& 0xFFFF

/-- CRC (R188). -/
def execCrc (t : Tid) (p : Guard) (rd gA : BitVec 4) (poly : BitVec 3) (size : BitVec 2) (pi : Bool) (s : State) : Result :=
  let k := t.stn.val
  let lane := tlane t
  let w := (sizeBytes size).getD 1
  issueHelper s t p 0x30 (3 < poly.toNat || (sizeBytes size).isNone || (pi && rd = gA)) fun s =>
    let th := getThr s k lane
    let a := (th.reg gA).toNat % 2 ^ 16
    if !alignedFor a w then .error (trapAddress a)
    else
      match helperBytes s k lane a w with
      | .error i => .error i
      | .ok bs =>
        let s := noteAccess s k lane (rangeLatency a + 2)
        .ok (modThr s k lane fun x =>
          let x := x.setReg rd (crcPoly poly.toNat (th.reg rd) bs)
          if pi then x.setReg gA (th.reg gA + BitVec.ofNat 32 w) else x)

/-! ### Checksums (R188) -/

/-- x ⊕₁ y: 16-bit ones'-complement addition. -/
def ocAdd (x y : Nat) : Nat := (x + y) % 65536 + (x + y) / 65536

/-- The 16-bit complement. -/
def ocNot (x : Nat) : Nat := 65535 - x % 65536

def lo16 (x : Word) : Nat := x.toNat % 65536
def hi16 (x : Word) : Nat := x.toNat / 65536

/-- CSADD. -/
def csAdd (a b : Word) : Nat := ocAdd (ocAdd (ocAdd (lo16 a) (hi16 a)) (lo16 b)) (hi16 b)

/-- CSUPD: the update of RFC 1624, old field `o`, new field `n`. -/
def csUpd (d o n : Word) : Nat := ocNot (ocAdd (ocAdd (ocNot (lo16 d)) (ocNot (lo16 o))) (lo16 n))

/-- CSUPD32: fields of 32 bits taken as two halfwords each. -/
def csUpd32 (d o n : Word) : Nat :=
  ocNot (ocAdd (ocAdd (ocAdd (ocAdd (ocNot (lo16 d)) (ocNot (lo16 o))) (ocNot (hi16 o))) (lo16 n)) (hi16 n))

/-- A checksum operation. -/
def csumOp (s : State) (t : Tid) (p : Guard) (reserved : Bool) (rd rs rt : BitVec 4) (f : Word → Word → Word → Nat) : Result :=
  issueHelper s t p 0x31 reserved fun s => .ok (modThr s t.stn.val (tlane t) fun th =>
    th.setReg rd (BitVec.ofNat 32 (f (th.reg rd) (th.reg rs) (th.reg rt))))

/-- CSADD (R188). -/
def execCsadd (t : Tid) (p : Guard) (rd rs rt : BitVec 4) (s : State) : Result :=
  csumOp s t p false rd rs rt fun _ a b => csAdd a b

/-- CSUPD (R188). -/
def execCsupd (t : Tid) (p : Guard) (rd rs rt : BitVec 4) (s : State) : Result := csumOp s t p false rd rs rt csUpd

/-- CSUPD32 (R188). -/
def execCsupd32 (t : Tid) (p : Guard) (rd rs rt : BitVec 4) (s : State) : Result := csumOp s t p false rd rs rt csUpd32

/-- CSNOT: rt must be g0 (R188). -/
def execCsnot (t : Tid) (p : Guard) (rd rs rt : BitVec 4) (s : State) : Result :=
  csumOp s t p (rt != 0) rd rs rt fun _ a _ => ocNot (lo16 a)

/-! ### Byte swaps (R188) -/

/-- Reverses 4 bytes. -/
def swap32 (x : Word) : Word := (x.setWidth 8 ++ (x >>> 8).setWidth 8 ++ (x >>> 16).setWidth 8 ++ (x >>> 24).setWidth 8 : BitVec 32)

/-- Exchanges halfwords. -/
def swapH (x : Word) : Word := x.rotateLeft 16

/-- Swaps the bytes in each halfword. -/
def swap16 (x : Word) : Word := swapH (swap32 x)

/-- A byte swap. -/
def bswapOp (s : State) (t : Tid) (p : Guard) (rd rs : BitVec 4) (f : Word → Word) : Result :=
  issueHelper s t p 0x32 false fun s => .ok (modThr s t.stn.val (tlane t) fun th => th.setReg rd (f (th.reg rs)))

/-- BSWAP.SWAP32. -/
def execBswap32 (t : Tid) (p : Guard) (rd rs : BitVec 4) (s : State) : Result := bswapOp s t p rd rs swap32

/-- BSWAP.SWAP16. -/
def execBswap16 (t : Tid) (p : Guard) (rd rs : BitVec 4) (s : State) : Result := bswapOp s t p rd rs swap16

/-- BSWAP.SWAPH. -/
def execBswapH (t : Tid) (p : Guard) (rd rs : BitVec 4) (s : State) : Result := bswapOp s t p rd rs swapH

/-! ### FCMP (R188) -/

/-- FCMP: the n bytes at gA against the n bytes at gB. -/
def execFcmp (t : Tid) (p : Guard) (pd : BitVec 3) (gA gB : BitVec 4) (n1 : BitVec 4) (cond : BitVec 2) (s : State) : Result :=
  let k := t.stn.val
  let lane := tlane t
  let n := n1.toNat + 1
  issueHelper s t p 0x33 (1 < cond.toNat) fun s =>
    let th := getThr s k lane
    match helperBytes s k lane ((th.reg gA).toNat % 2 ^ 16) n with
    | .error i => .error i
    | .ok x =>
      match helperBytes s k lane ((th.reg gB).toNat % 2 ^ 16) n with
      | .error i => .error i
      | .ok y => .ok (modThr s k lane fun th => th.setPred pd ((x == y) != (cond = 1)))

/-! ### The hash unit (R192) -/

/-- HASH: rd ← step(rd, rs, k), with k the edition's hash key, or rt (R192). -/
def execHash (t : Tid) (p : Guard) (rd rs rt : BitVec 4) (ksel : Bool) (s : State) : Result :=
  let k := t.stn.val
  let lane := tlane t
  issueHelper s t p 0x34 (!ksel && rt != 0) fun s =>
    let key := BitVec.ofNat 32 (edGet s (thrTask s k lane).tag pidClsHashKey)
    .ok (modThr s k lane fun th =>
      th.setReg rd (hashStep (th.reg rd) (th.reg rs) (if ksel then th.reg rt else key)))

/-- HFIN (R192). -/
def execHfin (t : Tid) (p : Guard) (rd rs : BitVec 4) (s : State) : Result :=
  issueHelper s t p 0x35 false fun s => .ok (modThr s t.stn.val (tlane t) fun th => th.setReg rd (hashFin (th.reg rs)))

end Sys2Proof.Machine
end

