-- ==== Sys2Proof/Machine/Release.lean ====
section
/-! DEFINITION. The release unit (R21, R26 to R30, R84, R245 to R249, R308, R324, R383): the checks of a complete packet, and its release
in accession order as a packet or as a hole. -/

namespace Sys2Proof.Machine

/-! ### The splice (R342) -/

/-- D0, the data bytes of the frame as the parser accepted it. -/
def spliceD0 (p : Packet) : Nat := p.len0 - 4

/-- The splice point k (R342). -/
def splicePoint (p : Packet) : Nat :=
  if p.get fOffPayload != 0xFF && p.get fOffPayload ≤ spliceD0 p then p.get fOffPayload else min 256 (spliceD0 p)

/-- k + Δ, the head-window bytes that are sent (R342). -/
def spliceHead (p : Packet) : Int := (splicePoint p : Int) + p.get fLength - p.len0

/-- The splice is valid (R342). -/
def spliceValid (p : Packet) : Bool := 0 ≤ spliceHead p && spliceHead p ≤ 256 && 64 ≤ p.get fLength

/-! ### The checks of a complete packet (R245) -/

/-- The packet would exceed the `max_frame` of its line port, or its splice is invalid (R324). -/
def lengthBad (s : State) (p : Packet) : Bool :=
  let e := p.get fEgress
  !spliceValid p || (e < 32 && pget s (pidMacPortMaxFrame e) < copyLen s p e)

/-- The disposition of a FORWARD packet after the checks of its egress port (R26, R30, R324). -/
def forwardDisp (s : State) (p : Packet) : State × Nat :=
  let e := p.get fEgress
  if 36 ≤ e then (s, dNoEgress)
  else if e = 33 && p.get fPass = 2 then (s, dPassLimit)
  else if lengthBad s p then (pinc s (pidTmPortTooLong e), dDiscardProgram)
  else (s, dForward)

/-- The packet is standard or control and over its limit (R21). -/
def packetOver (s : State) (p : Packet) : Bool := !bounded (p.get fClass) && overResidency s p

/-- The disposition that a program wrote: only FORWARD, DISCARD_PROGRAM and TO_HOST are taken (R27). -/
def programDisp (s : State) (p : Packet) : State × Nat :=
  let d := p.get fDisp
  if d = dForward then forwardDisp s p
  else if d = dDiscardProgram || d = dToHost then (s, d)
  else (pinc s (pidPathHalfDispInvalid (hIdx p.half)), dDiscardProgram)

/-- The disposition of a complete packet (R21, R27, R130, R245, R308): a duplicate whatever its field holds; what a trap, an abort or a
cancellation has given it; RESIDENCY; what the program wrote. -/
def finalDisp (s : State) (p : Packet) : State × Nat :=
  if p.duplicate then (s, dDuplicate)
  else match p.cancel with
    | some d => if d = dTrapHost && packetOver s p then (s, dResidency) else (s, d)
    | none => if packetOver s p then (s, dResidency) else programDisp s p

/-- The exception reason of a disposition at release (R83). -/
def releaseReason (d : Nat) : Nat := if d = dToHost then 9 else if d = dTrapHost then 10 else 0

/-- The final checks of a packet: its disposition, counted, its token, and whether it releases as a hole (R84, R245). -/
def checkPacket (s : State) (i : Nat) (p : Packet) : State :=
  let (s, d) := finalDisp s p
  let s := countDisp s (hIdx p.half) d
  let p := { p.put fDisp d with reason := releaseReason d }
  if d = dToHost || d = dTrapHost then
    let (s, ok) := takeToken s p.reason
    toRelease s i { p with hole := !ok }
  else toRelease s i { p with hole := p.hole || d != dForward }

/-- A packet of a half has completed its pass: the release unit checks the oldest such packet (R245). -/
def execPassComplete (h : Hf) (s : State) : Result :=
  match (getHalf s h).relQ.find? fun i => (getPkt s i).any fun p => p.stage = .complete with
  | none => .next s
  | some i =>
    match getPkt s i with
    | none => .next s
    | some p => .next (checkPacket s i p)

/-! ### Release (R246 to R248) -/

/-- A packet that may be released now; one whose descriptor and shadow have both failed never is (R249). -/
def releasable (s : State) (h : Hf) (p : Packet) : Bool := p.stage = .checked && !p.dead && hasTurn (getHalf s h) p && p.relAt ≤ s.clk

/-- The next packet to release: the earlier cycle of readiness first, then the lower domain number (R248). -/
def nextRelease (s : State) (h : Hf) : Option Nat :=
  let ok := (getHalf s h).relQ.filter fun i => (getPkt s i).any fun p => releasable s h p
  argMin (fun i => match getPkt s i with
    | none => 0
    | some p => p.relAt * 65536 + p.get fDomain) ok

/-- next[d] goes on, and a parked packet with that number becomes releasable in the next cycle (R246). -/
def advanceNext (s : State) (p : Packet) : State :=
  if !ordered p then s
  else
    let d := p.get fDomain
    let s := modHalf s p.half fun h => { h with next := sset 0 h.next d ((sget 0 h.next d + 1) % 65536) }
    (getHalf s p.half).relQ.foldl (fun s i => modPkt s i fun q =>
      if q.stage = .checked && ordered q && q.get fDomain = d && hasTurn (getHalf s p.half) q then { q with relAt := s.clk + 1 } else q) s

/-- The rule under which a packet that releases as a hole is recorded (R383). -/
def holeRule (s : State) (p : Packet) : Option Nat :=
  match captureRule s p with
  | none => none
  | some n =>
    let d := p.get fDisp
    if pget s (pidCapRuleDiscards n) = 1 && d != dBufferDrop && d != dStationAbort then some n else none

/-- A hole frees its folios, with nothing enqueued but its capture copy (R28, R246, R383). -/
def releaseHole (s : State) (i : Nat) (p : Packet) : State :=
  let s := pinc s (pidOrdHalfHoles (hIdx p.half))
  let s := match holeRule s p with
    | none => s
    | some n => addCapture s i n
  discardPacket s i

/-- A packet is enqueued: for the host under its reason, or on its egress port, port 33 with one pass more (R30, R84, R246). -/
def releasePacket (s : State) (i : Nat) (p : Packet) : State :=
  let s := pinc s (pidOrdHalfReleased (hIdx p.half))
  if p.reason != 0 then enqueuePacket s i 32 (pget s (pidExcReasonQueue p.reason)) true
  else
    let e := p.get fEgress
    let s := if e = 33 then setPkt s i (p.put fPass (p.get fPass + 1)) else s
    enqueuePacket s i e (p.get fQueue) false

/-- The release unit of a half releases one packet or hole; with none releasable nothing happens (R246). -/
def execRelease (h : Hf) (s : State) : Result :=
  match nextRelease s h with
  | none => .next s
  | some i =>
    match getPkt s i with
    | none => .next s
    | some p =>
      let s := modHalf s h fun x => { x with relQ := x.relQ.filter (· != i) }
      let s := advanceNext s p
      .next (if p.hole then releaseHole s i p else releasePacket s i p)

end Sys2Proof.Machine
end

