-- ==== Sys2Proof/Machine/Egress.lean ====
section
/-! DEFINITION. The egress editor (R48 to R54, R318, R342 to R345, R352, R353, R356 to R358, R426, R428) and the end of transmission on a line
port (R102). -/

namespace Sys2Proof.Machine

/-! ### Splice (R342) -/

/-- Byte i of the head window as a splice takes it; bytes beyond the window have no stated content (log entry 32). -/
def headByte (p : Packet) (i : Nat) : Byte := if i < 256 then bget p.head i else Config.beyondWindow i

/-- The bytes of a copy as stored in its folios. -/
def copyBytes (s : State) (c : Copy) : List Byte := chainBytes s (copyFolios s c)

/-- The data bytes of a copy, FCS excluded (R342). -/
def splice (p : Packet) (orig : List Byte) : List Byte :=
  (List.range (spliceHead p).toNat).map (headByte p) ++ (orig.take (spliceD0 p)).drop (splicePoint p)

/-! ### Redundancy (R343) -/

/-- VLAN tags of a frame from offset 12 on, a HSR tag passed over (R62, R63). -/
def countTags (extra : Nat) (out : List Byte) (pos fuel : Nat) : Nat :=
  match fuel with
  | 0 => 0
  | fuel + 1 =>
    let t := beAt out pos 2
    if t = 0x8100 || t = 0x88A8 || (extra != 0 && t = extra) then 1 + countTags extra out (pos + 4) fuel
    else if t = 0x892F then countTags extra out (pos + 6) fuel
    else 0

/-- The HSR tag (R343): `n` is the LSDU size. -/
def hsrTag (netId lan n seq : Nat) : List Byte :=
  beBytes 2 0x892F ++ beBytes 2 ((netId % 8 * 2 + lan) * 4096 + n % 4096) ++ beBytes 2 seq

/-- The PRP trailer (R343). -/
def prpTrailer (lan n seq : Nat) : List Byte := beBytes 2 seq ++ beBytes 2 (lan * 4096 + n % 4096) ++ beBytes 2 0x88FB

/-- The redundancy edit of a port on a copy without marking (R343). -/
def redEdit (s : State) (port : Nat) (p : Packet) (seq : Nat) (out : List Byte) : List Byte :=
  let m := redMode s port
  if !unmarked p || m = 0 then out
  else if 3 ≤ m then
    let o := p.get fOffType
    out.take o ++ hsrTag (pget s (pidEgrPortNetId port)) (m - 3) (4 + (out.length - o)) seq ++ out.drop o
  else
    let out := out ++ List.replicate (54 - out.length) 0
    let n := out.length + 6 - 12 - 4 * countTags (pget s pidParseTpidExtra) out 12 out.length
    out ++ prpTrailer (9 + m) n seq

/-! ### One-step PTP (R357, R358) -/

/-- The field-offset entry i is VALID (R68). -/
def foValid (p : Packet) (i : Nat) : Bool := bitOf (foOf p i) 15

/-- The offset of a field-offset entry (R68). -/
def foOff (p : Packet) (i : Nat) : Nat := foOf p i % 256

/-- Byte j of the PTP common header, in the head window (R69). -/
def ptpByte (p : Packet) (j : Nat) : Nat := (headByte p (foOff p 20 + j)).toNat

/-- messageType (R357). -/
def ptpType (p : Packet) : Nat := ptpByte p 0 % 16

/-- A correction: a sum beyond the signed 64-bit range is the largest value (R357). -/
def clampCf (x : Int) : Nat := if x < -(2 ^ 63) || 2 ^ 63 ≤ x then 2 ^ 63 - 1 else ofSigned 64 x

/-- Residence of a packet in 2^-16 ns, over the 2^34 seconds of a short stamp (R357). -/
def residence (p : Packet) (egress : Nat) : Int :=
  let m := 2 ^ 34 * unitsPerSec / 2 ^ 16
  let d := (egress / 2 ^ 16 % m + m - stampUnits p / 2 ^ 16) % m
  if d < m / 2 then d else (d : Int) - m

/-- The bytes of an 80-bit timestamp, network order. -/
def ptpStamp (u : Nat) : List Byte := beBytes 6 (u / unitsPerSec) ++ beBytes 4 (nsTotal u % 10 ^ 9)

/-- New correctionField and timestamp field, none where no edit applies (R357). -/
def oneStepFields (s : State) (p : Packet) (cf oT egress : Nat) : Option (Int × Option (List Byte)) :=
  let c := toSigned 64 cf
  let i := p.get fIngress
  let mode := pget s pidPtpTcMode
  let ty := ptpType p
  let req : Nat := (oT / 2 ^ 32 * 10 ^ 9 + oT % 2 ^ 32) * 65536
  if i = 34 && ty = 0 then some (c + (frac16 egress : Int), some (ptpStamp egress))
  else if i = 34 && ty = 3 then some (c + (((egress / 2 ^ 16 : Nat) : Int) - (req : Int)), some (List.replicate 10 0))
  else if i < 32 && ty = 0 && mode != 0 then
    some (c + residence p egress + (if mode = 2 then (pget s (pidTimePortLinkDelay i) : Int) else 0), none)
  else if i < 32 && ty = 1 && mode = 1 then some (c + residence p egress, none)
  else none

/-- The UDP checksum of a frame after a change of bytes at `pos`, in the manner of CSUPD (R358). -/
def udpUpdate (sum : Nat) (old new : List Byte) : Nat :=
  (List.range (ceilDiv new.length 2)).foldl (fun c i =>
    csUpd (BitVec.ofNat 32 c) (BitVec.ofNat 32 (beAt old (2 * i) 2)) (BitVec.ofNat 32 (beAt new (2 * i) 2))) sum

/-- The packet is UDP over IPv6, or over IPv4 with a received checksum that is not zero (R66, R358): its checksum follows changes. -/
def udpTracks (p : Packet) (out : List Byte) : Bool :=
  let net := bitsOf (p.get fPathCode) 9 3
  bitsOf (p.get fPathCode) 7 2 = 1 && p.get fOffL4 != 0xFF
    && (net = 2 || net = 4 || beAt out (p.get fOffL4 + 6) 2 != 0)

/-- Writes a field and lets the UDP checksum follow when it `tracks` (R358). -/
def putField (p : Packet) (tracks : Bool) (out : List Byte) (pos : Nat) (new : List Byte) : List Byte :=
  let old := bytesAt out pos new.length
  let out' := putBytes out pos new
  if tracks then putBytes out' (p.get fOffL4 + 6) (beBytes 2 (udpUpdate (beAt out (p.get fOffL4 + 6) 2) old new)) else out'

/-- The one-step edit of a copy on its egress stamp; a copy that it does not fit is counted (R357). -/
def oneStep (s : State) (p : Packet) (egress : Nat) (out : List Byte) : State × List Byte :=
  if !p.flag flOneStep then (s, out)
  else
    let skip : State × List Byte := (pinc s pidTimeOnestepSkip, out)
    if !foValid p 20 || !foValid p 21 || !foValid p 22 then skip
    else match oneStepFields s p (beAt out (foOff p 21) 8) (beAt out (foOff p 22) 10) egress with
      | none => skip
      | some (cf, oT) =>
        let tracks := udpTracks p out
        let out := putField p tracks out (foOff p 21) (beBytes 8 (clampCf cf))
        (s, match oT with
          | none => out
          | some b => putField p tracks out (foOff p 22) b)

/-! ### The frame (R344) -/

/-- The copy is unedited (R344). -/
def unedited (s : State) (port : Nat) (p : Packet) : Bool :=
  !p.flag flEdited && p.get fLength = p.len0 && (redMode s port = 0 || !unmarked p) && !p.flag flOneStep

/-- The original FCS bytes of a stored frame. -/
def origFcs (orig : List Byte) : List Byte := orig.drop (orig.length - 4)

/-- The data bytes with their FCS: carried for an unedited copy, else generated over the padded data (R344). -/
def closeFrame (carry : Bool) (orig data : List Byte) : List Byte :=
  if carry then data ++ origFcs orig
  else
    let d := data ++ List.replicate (60 - data.length) 0
    d ++ fcsOf d

/-- The frame with its FCS complemented (R318, R426). -/
def stomp (out : List Byte) : List Byte :=
  out.take (out.length - 4) ++ (out.drop (out.length - 4)).map fun b => ~~~ b

/-- A copy whose data are damaged is sent with its FCS complemented and counted; a folio's error is reported (R318, R426). -/
def stompCopy (s : State) (port : Nat) (p : Packet) (c : Copy) (out : List Byte) : State × List Byte :=
  let bad := badFolio s (copyFolios s c)
  if !p.corrupt && bad.isNone then (s, out)
  else
    let s := if port < 32 then pinc s (pidEgrPortStomped port) else s
    let s := match bad with
      | none => s
      | some i => report s 0x61 0x0A clsMajor (0x1030 + port) i 0 0
    (s, stomp out)

/-! ### The late test and the FCS comparison (R48 to R54, R428) -/

/-- (egress − due) modulo 2^32 (R25). -/
def lateness (p : Packet) (egress : Nat) : Nat := sub32 (nsTotal egress % 2 ^ 32) (p.get fDue)

/-- The packet was stamped before the step instant in force, or a slew that counts as a step is in progress (R54). -/
def skipsLate (s : State) (p : Packet) : Bool :=
  match s.datum.stepWin with
  | none => false
  | some w => match w.s with
    | none => true
    | some i => stampUnits p < i % (2 ^ 34 * unitsPerSec)

/-- The counts and the report of a late copy (R48, R51). After EXTEST no bound is in force (R488), so the report is a warning; only a suspension
counts in `late_suspended` (DEDUCED, log entry 77). -/
def reportLate (s : State) (port q : Nat) (p : Packet) (egress : Nat) : State :=
  let c := p.get fClass
  let n := lateness p egress
  let s := pinc s (pidBoundPortClassLate port c)
  let s := pmax s (pidBoundPortClassLateMax port c) n
  let sure := inForce s (hIdx p.half)
  let s := if boundReason s p.half = 0 then s else pinc s (pidBoundPortClassLateSuspended port c)
  report s (0x30 + port) 0x08 (if sure then clsCritical else clsWarning) (0x1030 + port) q n (p.contract.getD 0xFFFF)

/-- The late test of a copy that passes the editor: whether the copy is late (R48, R54, R345). -/
def lateTest (s : State) (port q i : Nat) (p : Packet) (egress : Nat) : State × Bool :=
  if 35 ≤ port || !bounded (p.get fClass) then (s, false)
  else if skipsLate s p then (pinc s (pidBoundHalfLateCheckSkipped (hIdx p.half)), false)
  else
    let s := pinc s (pidBoundPortClassChecked port (p.get fClass))
    let late := 1 ≤ lateness p egress && lateness p egress ≤ 2 ^ 31 - 1
    if late then (reportLate (modPkt s i fun k => k.put (fFlag flLate) 1) port q p egress, true) else (s, false)

/-- The FCS comparison of a copy on a line port: whether it fails (R428, R429). -/
def fcsTest (s : State) (port q : Nat) (p : Packet) (carry : Bool) (orig data : List Byte) : State × Bool :=
  if 32 ≤ port || !p.flag flFcsCarry then (s, false)
  else if !carry then (pinc s (pidIntegPortFcsCarrySkipped port), false)
  else if fcsOf data = origFcs orig then (s, false)
  else (report (pinc s (pidIntegPortFcsCarryFail port)) (0x30 + port) 0x0C clsMajor (0x1030 + port) q (p.get fIngress) 0, true)

/-- The disposition of a copy at the editor, none when it is sent (R49, R50). -/
def editorDisp (s : State) (p : Packet) (late fail : Bool) : Option Nat :=
  if fail then some dFcsCarryFail
  else if late && pget s (pidBoundClassLateAction (p.get fClass)) = 1 then some dLateDiscard
  else none

/-! ### The editor's work on one copy (R345) -/

/-- The egress stamp in 2^-32 ns: a line port's transmit start with its interpolation and latency, or the dequeue on an internal port (R352
to R354). -/
def egressStamp (s : State) (port : Nat) (t : TxCopy) : State × Nat :=
  if 32 ≤ port then (s, t.egress)
  else
    let x := if s.datum.badLanes.contains port then 0 else (Config.txInterp s.freeCtr).toNat * 2 ^ 32 / 10
    ({ s with freeCtr := s.freeCtr + 1 }, now s + x + txLat port * 2 ^ 16)

/-- The folio references that the editor has read are given up; ports 32 and 33 read for themselves (R317, R325). -/
def editorReads (s : State) (port : Nat) (c : Copy) : State := if port = 32 || port = 33 then s else giveUp s c

/-- The editor prepares the copy that a port has selected, tests it, and starts or discards it (R345). -/
def editCopy (s : State) (port key : Nat) (t : TxCopy) (p : Packet) : State :=
  let c := t.copy
  let orig := copyBytes s c
  let (s, egress) := egressStamp s port t
  let carry := unedited s port p
  let (s, data) := oneStep s p egress (splice p orig)
  let data := redEdit s port p c.seq data
  let (s, out) := stompCopy s port p c (closeFrame carry orig data)
  let (s, late) := lateTest s port t.queue c.pkt p egress
  let (s, fail) := fcsTest s port t.queue p carry orig data
  match editorDisp s p late fail with
  | some d =>
    let s := countDisp s c.half d
    discardCopy (modPort s key fun x => { x with tx := none }) c
  | none => editorReads (modPort s key fun x => { x with tx := some { t with out := some out, egress := egress } }) port c

/-- The port key whose selected copy waits for the editor: port 33 has one for each half, West first. -/
def editKey (s : State) (p : Nat) : Nat :=
  let waits (k : Nat) : Bool := match (getPort s k).tx with
    | some t => t.out.isNone
    | none => false
  if p = 33 && !waits 33 && waits 36 then 36 else p

/-- The editor takes the copy that port p has selected; copies on port 35 do not pass it (R13, R345, R384). -/
def execEgressEdit (pf : Fin 36) (s : State) : Result :=
  let p := pf.val
  let key := editKey s p
  match (getPort s key).tx with
  | none => .next s
  | some t =>
    if t.out.isSome || p = 35 then .next s
    else match getPkt s t.copy.pkt with
      | none => .next s
      | some k => .next (editCopy s p key t k)

/-! ### The end of a transmission (R102, R356) -/

/-- Ends a copy whose references its reader has given up (R102). -/
def closeCopy (s : State) (c : Copy) : State := endCopy (leaveTag s c.half c.tag) c.pkt

/-- The transmit stamp record of a PTP event copy (R356). -/
def txRecord (port : Nat) (p : Packet) (egress : Nat) : List Byte :=
  let origin := if p.get fIngress = 32 then 1 else if p.get fIngress = 34 then 2 else 0
  leBytes 1 port ++ leBytes 1 (ptpType p) ++ leBytes 1 (ptpByte p 4) ++ leBytes 1 origin
    ++ leBytes 2 (ptpByte p 30 * 256 + ptpByte p 31) ++ leBytes 2 0 ++ timeRecord egress

/-- Leaves a record in the port's transmit stamp queue of 64 (R356). -/
def pushTxStamp (s : State) (port : Nat) (r : List Byte) : State :=
  let q := sget [] s.datum.txStamps port
  let s := if 64 ≤ q.length then pinc s (pidTimePortTxstampLost port) else s
  let q := (if 64 ≤ q.length then q.drop 1 else q) ++ [r]
  { s with datum := { s.datum with txStamps := sset [] s.datum.txStamps port q } }

/-- The transmit stamp of a copy that has been sent (R356). -/
def txStampCopy (s : State) (port : Nat) (t : TxCopy) : State :=
  match getPkt s t.copy.pkt with
  | none => s
  | some p => if p.flag flPtpEvent then pushTxStamp s port (txRecord port p t.egress) else s

/-- A line port has sent its frame; a fatal fault stops transmission (R102, R437). -/
def execTransmitComplete (pf : Fin 32) (s : State) : Result :=
  let p := pf.val
  match (getPort s p).tx with
  | none => .next s
  | some t =>
    if t.out.isNone || s.flt.fatal then .next s
    else
      let s := txStampCopy s p t
      let s := modPort s p fun x => { x with tx := none }
      .next (resumeHeld (closeCopy s t.copy) p)

end Sys2Proof.Machine
end

