-- ==== Sys2Proof/Machine/HostPorts.lean ====
section
/-! DEFINITION. The internal ports and the links (R288, R291, R294, R325, R346, R353, R359, R363, R416, R417): recirculation, host receive and
transmit rings, the Registrar's port, and line ports that go down or come up. -/

namespace Sys2Proof.Machine

/-! ### Entry on an internal port (R17, R353) -/

/-- A frame enters the parser of a half on port 32 or 34, stamped now; none while no folio is free. -/
def enterPort (s : State) (h : Hf) (port : Nat) (bytes : List Byte) : Option State :=
  match writeFrame s port 65 bytes with
  | none => none
  | some (s, fs) => some (queueParser s (fs.headD 0) (newPacket h port bytes fs (now s)))

/-- Data bytes with their FCS, padded to a frame of 64 bytes. -/
def sealFrame (data : List Byte) : List Byte :=
  let d := data ++ List.replicate (60 - data.length) 0
  d ++ fcsOf d

/-! ### Recirculation (R60, R325) -/

/-- The packet of a new pass in its new folios: ingress port, stamp, due time and class stay, the head window as the last pass left it. The
fields that R325 does not list stay too (DESIGN CHOICE, log entry 59). -/
def nextPass (s : State) (p : Packet) (bytes : List Byte) (fs : List Nat) : Packet :=
  let d := [(fFolio, fs.headD 0), (fLength, bytes.length), (fFlag flEdited, 0), (fFlag flShared, 0), (fFlag flDeep, 0),
    (fFlag flHeadPartial, b2n (256 < bytes.length)), (fTailValid, min 32 (bytes.length - 4))].foldl
      (fun d fv => dput d fv.1.1 fv.1.2 fv.2) p.desc
  let q : Packet := { half := p.half, desc := d, head := p.head, folios := fs, frac := p.frac, corrupt := p.corrupt, contract := p.contract }
  { q with tail := refillTail s q }

/-- Port 33 of a half writes the packet that it has selected into new folios, and the packet re-enters its half; one that finds no folio is
discarded as a receiving MAC does (R18, R325). -/
def execRecirculate (h : Hf) (s : State) : Result :=
  let key := portKey 33 (hIdx h)
  match (getPort s key).tx with
  | none => .next s
  | some t =>
    match t.out, getPkt s t.copy.pkt with
    | some bytes, some p =>
      let s := modPort s key fun x => { x with tx := none }
      match writeFrame s 33 65 bytes with
      | none => .next (discardCopy s t.copy)
      | some (s, fs) =>
        let q := nextPass s p bytes fs
        .next (queueParser (endCopy (giveUp s t.copy) t.copy.pkt) (fs.headD 0) q)
    | _, _ => .next s

/-! ### Host receive rings (R417) -/

/-- Bytes 8 to 63 of a receive descriptor. -/
def rxDesc (p : Packet) (c : Copy) (phase more : Bool) (frag total : Nat) : List Byte :=
  let trap := if c.reason = 10 then p.trap else none
  leBytes 2 frag ++ leBytes 1 (b2n phase + 2 * b2n more + 4 * b2n trap.isSome) ++ leBytes 1 c.reason ++ leBytes 1 (p.get fIngress)
    ++ leBytes 1 (p.get fDisp + 16 * p.get fClass + 64 * p.get fTag) ++ leBytes 2 total ++ leBytes 2 (p.get fDomain)
    ++ leBytes 2 (p.get fAccession) ++ leBytes 2 p.frac ++ leBytes 2 0 ++ leBytes 8 (p.get fStamp)
    ++ fitBytes (trap.getD []) 32

/-- Fills one descriptor. -/
def fillRx (n : Nat) (r : RxRing) (d : List Byte) (data : List Byte) : RxRing :=
  let f := (r.filled + 1) % n
  { r with filled := f, phase := if f = 0 then !r.phase else r.phase, descs := r.descs ++ [(d, data)] }

/-- Writes the fragments of a frame, in order. -/
def fillRing (n : Nat) (p : Packet) (c : Copy) (total : Nat) (frags : List (List Byte)) (r : RxRing) : RxRing :=
  match frags with
  | [] => r
  | f :: rest => fillRing n p c total rest (fillRx n r (rxDesc p c r.phase (!rest.isEmpty) f.length total) f)

/-- The places in HBM of the next `k` descriptors of a ring and of their buffers over PCIe; none when an address lies outside the host region
(R396). -/
def rxPlaces (s : State) (q k : Nat) : Option (List (Nat × Nat)) :=
  let base := pget s (pidHostRxringBase q)
  let n := pget s (pidHostRxringEntries q)
  let len := pget s (pidHostRxringBufLen q)
  let filled := (sget {} s.host.rxRings q).filled
  let ps := (List.range k).map fun i =>
    let a := base + 64 * ((filled + i) % n)
    (a, leNat (pcieBytes s a 8))
  if ps.all fun ab => inHost s ab.1 64 && inHost s ab.2 len then some ps else none

/-- Writes fragments and their descriptors over PCIe: each buffer, then bytes 8 to 63 of its descriptor (R396, R417). -/
def storeFrags (s : State) (xs : List ((Nat × Nat) × (List Byte × List Byte))) : State :=
  xs.foldl (fun s x => writeHdm (writeHdm s x.1.2 x.2.2) (x.1.1 + 8) x.2.1) s

/-- A packet ring is stopped (R404). -/
def stopRx (s : State) (q : Nat) : State :=
  settleAttn { s with host := { s.host with rxRings := smod {} s.host.rxRings q fun r => { r with stopped := true } } }

/-- A frame goes to the ring of its queue, none when an address stops the ring (R396, R417). -/
def rxDeliver (s : State) (q : Nat) (p : Packet) (c : Copy) (data : List Byte) : Option State :=
  let n := pget s (pidHostRxringEntries q)
  let frags := pieces (pget s (pidHostRxringBufLen q)) data
  let old := sget {} s.host.rxRings q
  let new := fillRing n p c data.length frags old
  let put (s : State) : State := { s with host := { s.host with rxRings := sset {} s.host.rxRings q new } }
  if s.host.cxl then some (put s)
  else (rxPlaces s q frags.length).map fun ps => put (storeFrags s (ps.zip (new.descs.drop old.descs.length)))

/-- Port 32 writes the copy that it has selected into posted buffers of its queue's ring; without room it waits (R417). -/
def execHostRxDeliver (s : State) : Result :=
  match (getPort s 32).tx with
  | none => .next s
  | some t =>
    match t.out, getPkt s t.copy.pkt with
    | some bytes, some p =>
      let data := bytes.take (bytes.length - 4)
      if !rxRoom s t.queue data.length then .next s
      else
        match rxDeliver s t.queue p t.copy data with
        | none => .next (stopRx s t.queue)
        | some s =>
          let s := modPort s 32 fun x => { x with tx := none }
          .next (settleAttn (closeCopy (giveUp s t.copy) t.copy))
    | _, _ => .next s

/-! ### Host transmit rings (R416) -/

def getTx (s : State) (n : Nat) : TxRing := sget {} s.host.txRings n

/-- Ring n holds a descriptor to fetch: enabled, not stopped, producer ahead; none is fetched in an activation pause (R464). -/
def txReady (s : State) (n : Nat) : Bool :=
  pget s (pidHostTxringEnable n) = 1 && !(getTx s n).stopped && (getTx s n).prod != (getTx s n).cons && !s.fw.pause

/-- The descriptor has been consumed. -/
def consumeTx (s : State) (n : Nat) : State :=
  { s with host := { s.host with
      lastTx := n
      txRings := smod {} s.host.txRings n fun r => { r with cons := (r.cons + 1) % pget s (pidHostTxringEntries n) } } }

/-- The descriptor at the consumer index and its frame as the device reads them over PCIe, none when an address lies outside the host region or a
line is poisoned (R379, R396; log entry 37). -/
def txFetchPcie (s : State) (n : Nat) : Option (List Byte × List Byte) :=
  let a := pget s (pidHostTxringBase n) + 16 * (getTx s n).cons
  let d := pcieBytes s a 16
  let b := leAt d 0 8
  let len := leAt d 8 2
  if inHost s a 16 && inHost s b len && !rangePoisoned s a 16 && !rangePoisoned s b len then some (d, pcieBytes s b len) else none

/-- A packet ring is stopped (R404). -/
def stopTx (s : State) (n : Nat) : State :=
  settleAttn { s with host := { s.host with txRings := smod {} s.host.txRings n fun r => { r with stopped := true } } }

/-- A descriptor and its frame have been read: one with a field out of range is skipped, and with no folio free the fetch waits (R416). -/
def txTake (s : State) (n : Nat) (desc data : List Byte) : State :=
  let len := leAt desc 8 2
  let half := leAt desc 10 1
  if len < 60 || 9212 < len || 1 < half || !zeros desc 11 5 then pinc (consumeTx s n) (pidHostTxringBad n)
  else
    match enterPort s (hfOf half) 32 (sealFrame (fitBytes data len)) with
    | none => s
    | some s => consumeTx s n

/-- The next transmit descriptor and its frame arrive from host memory, or over PCIe from HBM: the rings are served round-robin (R396, R416). -/
def execHostTxFetch (nf : Fin 4) (desc : List Byte) (data : List Byte) (s : State) : Result :=
  let n := nf.val
  if roundRobin 4 s.host.lastTx (txReady s) != some n then .next s
  else if s.host.cxl then .next (txTake s n desc data)
  else
    match txFetchPcie s n with
    | none => .next (stopTx s n)
    | some x => .next (txTake s n x.1 x.2)

/-! ### The Registrar's port (R291, R359) -/

/-- One peer record as an event of the learn sequence (R291). -/
def peerEvent (s : State) (h stamp : Nat) (r : List Byte) : State :=
  let b := leAt r 8 1
  let op := leAt r 9 1
  let q := if b < 64 then pget s (pidTblPeerPortMap b) else 0x3F
  if q = 0x3F || (op != 1 && op != 2) then pinc s pidPeerRxBad
  else
    let s := pinc s pidPeerRxRecords
    submitEv s h (r.take 8) q stamp (if op = 1 then .learn q true else .peerDelete)

/-- The frame is a LEARN frame of a peer device (R66, R291): the offset of its records and their bytes. -/
def learnRecords (p : Packet) (bytes : List Byte) : List (List Byte) :=
  let o := p.get fOffType
  if bitsOf (p.get fPathCode) 3 4 = 8 then
    let body := (bytes.take (bytes.length - 4)).drop (o + 6)
    ((pieces 16 body).filter fun r => r.length = 16).take (leAt bytes (o + 4) 1)
  else []

/-- A PTP message of the peer delay exchange has come from a line port: the Registrar computes the link delay of the port, in a way that is
open (R359, R370; log entry 82). -/
def takeDelay (s : State) (p : Packet) : State :=
  let ours := pget s pidPtpProfile != 0 && pget s pidPtpClockType != 0 && pget s (pidPtpPortEnable (p.get fIngress)) = 1
  if p.get fIngress < 32 && foValid p 20 && (ptpType p = 3 || ptpType p = 10) && ours then
    pset { s with freeCtr := s.freeCtr + 1 } (pidTimePortLinkDelay (p.get fIngress)) (Config.linkDelay s.freeCtr).toNat
  else s

/-- Port 34 delivers the copy that it has selected: LEARN records to the learn engine of the packet's half, other frames to the Registrar
(R291, R359). -/
def execRegistrarRxDeliver (s : State) : Result :=
  match (getPort s 34).tx with
  | none => .next s
  | some t =>
    match t.out, getPkt s t.copy.pkt with
    | some bytes, some p =>
      let s := modPort s 34 fun x => { x with tx := none }
      let s := (learnRecords p bytes).foldl (fun s r => peerEvent s (hIdx p.half) (p.get fStamp) r) s
      .next (closeCopy (takeDelay s p) t.copy)
    | _, _ => .next s

/-- A frame for the peer device (R291). -/
def peerFrame (s : State) (rs : List (List Byte)) : List Byte :=
  sealFrame (beBytes 6 (pget s pidTblPeerDst) ++ beBytes 6 (pget s pidTblPeerSrc) ++ beBytes 2 0x88B5 ++ leBytes 1 2 ++ leBytes 1 1
    ++ leBytes 1 rs.length ++ leBytes 1 0 ++ rs.flatten)

/-- 64 records wait, or the batch time since the first has passed (R291). -/
def peerDue (s : State) : Bool :=
  64 ≤ s.tbl.peerRecs.length || (!s.tbl.peerRecs.isEmpty && s.tbl.peerSince + pget s pidTblPeerBatchUs * usCycles ≤ s.clk)

/-- A peer learn frame enters as a packet from port 34 of the West half, on its way to the peer port and its queue; before it is due nothing
happens (R291; log entry 75). -/
def execPeerBatchSend (s : State) : Result :=
  if !peerDue s then .next s
  else
    let rs := s.tbl.peerRecs.take 64
    let bytes := peerFrame s rs
    match writeFrame s 34 65 bytes with
    | none => .next s
    | some (s, fs) =>
      let p := { newPacket .west 34 bytes fs (now s) with direct := some (pget s pidTblPeerPort, pget s pidTblPeerQueue) }
      let s := { queueParser s (fs.headD 0) p with tbl := { s.tbl with peerRecs := s.tbl.peerRecs.drop 64, peerSince := s.clk } }
      .next (pcount s pidPeerTxRecords rs.length)

/-- Where the PTP header of an Ethernet frame begins: untagged, or behind one VLAN tag (R359); none over UDP. -/
def ptpAt (frame : List Byte) : Option Nat :=
  if beAt frame 12 2 = 0x88F7 then some 14
  else if beAt frame 12 2 = 0x8100 && beAt frame 16 2 = 0x88F7 then some 18
  else none

/-- `ptp.domain`, the default of the profile while it has not been set (R359, R370). -/
def ptpDomain (s : State) : Nat := s.datum.domain.getD (if pget s pidPtpProfile = 3 then 254 else 0)

/-- Delay mechanism and transport of the profile allow the message (R359). -/
def ptpAllowed (s : State) (m : PtpMsg) (frame : List Byte) : Bool :=
  let n := pget s pidPtpProfile
  (match m with
    | .delayReq => n = 0
    | .pdelayReq | .pdelayResp | .pdelayRespFollowUp => n != 0
    | _ => true)
    && (n < 2 || (n = 2 && ptpAt frame = some 14) || (n = 3 && (ptpAt frame).isSome))

/-- The messageType of the message whose transmit stamp a second message carries (R356). -/
def followed (m : PtpMsg) : Option Nat :=
  match m with
  | .followUp => some 0
  | .pdelayRespFollowUp => some 3
  | _ => none

/-- The record of the Registrar's own message that a second message of a port takes out of the transmit stamp queue: the oldest of its type
and of origin 2 (R356). -/
def ownStamp (s : State) (p ty : Nat) : Option (List Byte) :=
  (sget [] s.datum.txStamps p).find? fun r => leAt r 1 1 % 16 = ty && leAt r 3 1 = 2

/-- The frame as it is sent: the domain, twoStepFlag of a message of two, and the stamp that a second message carries (R356, R359, R370; log
entry 78). -/
def ptpFrame (s : State) (p : Nat) (m : PtpMsg) (stamp : List Byte) (frame : List Byte) : List Byte :=
  match ptpAt frame with
  | none => frame
  | some o =>
    let f := putBytes frame (o + 4) (leBytes 1 (ptpDomain s))
    match m with
    | .sync | .pdelayResp => putBytes f (o + 6) (leBytes 1 (putBits (leAt f (o + 6) 1) 1 1 (pget s (pidPtpPortTwoStep p))))
    | .followUp | .pdelayRespFollowUp => putBytes f (o + 34) (beBytes 6 (leAt stamp 8 6) ++ beBytes 4 (leAt stamp 14 4))
    | _ => f

/-- The Registrar originates a PTP message of a line port: the frame, without its FCS, enters on port 34 of the half that it names (R17, R356,
R359). With the clock off, or the port not enabled, or a message that the profile does not use, it originates none; a second message
needs the stamp of the first and takes it. -/
def execPtpMessageInterval (pf : Fin 32) (m : PtpMsg) (h : Hf) (frame : List Byte) (s : State) : Result :=
  let p := pf.val
  if pget s pidPtpClockType = 0 || pget s (pidPtpPortEnable p) = 0 || !s.fw.ready || 9212 < frame.length || !ptpAllowed s m frame then .next s
  else
    let stamp := match followed m with
      | none => some []
      | some ty => ownStamp s p ty
    match stamp with
    | none => .next s
    | some r =>
      match enterPort s h 34 (sealFrame (ptpFrame s p m r frame)) with
      | none => .next s
      | some t => .next { t with datum := { t.datum with
          txStamps := sset [] t.datum.txStamps p (dropFirst (· == r) (sget [] t.datum.txStamps p)) } }

/-! ### Links (R294, R346, R363) -/

/-- A copy in transmission is abandoned (R346). -/
def abandonTx (s : State) (port : Nat) (t : TxCopy) : State :=
  let s := pinc s (pidTmPortTxAbort port)
  if t.out.isSome then closeCopy s t.copy else discardCopy s t.copy

/-- Both copies that a port has begun are abandoned. -/
def abandonPort (s : State) (port : Nat) : State :=
  let x := getPort s port
  let s := modPort s port fun x => { x with tx := none, held := none, link := false }
  (x.tx.toList ++ x.held.toList).foldl (fun s t => abandonTx s port t) s

/-- Every queued copy of a port is discarded (R346). -/
def flushQueues (s : State) (port : Nat) : State :=
  (List.range 16).foldl (fun s q =>
    let cs := getQueue s (qKey port q 0)
    cs.foldl (fun s c => discardCopy (pinc s (pidTmPortDownDrop port)) c) (setQueue s (qKey port q 0) [])) s

/-- The logical port of a line port is down: no member of its group has a link (R288). -/
def logicalDown (s : State) (q : Nat) : Bool :=
  (List.range 32).all fun x => logicalPort s x != q || !(getPort s x).link

/-- What follows when a line port's link goes down (R294, R346, R363). -/
def linkDown (s : State) (p : Nat) : State :=
  let s := (List.range 32).foldl (fun s l => if lanePort l = p then squelchLane s l else s) (abandonPort s p)
  let s := if pget s (pidTmPortDownAction p) = 0 then flushQueues s p else s
  let q := logicalPort s p
  if logicalDown s q && pget s (pidTblMacFlushOnDown q) = 1 then issueEv s (hIdx (portHalf p)) [] (.flushPort q) else s

/-- A line port's link goes down; one that is down stays so (R346). -/
def execLinkDown (pf : Fin 32) (s : State) : Result :=
  if (getPort s pf.val).link then .next (linkDown s pf.val) else .next s

/-- A line port's link comes up: verification starts again, and SyncE outputs of its lanes start their hold-off (R294, R339, R363). A port that
does not exist, or that the Registrar keeps down, has no link. -/
def execLinkUp (pf : Fin 32) (s : State) : Result :=
  let p := pf.val
  if portTypeOf p = 0 || s.fw.portsDown || !s.fw.resetN || (getPort s p).link then .next s
  else
    let s := modPort s p fun x => { x with link := true, verify := 0 }
    .next ((List.range 32).foldl (fun s l => if lanePort l = p then synceReturn s l else s) s)

end Sys2Proof.Machine
end

