-- ==== Sys2Proof/Machine/HostRings.lean ====
section
/-! DEFINITION. The host's registers, rings and doorbells, the acceptance and completion of commands, and the commands of group 0x01
(R396 to R410, R415 to R417, R421 to R423). -/

namespace Sys2Proof.Machine

/-! ### Command rings (R399 to R405) -/

def getRing (s : State) (n : Nat) : Ring := sget {} s.host.rings n

def modRing (s : State) (n : Nat) (f : Ring → Ring) : State := { s with host := { s.host with rings := smod {} s.host.rings n f } }

/-- Entries of a ring (R400). -/
def Ring.size (r : Ring) : Nat := 2 ^ r.log2n

/-- Entries from index `a` to index `b` of a ring of `n`. -/
def ringDistance (n a b : Nat) : Nat := (b + n - a % n) % n

/-- A ring is disabled: nothing that is running on it or waits for its completion is written (R405). -/
def quietRing (s : State) (n : Nat) : State :=
  let s := modRing s n fun r => { r with enable := false, running := none }
  { s with host := { s.host with done := s.host.done.filter fun x => match x.iface with
      | .ring k => k.val != n
      | .service => true } }

/-- A ring is disabled, and its bank locks are freed (R260, R405). -/
def disableRing (s : State) (n : Nat) : State := abandonMaster (quietRing s n) (0xF00 + n)

/-- A ring is stopped by an access error (R404): a stopped ring counts as disabled. -/
def stopRing (s : State) (n cause : Nat) : State :=
  settleAttn (modRing (disableRing s n) n fun r => { r with error := true, cause := cause })

/-- The indices of an enabled ring that lie at N or above stop it (R400, R404). -/
def checkRing (s : State) (n : Nat) : State :=
  let r := getRing s n
  if r.enable && (r.size ≤ r.sqTail || r.size ≤ r.cqHead) then stopRing s n 3 else s

/-- What the device sets when a ring is enabled (R400). -/
def Ring.start (r : Ring) : Ring :=
  { r with enable := true, error := false, cause := 0, sqHead := 0, cqTail := 0, phase := true, running := none, cq := [] }

/-- Indices that were written while BUSY was high take effect when it falls (R398). -/
def checkRings (s : State) : State := (List.range 8).foldl checkRing s

/-- Checks at once, unless BUSY is high. -/
def checkUnlessBusy (s : State) (n : Nat) : State := if s.fw.busy then s else checkRing s n

/-- A write of CMD_CFG (R399, R400): LOG2N while the ring is disabled; ENABLE = 1 with LOG2N from 4 to 12 enables a disabled ring. -/
def writeCmdCfg (s : State) (n : Nat) (v : BitVec 32) : State :=
  if (getRing s n).enable then s
  else
    let l := v.toNat % 32
    let s := modRing s n fun r => { r with log2n := l }
    if v.getLsbD 31 && 4 ≤ l && l ≤ 12 then settleAttn (checkUnlessBusy (modRing s n Ring.start) n) else s

/-- A write of ENABLE to CMD_CFG (R400). -/
def execCmdCfgEnable (n : Fin 8) (v : BitVec 32) (s : State) : Result := if s.host.link then .next (writeCmdCfg s n.val v) else .next s

/-- A write of SQ_TAIL (R399, R403). -/
def writeSqTail (s : State) (n : Nat) (v : Nat) : State := checkUnlessBusy (modRing s n fun r => { r with sqTail := v }) n

def execCmdSqTailWrite (n : Fin 8) (v : BitVec 16) (s : State) : Result :=
  if s.host.link then .next (writeSqTail s n.val v.toNat) else .next s

/-- A message for a source whose entries a doorbell has consumed in part (R421). -/
def rearm (s : State) (b consumed : Nat) : State :=
  let s := settleAttn s
  if consumed != 0 && (attnPending s).getLsbD b then sendMsix s b else s

/-- A write of CQ_HEAD consumes completions (R421). -/
def writeCqHead (s : State) (n v : Nat) : State :=
  let r := getRing s n
  let k := min r.cq.length (ringDistance r.size r.cqHead v)
  let s := modRing s n fun r => { r with cqHead := v, cq := r.cq.drop k }
  rearm (checkUnlessBusy s n) n k

def execCmdCqHeadWrite (n : Fin 8) (v : BitVec 16) (s : State) : Result :=
  if s.host.link then .next (writeCqHead s n.val v.toNat) else .next s

/-! ### The event ring (R415) -/

/-- A write of the host head consumes events (R421). -/
def writeEventHead (s : State) (v : Nat) : State :=
  match eventRingSize s with
  | none => { s with host := { s.host with eventHead := v } }
  | some n =>
    let k := min s.host.events.length (ringDistance n s.host.eventHead v)
    rearm { s with host := { s.host with eventHead := v % n, events := s.host.events.drop k } } 8 k

def execEventDoorbellWrite (v : BitVec 16) (s : State) : Result :=
  if s.host.link then .next (writeEventHead s v.toNat) else .next s

/-- A write of EVENT_CFG: a ring that is newly enabled starts at index 0 with PHASE 1, and a disabled one holds nothing (log entry 37). -/
def writeEventCfg (s : State) (v : BitVec 32) : State :=
  let was := (eventRingSize s).isSome
  let s := { s with host := { s.host with eventCfg := v &&& 0x8000001F } }
  if was && (eventRingSize s).isSome then s
  else settleAttn { s with host := { s.host with eventHead := 0, eventTail := 0, eventPhase := true, events := [] } }

/-! ### Packet rings (R416, R417) -/

/-- A write of a transmit ring's producer index; one out of range stops the ring (R404, R416). -/
def writeTxDoorbell (s : State) (n v : Nat) : State :=
  let bad := pget s (pidHostTxringEnable n) = 1 && pget s (pidHostTxringEntries n) ≤ v
  settleAttn { s with host := { s.host with
    txRings := smod {} s.host.txRings n fun r => { r with prod := v, stopped := r.stopped || bad } } }

def execTxDoorbellWrite (n : Fin 4) (v : BitVec 16) (s : State) : Result :=
  if s.host.link then .next (writeTxDoorbell s n.val v.toNat) else .next s

def getRx (s : State) (n : Nat) : RxRing := sget {} s.host.rxRings n

def modRx (s : State) (n : Nat) (f : RxRing → RxRing) : State := { s with host := { s.host with rxRings := smod {} s.host.rxRings n f } }

/-- An index of a receive ring is out of range. -/
def rxBad (s : State) (n v : Nat) : Bool := pget s (pidHostRxringEnable n) = 1 && pget s (pidHostRxringEntries n) ≤ v

/-- A write of POSTED gives buffers to the device (R417). -/
def writeRxPosted (s : State) (n v : Nat) : State :=
  settleAttn (modRx s n fun r => { r with posted := v, stopped := r.stopped || rxBad s n v })

def execRxDoorbellPosted (n : Fin 16) (v : BitVec 16) (s : State) : Result :=
  if s.host.link then .next (writeRxPosted s n.val v.toNat) else .next s

/-- A write of CONSUMED acknowledges descriptors (R417, R421). -/
def writeRxConsumed (s : State) (n v : Nat) : State :=
  let r := getRx s n
  let k := min r.descs.length (ringDistance (pget s (pidHostRxringEntries n)) r.consumed v)
  let s := modRx s n fun r => { r with consumed := v, descs := r.descs.drop k, stopped := r.stopped || rxBad s n v }
  rearm s 9 k

def execRxDoorbellConsumed (n : Fin 16) (v : BitVec 16) (s : State) : Result :=
  if s.host.link then .next (writeRxConsumed s n.val v.toNat) else .next s

/-! ### The other registers (R397, R398, R421) -/

/-- A write of ATTN_MASK: a source that becomes unmasked while pending sends its message (R421). -/
def writeAttnMask (s : State) (v : BitVec 32) : State := settleAttn { s with host := { s.host with attnMask := v &&& 0xFFF } }

def execAttnMaskWrite (v : BitVec 32) (s : State) : Result := if s.host.link then .next (writeAttnMask s v) else .next s

/-- A write to the registers of command ring n: base, configuration, doorbell (R398). -/
def writeRingReg (s : State) (n r : Nat) (v : BitVec 32) : State :=
  if r = 0 then modRing s n fun x => { x with baseLo := v &&& 0xFFFFF000 }
  else if r = 1 then modRing s n fun x => { x with baseHi := v }
  else if r = 2 then writeCmdCfg s n v
  else writeCqHead (writeSqTail s n (v.toNat % 65536)) n (v.toNat / 65536)

/-- A write of 32 bits at an offset of BAR0; read-only registers, unlisted offsets and unaligned ones ignore it (R397, R398). -/
def bar0Write (s : State) (off : Nat) (v : BitVec 32) : State :=
  let host (f : HostIf → HostIf) : State := { s with host := f s.host }
  if off % 4 != 0 then s
  else if off = 0x18 then host fun h => { h with scratch := v }
  else if off = 0x24 then writeAttnMask s v
  else if off = 0x2C then host fun h => { h with msixMode := v &&& 1 }
  else if off = 0x30 then host fun h => { h with eventBaseLo := v &&& 0xFFFFF000 }
  else if off = 0x34 then host fun h => { h with eventBaseHi := v }
  else if off = 0x38 then writeEventCfg s v
  else if off = 0x3C then writeEventHead s (v.toNat % 65536)
  else if 0x100 ≤ off && off < 0x180 then writeRingReg s ((off - 0x100) / 16) ((off - 0x100) % 16 / 4) v
  else if 0x200 ≤ off && off < 0x210 then writeTxDoorbell s ((off - 0x200) / 4) (v.toNat % 65536)
  else if 0x220 ≤ off && off < 0x260 then
    writeRxConsumed (writeRxPosted s ((off - 0x220) / 4) (v.toNat % 65536)) ((off - 0x220) / 4) (v.toNat / 65536)
  else if 0x8000 ≤ off && off < 0x8100 then host fun h => { h with msixTable := sset 0 h.msixTable ((off - 0x8000) / 4) v }
  else s

/-- REGISTER_WRITE (R398). -/
def execRegisterWrite (off : BitVec 16) (v : BitVec 32) (s : State) : Result :=
  if s.host.link then .next (bar0Write s off.toNat v) else .next s

/-! ### Register views (R398, R399) -/

def devId (s : State) : Nat := 0x1600B000 + 16 * s.fuses.grade.toNat

/-- FW_VERSION, 0 until ready. -/
def fwVersion (s : State) : Nat := if s.fw.ready || s.fw.pause then s.fw.version else 0

/-- DEV_STATE (R399). -/
def devState (s : State) : Nat :=
  b2n s.fw.busy * 2 ^ 31 + b2n s.fw.ready * 2 ^ 30 + b2n s.fw.recovery * 2 ^ 29 + b2n s.fw.trial * 2 ^ 28
    + s.fw.bootStep % 16 * 2 ^ 24 + popcount s.hbm.healthy.toNat 16 * 2 ^ 16
    + ((List.range 17).filter fun k => (getStn s k).st = 0).length * 2 ^ 8

/-- LINK_INFO (R399). -/
def linkInfo (s : State) : Nat :=
  b2n s.host.cxl * 2 ^ 31 + b2n s.host.ide * 2 ^ 30 + s.host.width.toNat * 2 ^ 16 + s.host.rate.toNat * 2 ^ 8

/-- FUSE_PERMIT (R399). -/
def fusePermit (s : State) : Nat :=
  b2n s.fuses.debug * 2 ^ 31 + b2n s.fuses.crypto * 2 ^ 30 + b2n s.fuses.inPlace * 2 ^ 29 + s.fuses.svcGroups.toNat * 2 ^ 16
    + s.fuses.hostGroups.toNat

/-- CMD_CFG of a ring (R399). -/
def Ring.cfg (r : Ring) : Nat := b2n r.enable * 2 ^ 31 + b2n r.error * 2 ^ 30 + r.cause * 2 ^ 24 + r.log2n

/-- The registers of command ring n as they read: base, configuration, doorbell (R398). -/
def readRingReg (s : State) (n r : Nat) : Nat :=
  let x := getRing s n
  if r = 0 then x.baseLo.toNat
  else if r = 1 then x.baseHi.toNat
  else if r = 2 then x.cfg
  else x.cqHead * 2 ^ 16 + x.sqTail

/-- TX_DOORBELL as it reads: the consumer index above the producer index (R416). -/
def TxRing.reg (r : TxRing) : Nat := r.cons * 2 ^ 16 + r.prod

/-- What a 4-byte read of BAR0 answers: the registers, the MSI-X table, its pending bits (no message is ever held back, log entry 37), and 0
elsewhere (R397, R398). No command of the table carries a BAR0 read; this is the view the host has. -/
def bar0Read (s : State) (off : Nat) : Nat :=
  if off % 4 != 0 then 0
  else if off = 0x00 then devId s
  else if off = 0x04 then s.fuses.serial.toNat % 2 ^ 32
  else if off = 0x08 then s.fuses.serial.toNat / 2 ^ 32
  else if off = 0x0C then fwVersion s
  else if off = 0x10 then devState s
  else if off = 0x14 then linkInfo s
  else if off = 0x18 then s.host.scratch.toNat
  else if off = 0x1C then fusePermit s
  else if off = 0x20 then attnStatus s
  else if off = 0x24 then s.host.attnMask.toNat
  else if off = 0x28 then (attnPending s).toNat
  else if off = 0x2C then s.host.msixMode.toNat
  else if off = 0x30 then s.host.eventBaseLo.toNat
  else if off = 0x34 then s.host.eventBaseHi.toNat
  else if off = 0x38 then s.host.eventCfg.toNat
  else if off = 0x3C then s.host.eventTail * 2 ^ 16 + s.host.eventHead
  else if 0x100 ≤ off && off < 0x180 then readRingReg s ((off - 0x100) / 16) ((off - 0x100) % 16 / 4)
  else if 0x200 ≤ off && off < 0x210 then (sget {} s.host.txRings ((off - 0x200) / 4)).reg
  else if 0x220 ≤ off && off < 0x260 then
    let r := getRx s ((off - 0x220) / 4)
    r.consumed * 2 ^ 16 + r.posted
  else if 0x8000 ≤ off && off < 0x8100 then (sget 0 s.host.msixTable ((off - 0x8000) / 4)).toNat
  else 0

/-! ### Acceptance (R401 to R404, R406, R408) -/

/-- The opcodes of R410. -/
def opcodeKnown (op : Nat) : Bool :=
  let n := op % 256
  match op / 256 with
  | 1 => n ≤ 3
  | 2 => n ≤ 1
  | 3 => n ≤ 6
  | 4 => n ≤ 3
  | 5 => n ≤ 6
  | 6 => n ≤ 2
  | 7 => n ≤ 9
  | 8 => n ≤ 5
  | 9 => n ≤ 2
  | _ => false

/-- The header of a command packet (R406). -/
def runningOf (s : State) (bytes : List Byte) (cap addr : Nat) : Running :=
  { replyAddr := addr, opcode := leAt bytes 0 2, flags := BitVec.ofNat 16 (leAt bytes 2 2), tag := BitVec.ofNat 32 (leAt bytes 4 4),
    rsvd := BitVec.ofNat 32 (leAt bytes 12 4), params := bytes.drop 16, since := s.clk, replyCap := cap }

/-- Steps 1 and 2 of R408 on a packet of `len` bytes: the status that refuses it. -/
def headerStatus (bytes : List Byte) (len : Nat) : Option Nat :=
  if len < 16 || len != 16 + leAt bytes 8 4 || leAt bytes 12 4 != 0 then some stBadParam
  else if !opcodeKnown (leAt bytes 0 2) then some stBadOpcode
  else none

/-- The fields of a submission entry lie in their ranges (R401). -/
def entryOk (e : List Byte) : Bool :=
  leAt e 0 8 % 8 = 0 && 16 ≤ leAt e 8 4 && leAt e 8 4 ≤ 1048576 && leAt e 12 4 ≤ 65536
    && (leAt e 12 4 = 0 || leAt e 16 8 % 8 = 0) && zeros e 24 8

/-- A reply that the acceptance itself gives. -/
def answerRunning (s : State) (i : Iface) (r : Running) (st : Nat) : State :=
  let x : Reply := { iface := i, opcode := r.opcode, status := st, tag := r.tag }
  { s with host := { s.host with done := s.host.done ++ [x] } }

/-- A command is running on ring n. -/
def ringRuns (s : State) (n : Nat) (r : Running) : State :=
  modRing s n fun x => { x with running := some r, sqHead := (x.sqHead + 1) % x.size }

/-- The command at the submission head of ring n, as host memory answered (R401, R404, R408). -/
def acceptRing (s : State) (nf : Fin 8) (f : Fetched) : State :=
  let n := nf.val
  let failed (e : List Byte) (st : Nat) : State :=
    let r : Running := { since := s.clk, replyCap := leAt e 12 4 }
    answerRunning (ringRuns s n r) (.ring nf) r st
  match f with
  | .entryFailed => stopRing s n 1
  | .packetTimeout e => failed e stTimeout
  | .packetPoison e => failed e stHwFault
  | .packet e bytes =>
    if !entryOk e then failed e stBadParam
    else
      let r := runningOf s bytes (leAt e 12 4) (leAt e 16 8)
      let s := ringRuns s n r
      match headerStatus bytes (leAt e 8 4) with
      | some st => answerRunning s (.ring nf) r st
      | none => s
  | .fromService => s

/-- The base of a command ring (R398, R400). -/
def Ring.base (r : Ring) : Nat := r.baseHi.toNat * 2 ^ 32 + r.baseLo.toNat

/-- The command at the submission head of ring n as the device reads it over PCIe, from the host region of HBM; none when an address lies
elsewhere (R379, R396, R404). -/
def fetchPcie (s : State) (n : Nat) : Option Fetched :=
  let r := getRing s n
  let a := r.base + 32 * r.sqHead
  let e := pcieBytes s a 32
  let cmd := leAt e 0 8
  let len := leAt e 8 4
  if !inHost s a 32 then none
  else if rangePoisoned s a 32 then some .entryFailed
  else if !inHost s cmd len || (leAt e 12 4 != 0 && !inHost s (leAt e 16 8) (leAt e 12 4)) then none
  else if !entryOk e then some (.packet e [])
  else if rangePoisoned s cmd len then some (.packetPoison e)
  else some (.packet e (pcieBytes s cmd len))

/-- A ring's next command is accepted: as host memory answered, or over PCIe as HBM holds it (R396, R404). -/
def acceptFrom (s : State) (n : Fin 8) (f : Fetched) : State :=
  if s.host.cxl then acceptRing s n f
  else match fetchPcie s n.val with
    | none => stopRing s n.val 4
    | some f => acceptRing s n f

/-- The command at the head of the service port's queue (R408, R419). -/
def acceptService (s : State) : State :=
  match s.host.svc.queue with
  | [] => s
  | (sa, bytes) :: rest =>
    let r := runningOf s bytes 65536 0
    let s := { s with host := { s.host with svc := { s.host.svc with queue := rest, running := some (sa, r), pendingAt := s.clk } } }
    match headerStatus bytes bytes.length with
    | some st => answerRunning s .service r st
    | none => s

/-- Interface k, 0 to 7 a ring and 8 the service port, has a command to accept (R400, R403). -/
def ifaceReady (s : State) (k : Nat) : Bool :=
  if k < 8 then
    let r := getRing s k
    r.enable && r.running.isNone && r.sqTail != r.sqHead
  else !s.host.svc.queue.isEmpty && s.host.svc.running.isNone

/-- COMMAND_ACCEPT: round-robin after the interface last accepted (R403). -/
def execCommandAccept (f : Fetched) (s : State) : Result :=
  if !accepting s then .next s
  else
    match roundRobin 9 s.host.lastAcc (ifaceReady s) with
    | none => .next s
    | some k =>
      let s := { s with host := { s.host with lastAcc := k } }
      if h : k < 8 then .next (acceptFrom s ⟨k, h⟩ f) else .next (acceptService s)

/-! ### Completion (R402, R404, R405, R407, R419) -/

/-- A reply packet (R407). -/
def replyPacket (r : Reply) : List Byte :=
  leBytes 2 r.opcode ++ leBytes 2 r.status ++ leBytes 4 r.tag.toNat ++ leBytes 4 r.payload.length ++ leBytes 4 0 ++ r.payload

/-- The completion entry of a reply on a ring (R402, R407). -/
def completionOf (ring : Ring) (run : Running) (r : Reply) : Completion :=
  let packet := replyPacket r
  let sent := if run.replyCap < 16 then [] else packet.take run.replyCap
  { tag := run.tag, status := r.status, sqHead := ring.sqHead, replyLen := sent.length, phase := ring.phase,
    truncated := run.replyCap < packet.length, opcode := run.opcode, reply := sent }

/-- A ring after its completion entry has been written. -/
def Ring.complete (ring : Ring) (c : Completion) : Ring :=
  let t := (ring.cqTail + 1) % ring.size
  { ring with running := none, cqTail := t, phase := if t = 0 then !ring.phase else ring.phase, cq := ring.cq ++ [c] }

/-- A completion entry (R402). -/
def completionBytes (c : Completion) : List Byte :=
  leBytes 4 c.tag.toNat ++ leBytes 2 c.status ++ leBytes 2 c.sqHead ++ leBytes 4 c.replyLen ++ leBytes 2 (b2n c.phase + 2 * b2n c.truncated)
    ++ leBytes 2 c.opcode

/-- The reply packet, then the completion entry, written over PCIe into the host region of HBM; an address elsewhere stops the ring (R396, R402,
R404). -/
def writePcie (s : State) (n : Nat) (run : Running) (c : Completion) : State :=
  let ring := getRing s n
  let a := ring.base + 32 * ring.size + 16 * ring.cqTail
  if !inHost s a 16 then stopRing s n 4
  else
    let s := if c.reply.isEmpty then s else writeHdm s run.replyAddr c.reply
    settleAttn (modRing (writeHdm s a (completionBytes c)) n fun x => x.complete c)

/-- The reply of a ring's command: written, or its write fails and stops the ring (R402, R404). A reply to a command that the ring no longer
runs is not written (R405). -/
def completeRing (s : State) (n : Nat) (r : Reply) (w : WriteEnd) : State :=
  let ring := getRing s n
  match ring.running with
  | none => s
  | some run =>
    let c := completionOf ring run r
    if !(run.tag = r.tag && run.opcode = r.opcode) then s
    else if !s.host.cxl then writePcie s n run c
    else match w with
      | .ok => settleAttn (modRing s n fun x => x.complete c)
      | .failed => stopRing s n 2

/-- The reply of the service port's command is sent and kept among the last 16 (R419). -/
def completeService (s : State) (r : Reply) : State :=
  let v := s.host.svc
  match v.running with
  | none => s
  | some (sa, run) =>
    let p := replyPacket r
    { s with host := { s.host with svc := { v with
        running := none
        last16 := ((sa, run.tag, p) :: v.last16).take 16
        sent := ((sa, p) :: v.sent).take 16 } } }

/-- The oldest reply of an interface. -/
def firstReply (s : State) (i : Iface) : Option Reply := s.host.done.find? fun r => r.iface == i

/-- COMMAND_COMPLETE: the oldest reply of the interface is written (R402). -/
def execCommandComplete (i : Iface) (w : WriteEnd) (s : State) : Result :=
  match firstReply s i with
  | none => .next s
  | some r =>
    let s := { s with host := { s.host with done := dropFirst (fun x => x.iface == i) s.host.done } }
    match i with
    | .ring n => .next (completeRing s n.val r w)
    | .service => .next (completeService s r)

/-! ### Group 0x01 (R410) -/

/-- NOP echoes its parameters. -/
def execNop (h : CmdHdr) (ps : List Byte) (s : State) : Result :=
  hostCmd s h 0x0100 0 fun s => if 256 < ps.length then refuse s stBadParam else answer s ps

/-- The type of each line port (R410). -/
def portTypes : List Byte := (List.range 32).map fun p => BitVec.ofNat 8 (portTypeOf p)

/-- DEVICE_INFO. -/
def execDeviceInfo (h : CmdHdr) (ps : List Byte) (s : State) : Result :=
  hostCmdN s h 0x0101 0 ps 0 fun s =>
    let comps := (List.range 6).flatMap fun i => leBytes 4 (s.fw.components.getD i 0)
    answer s (leBytes 4 (devId s) ++ leBytes 8 s.fuses.serial.toNat ++ leBytes 4 (fwVersion s) ++ leBytes 4 (fusePermit s)
      ++ leBytes 4 (linkInfo s) ++ leBytes 8 s.fuses.rollback ++ comps ++ leBytes 8 0 ++ portTypes ++ leBytes 32 0)

/-- DEVICE_STATUS. -/
def execDeviceStatus (h : CmdHdr) (ps : List Byte) (s : State) : Result :=
  hostCmdN s h 0x0102 0 ps 0 fun s =>
    let half (k : Hf) := leBytes 1 (boundState s k) ++ leBytes 1 (boundReason s k)
    answer s (leBytes 4 (devState s) ++ leBytes 2 (ofSigned 16 s.env.tjMax) ++ leBytes 2 0 ++ half .west ++ half .east ++ leBytes 4 0
      ++ ((List.range 17).flatMap fun k => leBytes 1 (getStn s k).st) ++ leBytes 31 0)

/-- RING_CONTROL: the locks are freed before the reply (R260); a ring that is reset starts again with all its indices 0 (R410; log
entry 37). A command that disables its own ring gets no completion (R405). -/
def execRingControl (h : CmdHdr) (ps : List Byte) (s : State) : Result :=
  hostCmdN s h 0x0103 0 ps 4 fun s =>
    let n := leAt ps 0 1
    let op := leAt ps 1 1
    if 7 < n || 1 < op || !zeros ps 2 2 then refuse s stBadParam
    else
      let s := disableRing s n
      let s := if op = 1 then modRing s n fun r => { r.start with sqTail := 0, cqHead := 0 } else s
      let own := match h.iface with
        | .ring k => k.val == n
        | .service => false
      if own then (settleAttn s, none) else answer (settleAttn s) []

/-! ### The host reset (R405, R422, R445) -/

/-- Every command, packet and event ring is disabled, and ATTN_MASK takes its reset value. -/
def disableAll (s : State) : State :=
  let s := (List.range 8).foldl disableRing s
  let s := (List.range 4).foldl (fun s n => pset s (pidHostTxringEnable n) 0) s
  let s := (List.range 16).foldl (fun s n => pset s (pidHostRxringEnable n) 0) s
  settleAttn { s with host := { s.host with
    attnMask := 0xFFF, txRings := [], rxRings := [], events := [], eventCfg := s.host.eventCfg &&& 0x1F } }

end Sys2Proof.Machine
end

