-- ==== Sys2Proof/Machine/Service.lean ====
section
/-! DEFINITION. The service port (R418, R419), SMBus, JTAG and the other management pins (R484, R486 to R488), and the host link with its
reset (R405, R422, R445). -/

namespace Sys2Proof.Machine

/-! ### Frames of the service port (R418) -/

def modSvc (s : State) (f : Service → Service) : State := { s with host := { s.host with svc := f s.host.svc } }

/-- A reply packet leaves for a requester; the frames that carry it are segmented like a command's (R418). -/
def sendTo (s : State) (sa packet : List Byte) : State := modSvc s fun v => { v with sent := ((sa, packet) :: v.sent).take 16 }

/-- A reply without payload to a command of which these bytes have come in: its opcode and tag lie in the first 8 (R407). -/
def bareReply (bytes : List Byte) (st : Nat) : List Byte :=
  replyPacket { opcode := leAt bytes 0 2, status := st, tag := BitVec.ofNat 32 (leAt bytes 4 4) }

/-- The destination that the port accepts: `svc.mac`, or broadcast for DEVICE_INFO alone (R418). -/
def svcAccepts (s : State) (bytes : List Byte) : Bool :=
  let da := bytes.take 6
  let info := beAt bytes 16 2 = 0 && leAt bytes 20 2 = 0x0101
  let head := 64 ≤ bytes.length && bytes.length ≤ 1518 && beAt bytes 12 2 = 0x88B5 && leAt bytes 14 1 = 1 && leAt bytes 15 1 = 1
  head && bytes.drop (bytes.length - 4) == fcsOf (bytes.take (bytes.length - 4))
    && (da == beBytes 6 (pget s pidSvcMac) || (da == List.replicate 6 0xFF && info))

/-- The command in reassembly is given up, with a reply that carries its tag (R419). -/
def dropReasm (s : State) (st : Nat) : State :=
  match s.host.svc.reasm with
  | none => s
  | some r => sendTo (modSvc s fun v => { v with reasm := none }) r.sa (bareReply r.bytes st)

/-- The longest command packet (R419). -/
def maxPacket : Nat := 1048576

/-- A packet of the requester with this tag is waiting or running (R419). -/
def svcPresent (v : Service) (sa : List Byte) (tag : Nat) : Bool :=
  (v.queue.any fun q => q.1 == sa && leAt q.2 4 4 = tag) || v.running.any fun r => r.1 == sa && r.2.tag.toNat = tag

/-- The reply kept for a command of the requester among the last 16 (R419). -/
def svcKept (v : Service) (sa : List Byte) (tag : Nat) : Option (List Byte) :=
  (v.last16.find? fun l => l.1 == sa && l.2.1.toNat = tag).map fun l => l.2.2

/-- A whole command packet has come in: a duplicate, one more in the queue, or one too many (R419). -/
def svcCommand (s : State) (sa packet : List Byte) : State :=
  let v := s.host.svc
  let tag := leAt packet 4 4
  match svcKept v sa tag with
  | some reply => sendTo s sa reply
  | none =>
    if svcPresent v sa tag then s
    else if v.queue.length + b2n v.running.isSome < 5 then modSvc s fun v => { v with queue := v.queue ++ [(sa, packet)] }
    else sendTo s sa (bareReply packet stBusy)

/-- The packet of a last segment ends where its header says; the rest is padding (R418). -/
def trimPacket (bytes : List Byte) : List Byte := bytes.take (16 + leAt bytes 8 4)

/-- The next segment of a command, with the bytes before it. -/
def svcSegment (s : State) (sa before : List Byte) (seg since : Nat) (more : Bool) (data : List Byte) : State :=
  let whole := before ++ data
  let s := modSvc s fun v => { v with reasm := none }
  let all := if more then whole else trimPacket whole
  if maxPacket < all.length then sendTo s sa (bareReply whole stBadParam)
  else if more then modSvc s fun v => { v with reasm := some { sa := sa, nextSeg := seg + 1, bytes := whole, since := since } }
  else svcCommand s sa all

/-- The time of the command in reassembly has run out (R419). -/
def reasmLate (s : State) : Bool := s.host.svc.reasm.any fun r => r.since + secCycles < s.clk

/-- A frame that the port accepts (R419): the segment that is expected, or a break of the order, after which segment 0 starts anew. -/
def svcFrame (s : State) (bytes : List Byte) : State :=
  let sa := bytesAt bytes 6 6
  let seg := beAt bytes 16 2
  let more := bitOf (leAt bytes 18 1) 0
  let data := (bytes.drop 20).take (bytes.length - 24)
  let s := if reasmLate s then dropReasm s stTimeout else s
  match s.host.svc.reasm with
  | some r =>
    if r.sa == sa && r.nextSeg = seg then svcSegment s sa r.bytes seg r.since more data
    else
      let s := dropReasm s stTimeout
      if seg = 0 then svcSegment s sa [] 0 s.clk more data else s
  | none => if seg = 0 then svcSegment s sa [] 0 s.clk more data else s

/-- SERVICE_FRAME_RECEIVED (R418). -/
def execServiceFrameReceived (bytes : List Byte) (s : State) : Result :=
  if !s.host.svc.link || s.fw.busy then .next s
  else if svcAccepts s bytes then .next (svcFrame s bytes)
  else .next (pinc s pidSvcRxIgnored)

/-- SERVICE_REASSEMBLY_TIMEOUT; before 1 s has gone by nothing happens (R419). -/
def execServiceReassemblyTimeout (s : State) : Result := if reasmLate s then .next (dropReasm s stTimeout) else .next s

/-- SERVICE_PENDING_REPLY: every 100 ms of a command that still runs (R419). -/
def execServicePendingReply (s : State) : Result :=
  match s.host.svc.running with
  | none => .next s
  | some (sa, r) =>
    if s.clk < s.host.svc.pendingAt + 100 * msCycles then .next s
    else
      let p := replyPacket { opcode := r.opcode, status := stPending, tag := r.tag }
      .next (sendTo (modSvc s fun v => { v with pendingAt := s.clk }) sa p)

/-! ### The link of the service port (R260) -/

def execServicePortLinkDown (s : State) : Result :=
  if s.host.svc.link then .next (modSvc s fun v => { v with link := false, downSince := some s.clk }) else .next s

/-- The port is held by RESET_N (R446). -/
def execServicePortLinkUp (s : State) : Result :=
  if s.fw.resetN then .next (modSvc s fun v => { v with link := true, downSince := none }) else .next s

/-- More than 1 s without a link frees the locks of identity 0xF10, once (R260). -/
def execServiceLinkDownTimeout (s : State) : Result :=
  match s.host.svc.downSince with
  | none => .next s
  | some t =>
    if s.clk ≤ t + secCycles then .next s
    else .next (abandonMaster (modSvc s fun v => { v with downSince := none }) 0xF10)

/-! ### SMBus (R486) -/

/-- Highest class of the latched pairs, 0 with none. -/
def highestLatched (s : State) : Nat :=
  (spresent s.flt.pairs).foldl (fun m kp => if kp.2.latched then max m kp.2.latchedCls else m) 0

/-- The bytes of a command code. -/
def smbusAnswer (s : State) (code : Nat) : List Byte :=
  match code with
  | 0 => leBytes 4 (devId s)
  | 1 => leBytes 4 (devState s)
  | 2 => leBytes 2 (ofSigned 16 s.env.tjMax)
  | 3 => leBytes 1 (b2n (faultN s) + 2 * highestLatched s + 16 * b2n s.flt.fatal)
  | 4 => leBytes 2 s.flt.supplyOut.toNat
  | _ => [0xFF]

/-- SMBUS_COMMAND: no acknowledgement while RESET_N is low; from boot step 1 on an answer. -/
def execSmbusCommand (code : Byte) (s : State) : Result :=
  let bs := if s.fw.powered && s.fw.resetN && 1 ≤ s.fw.bootStep then smbusAnswer s code.toNat else []
  .next { s with host := { s.host with smbus := bs } }

/-! ### The host link (R395, R405, R422, R445, R484, R487) -/

/-- What every host reset does: rings disabled, ATTN_MASK at its reset value, no link. -/
def hostReset (s : State) : State :=
  let s := disableAll s
  { s with host := { s.host with link := false } }

/-- The registers of BAR0 at the values that R398 gives for PERST_N. -/
def clearBar0 (s : State) : State :=
  settleAttn { s with host := { s.host with
    scratch := 0, msixMode := 0, eventBaseLo := 0, eventBaseHi := 0, eventCfg := 0, eventHead := 0, eventTail := 0, eventPhase := true
    rings := [], txRings := [], rxRings := [], msixTable := [] } }

def execPerstNAssert (s : State) : Result :=
  let s := clearBar0 (hostReset s)
  .next { s with host := { s.host with perst := true } }

def execPerstNRelease (s : State) : Result := .next { s with host := { s.host with perst := false } }

/-- HOST_LINK_LOSS: without a link there is nothing to lose. -/
def execHostLinkLoss (s : State) : Result := if s.host.link then .next (hostReset s) else .next s

/-- The rates and widths that the link supports (R395). -/
def linkSupported (width rate : Byte) : Bool := (width == 16 || width == 8) && (rate == 64 || rate == 32 || rate == 16)

/-- HOST_LINK_TRAINED: from boot step 5 on, with PERST_N released (R449, R484). -/
def execHostLinkTrained (cxl ide : Bool) (width rate : Byte) (s : State) : Result :=
  if s.fw.resetN && 5 ≤ s.fw.bootStep && !s.host.perst && linkSupported width rate then
    .next { s with host := { s.host with link := true, cxl := cxl, ide := ide, width := width, rate := rate } }
  else .next s

/-! ### JTAG (R488) -/

/-- Version 1, part 0x1600, the maker's code, and the bit that IEEE 1149.1 sets. -/
def idcode : Nat := 2 ^ 28 + 0x1600 * 2 ^ 12 + Config.jtagMaker.toNat * 2 + 1

def setJtag (s : State) (v : Nat) : State := { s with env := { s.env with jtag := BitVec.ofNat 32 v } }

/-- The debugger's identity (R131). -/
def debuggerId : Nat := 0xFFD

/-- JTAG_ACCESS: without the debug fuse only IDCODE and boundary scan are offered (R272, R488); lock accesses are those of identity 0xFFD
(R255, R256). -/
def execJtagAccess (op : JtagOp) (s : State) : Result :=
  match op with
  | .idcode => .next (setJtag s idcode)
  | .boundaryScan => .next s
  | .extest => .next { s with env := { s.env with extest := true } }
  | .lockRead g w =>
    if s.fuses.debug && lockPermitted s debuggerId g.val then .next (setJtag s (lockWord s (64 * g.val + w.val)).toNat) else .next s
  | .lockWrite g w v =>
    let i := 64 * g.val + w.val
    if s.fuses.debug && (lockPermitted s debuggerId g.val || lockAlways s debuggerId i v.toNat) then
      .next (lockWrite s debuggerId i v.toNat 0 false).1
    else .next s

/-! ### Pin levels (R421, R436, R446, R487) -/

/-- ATTN_N is driven low. -/
def attnN (s : State) : Bool := s.fw.resetN && attnPending s != 0

/-- WAKE_N is asserted. -/
def wakeN (s : State) : Bool := s.fw.resetN && !s.host.link && attnPending s != 0

/-- The level of a GPIO pin: an input follows the board. -/
def gpioLevel (s : State) (n : Nat) : Bool :=
  match pget s (pidHostGpioFunc n) with
  | 1 => bitOf (pget s pidHostGpioOut) n
  | 2 => (getPort s (16 + n)).link
  | _ => Config.gpioPin n s.clk

/-- `host.gpio.in`: the pin levels, whatever their function. -/
def gpioIn (s : State) : Nat := (List.range 16).foldl (fun m n => m + b2n (gpioLevel s n) * 2 ^ n) 0

end Sys2Proof.Machine
end

