-- ==== Sys2Proof/Machine/Code.lean ====
section
/-! DEFINITION. Instruction words as the Registrar reads them in an image (R153 to R201): width, guard, undefined encodings, registers and
predicates read and written, latency, and what the verifier needs to know of each. -/

namespace Sys2Proof.Machine

/-- The producers that R219 gives an interval of their own; the rest give the full range. -/
inductive Src where
  | const (n : Nat)
  | movhi (rd n : Nat)
  | add (a b : Nat)
  | sub (a b : Nat)
  | addi (a : Nat) (i : Int)
  | mul (a b : Nat)
  | shl (a b : Nat)
  | shi (kind a n : Nat)
  | andc (a c : Nat)
  | and (a b : Nat)
  | ext (a pos len : Nat)
  | any
  deriving DecidableEq, Repr

/-- What an instruction does, as far as verification asks. Registers are numbers; `dest` is a byte offset in the operation's code. -/
inductive Act where
  | plain (v : Src)
  | load (rd base : Nat) (off : Int) (width : Nat) (signed pi : Bool)
  | store (base : Nat) (off : Int) (width : Nat) (pi : Bool)
  | cpy (gd gs width : Nat)
  | atom (ra : Nat)
  | branch (dest : Nat)
  | rep (cap : Nat)
  | wait (mask tsel : Nat)
  | endOp
  | trap
  | hlock (flag : Nat)
  | hfree
  | chw (ch : Nat)
  | che (ch : Nat)
  | chp
  | crc (ga width : Nat) (pi : Bool)
  | fcmp (ga gb n : Nat)
  | lkup (kind gs tbl slot flag : Nat)
  | lread (tbl slot flag : Nat)
  | learn (gs tbl : Nat)
  | cnt (tbl : Nat)
  | crypto (hmac : Bool) (gp slot flag lim : Nat)
  | unassigned
  | other
  deriving DecidableEq, Repr

/-- An instruction of an image, at a byte offset of its operation's code. -/
structure Insn where
  off : Nat := 0
  size : Nat := 2
  pred : Nat := 0
  neg : Bool := false
  bad : Bool := false
  act : Act := .other
  /-- Registers read and written, and predicates read and written. -/
  rr : List Nat := []
  rw : List Nat := []
  pr : List Nat := []
  pw : List Nat := []
  lat : Nat := 2
  deriving DecidableEq, Repr

/-- The instruction executes whatever the predicates are. -/
def Insn.always (i : Insn) : Bool := i.pred = 0 && !i.neg

/-- An undefined encoding. -/
def Insn.undef (i : Insn) : Insn := { i with bad := true }

/-! ### Short forms (R158) -/

/-- A short form of word `w`. -/
def decodeShort (off w : Nat) : Insn :=
  let sop := bitsOf w 11 4
  let i : Insn := { off := off, size := 2, pred := if sop = 15 then 0 else bitsOf w 10 1 }
  let rd := bitsOf w 7 3
  let rs := bitsOf w 4 3
  let rt := bitsOf w 1 3
  let sw := bitOf w 0
  let alu (v : Src) : Insn := { i with act := .plain v, rr := [rs, rt], rw := [rd] }
  match sop with
  | 0 =>
    let sub := bitsOf w 6 4
    if bitsOf w 0 6 != 0 then i.undef
    else if sub = 0 then i
    else if sub = 1 then { i with act := .endOp }
    else i.undef
  | 1 => if bitsOf w 0 4 != 0 then i.undef else { i with act := .plain .any, rr := [rs], rw := [rd] }
  | 2 => alu (if sw then .sub rs rt else .add rs rt)
  | 3 => alu (if sw then .any else .and rs rt)
  | 4 => alu .any
  | 5 => { i with act := .plain (.addi rd (toSigned 7 (bitsOf w 0 7))), rr := [rd], rw := [rd] }
  | 6 => { i with act := .plain (.const (bitsOf w 0 7)), rw := [rd] }
  | 7 => { i with act := .plain (.shi (bitsOf w 5 2) rd (bitsOf w 0 5)), rr := [rd], rw := [rd] }
  | 8 => { i with act := .load rd rs (4 * bitsOf w 0 4 : Nat) 4 false false, rr := [rs], rw := [rd] }
  | 9 => { i with act := .store rs (4 * bitsOf w 0 4 : Nat) 4 false, rr := [rd, rs] }
  | 10 => { i with act := .load rd rs (bitsOf w 0 4 : Nat) 1 false false, rr := [rs], rw := [rd] }
  | 11 => { i with act := .store rs (bitsOf w 0 4 : Nat) 1 false, rr := [rd, rs] }
  | 12 => { i with rr := [rs, rt], pr := if sw then [1] else [], pw := [1] }
  | 13 => { i with rr := [rs], pw := [1] }
  | 14 => { i with act := .branch (off + 2 + 2 * bitsOf w 0 10) }
  | _ => { i with act := .rep (bitsOf w 0 8), rr := [bitsOf w 8 3] }

/-! ### Long forms (R159 to R201) -/

/-- The ALU functions of MAJOR 0x00 (R160): their interval, none where reserved. -/
def aluSrc (f rs rt : Nat) : Option Src :=
  if f = 0 then some (.add rs rt)
  else if f = 1 then some (.sub rs rt)
  else if f = 2 then some (.and rs rt)
  else if f = 6 then some (.shl rs rt)
  else if f = 14 then some (.mul rs rt)
  else if f = 18 then some (.ext rs 0 8)
  else if f = 19 then some (.ext rs 0 16)
  else if f < 22 then some .any
  else none

/-- MAJOR 0x00 to 0x0B. -/
def decodeAlu (i : Insn) (major w : Nat) : Insn :=
  let rd := bitsOf w 17 4
  let rs := bitsOf w 13 4
  let rt := bitsOf w 9 4
  let pd := bitsOf w 18 3
  let imm := bitsOf w 0 13
  match major with
  | 0x00 =>
    let f := bitsOf w 0 9
    match aluSrc f rs rt with
    | none => i.undef
    | some v =>
      if 16 ≤ f && rt != 0 then i.undef
      else { i with act := .plain v, rr := [rs, rt], rw := [rd], lat := if f = 14 || f = 15 then 4 else 2 }
  | 0x01 => { i with act := .plain (.addi rs (toSigned 13 imm)), rr := [rs], rw := [rd] }
  | 0x02 => { i with act := .plain (.andc rs imm), rr := [rs], rw := [rd] }
  | 0x03 => { i with act := .plain .any, rr := [rs], rw := [rd] }
  | 0x04 => { i with act := .plain .any, rr := [rs], rw := [rd] }
  | 0x05 =>
    if bitsOf w 5 6 != 0 then i.undef
    else { i with act := .plain (.shi (bitsOf w 11 2) rs (bitsOf w 0 5)), rr := [rs], rw := [rd] }
  | 0x06 =>
    if bitOf w 16 then { i with act := .plain (.movhi rd (bitsOf w 0 16)), rr := [rd], rw := [rd] }
    else { i with act := .plain (.const (bitsOf w 0 16)), rw := [rd] }
  | 0x07 => if bitsOf w 3 6 != 0 then i.undef else { i with act := .plain .any, rr := [rs, rt], rw := [rd], pr := [bitsOf w 0 3] }
  | 0x08 =>
    let comb := bitsOf w 3 2
    if bitOf w 17 || bitsOf w 0 3 != 0 || 12 ≤ bitsOf w 5 4 || comb = 3 then i.undef
    else { i with rr := [rs, rt], pr := if comb = 0 then [] else [pd], pw := [pd] }
  | 0x09 =>
    let comb := bitsOf w 16 2
    if 12 ≤ bitsOf w 8 4 || comb = 3 then i.undef
    else { i with rr := [bitsOf w 12 4], pr := if comb = 0 then [] else [pd], pw := [pd] }
  | 0x0A =>
    let f := bitsOf w 0 3
    let pa := bitsOf w 15 3
    let pb := bitsOf w 12 3
    if bitsOf w 3 9 != 0 || f = 7 || (4 ≤ f && pb != 0) || (5 ≤ f && pa != 0) then i.undef
    else { i with pr := [pa, pb], pw := [pd] }
  | 0x0B =>
    let op := bitsOf w 11 2
    let pos := bitsOf w 5 5
    let len := bitsOf w 0 5 + 1
    if bitOf w 10 || op = 3 || 32 < pos + len then i.undef
    else if op = 0 then { i with act := .plain (.ext rs pos len), rr := [rs], rw := [rd] }
    else { i with act := .plain .any, rr := if op = 2 then [rs, rd] else [rs], rw := [rd] }
  | _ => i.undef

/-- MAJOR 0x10 to 0x26. -/
def decodeMem (i : Insn) (major w : Nat) : Insn :=
  let rd := bitsOf w 17 4
  let rs := bitsOf w 13 4
  let rt := bitsOf w 9 4
  let pi := bitOf w 12
  let off := toSigned 12 (bitsOf w 0 12)
  let ld (width : Nat) (signed : Bool) : Insn :=
    if pi && rd = rs then i.undef
    else { i with act := .load rd rs off width signed pi, rr := [rs], rw := if pi then [rd, rs] else [rd] }
  let st (width : Nat) : Insn := { i with act := .store rs off width pi, rr := [rd, rs], rw := if pi then [rs] else [] }
  match major with
  | 0x10 => ld 1 false
  | 0x11 => ld 2 false
  | 0x12 => ld 4 false
  | 0x13 => ld 1 true
  | 0x14 => ld 2 true
  | 0x15 => st 1
  | 0x16 => st 2
  | 0x17 => st 4
  | 0x18 =>
    let size := bitsOf w 11 2
    if size = 3 || bitsOf w 0 11 != 0 then i.undef else { i with act := .cpy rd rs (2 ^ size), rr := [rd, rs], rw := [rd, rs] }
  | 0x19 =>
    let f := bitsOf w 7 2
    if f = 3 || bitsOf w 0 7 != 0 then i.undef
    else { i with act := .atom rs, rr := if f = 2 then [rd, rs, rt] else [rs, rt], rw := [rd] }
  | 0x20 => if bitsOf w 17 4 != 0 then i.undef else { i with act := .branch (i.off + 4 + 2 * bitsOf w 0 17) }
  | 0x21 => { i with act := .wait (bitsOf w 5 16) (bitsOf w 0 5), pw := [7] }
  | 0x22 => if bitsOf w 4 13 != 0 then i.undef else { i with rr := [rd] }
  | 0x23 => if bitsOf w 8 13 != 0 then i.undef else { i with act := .trap }
  | 0x24 =>
    if bitsOf w 5 16 != 0 then i.undef
    else if !bitOf w 4 then { i with act := .hlock (bitsOf w 0 4) }
    else if bitsOf w 0 4 != 0 then i.undef
    else { i with act := .hfree }
  | 0x25 =>
    let ch := bitsOf w 9 8
    let op := bitsOf w 3 2
    let j : Insn := { i with rr := [rd], pw := [6], lat := 6 }
    if bitsOf w 0 3 != 0 || op = 3 then i.undef
    else if op = 0 then { j with act := .chw ch }
    else if op = 1 then { j with act := .che ch }
    else if rd != 0 || bitsOf w 5 4 != 0 then i.undef
    else { j with act := .chp }
  | 0x26 => if bitsOf w 0 21 != 0 then i.undef else { i with act := .endOp }
  | _ => i.undef

/-- MAJOR 0x30 to 0x3F (R180, R188, R192, R194, R201). -/
def decodeHelper (i : Insn) (major w : Nat) : Insn :=
  let rd := bitsOf w 17 4
  let rs := bitsOf w 13 4
  let rt := bitsOf w 9 4
  let slot := bitsOf w 10 3
  let flag := bitsOf w 6 4
  match major with
  | 0x30 =>
    let size := bitsOf w 8 2
    let pi := bitOf w 7
    if bitsOf w 0 7 != 0 || 4 ≤ bitsOf w 10 3 || size = 3 || (pi && rd = rs) then i.undef
    else { i with act := .crc rs (2 ^ size) pi, rr := [rd, rs], rw := if pi then [rd, rs] else [rd] }
  | 0x31 =>
    let f := bitsOf w 6 3
    if bitsOf w 0 6 != 0 || 4 ≤ f || (f = 3 && rt != 0) then i.undef
    else { i with act := .plain .any, rr := if f = 1 || f = 2 then [rd, rs, rt] else [rs, rt], rw := [rd] }
  | 0x32 =>
    if bitsOf w 0 6 != 0 || rt != 0 || 3 ≤ bitsOf w 6 3 then i.undef else { i with act := .plain .any, rr := [rs], rw := [rd] }
  | 0x33 =>
    if bitOf w 17 || bitsOf w 0 3 != 0 || 2 ≤ bitsOf w 3 2 then i.undef
    else { i with act := .fcmp rs rt (bitsOf w 5 4 + 1), rr := [rs, rt], pw := [bitsOf w 18 3] }
  | 0x34 =>
    if bitsOf w 0 8 != 0 || (!bitOf w 8 && rt != 0) then i.undef
    else { i with act := .plain .any, rr := [rd, rs, rt], rw := [rd], lat := 4 }
  | 0x35 => if bitsOf w 0 13 != 0 then i.undef else { i with act := .plain .any, rr := [rs], rw := [rd], lat := 4 }
  | 0x36 =>
    let kind := bitsOf w 3 3
    if bitsOf w 0 3 != 0 || 5 ≤ kind then i.undef else { i with act := .lkup kind rd rs slot flag, rr := [rd] }
  | 0x37 => if bitsOf w 0 6 != 0 then i.undef else { i with act := .lread rs slot flag, rr := [rd] }
  | 0x38 => if bitsOf w 0 13 != 0 then i.undef else { i with act := .learn rd rs, rr := [rd] }
  | 0x39 => if bitsOf w 0 9 != 0 then i.undef else { i with act := .cnt rs, rr := [rd, rt] }
  | 0x3C => { i with act := .unassigned }
  | 0x3D => { i with act := .unassigned }
  | 0x3E => { i with act := .unassigned }
  | 0x3F => { i with act := .unassigned }
  | _ =>
    let lim := bitsOf w 2 8
    if bitsOf w 0 2 != 0 || lim = 0 then i.undef
    else { i with act := .crypto (major = 0x3B) rd (bitsOf w 14 3) (bitsOf w 10 4) lim, rr := [rd] }

/-- A long form of word `w` (R155). -/
def decodeLong (off w : Nat) : Insn :=
  let major := bitsOf w 21 6
  let i : Insn := { off := off, size := 4, pred := bitsOf w 28 3, neg := bitOf w 27 }
  let i := if i.pred = 0 && i.neg then i.undef else i
  if major < 0x10 then decodeAlu i major w else if major < 0x30 then decodeMem i major w else decodeHelper i major w

/-- The guard's predicate is read, and g0 and p0 are neither waited for nor written. -/
def Insn.tidy (i : Insn) : Insn :=
  let drop (l : List Nat) : List Nat := l.filter (· != 0)
  { i with rr := drop i.rr, rw := drop i.rw, pr := drop (i.pred :: i.pr), pw := drop i.pw }

/-- A parcel of an operation's code. -/
def parcelAt (code : List Byte) (i : Nat) : Nat := leAt code (2 * i) 2

/-- The instructions of parcels from `i` on; a long form without a second parcel is undefined. -/
def decodeParcels (ps : List Nat) (i : Nat) : List Insn :=
  match ps with
  | [] => []
  | [p] => [if p < 0x8000 then (decodeShort (2 * i) p).tidy else { off := 2 * i, size := 4, bad := true }]
  | p :: q :: rest =>
    if p < 0x8000 then (decodeShort (2 * i) p).tidy :: decodeParcels (q :: rest) (i + 1)
    else (decodeLong (2 * i) (p * 65536 + q)).tidy :: decodeParcels rest (i + 2)

/-- The instructions of an operation's code (R153). -/
def decodeCode (code : List Byte) : List Insn := decodeParcels ((List.range (code.length / 2)).map (parcelAt code)) 0

/-- The operation contains an HLOCK (R204, R236). -/
def hasHlock (code : List Byte) : Bool :=
  (decodeCode code).any fun i => match i.act with
    | .hlock _ => true
    | _ => false

end Sys2Proof.Machine
end

