-- ==== Sys2Proof/Machine/Control.lean ====
section
/-! DEFINITION. Branches, REP, WAIT, SIGNAL, END, TRAP, the helper lock and the channel instructions (R167 to R179), and the events that
end a wait and a task (R173, R176). -/

namespace Sys2Proof.Machine

/-! ### Branches and REP (R167 to R170) -/

/-- A branch: the address of the following instruction plus 2 × offset (R167). -/
def branchBy (s : State) (k lane off : Nat) : State :=
  modThr s k lane fun th => { th with pc := th.pc + BitVec.ofNat 18 (2 * off) }

/-- BR. -/
def execBr (t : Tid) (p : Guard) (off : BitVec 17) (s : State) : Result :=
  issue s t p false 4 fun s => .ok (branchBy s t.stn.val (tlane t) off.toNat)

/-- BRS. -/
def execBrs (t : Tid) (p : Guard) (off : BitVec 10) (s : State) : Result :=
  issue s t p (shortBad .short p []) 2 fun s => .ok (branchBy s t.stn.val (tlane t) off.toNat)

/-- The targets that REP may not have (R169). -/
def repIllegal (x : RepTarget) : Bool := x != .other

/-- REP gN, cap: the count is latched; a count of 0 skips the target (R168 to R170). -/
def execRep (t : Tid) (gN : BitVec 3) (cap : BitVec 8) (target : RepTarget) (tf : Form) (s : State) : Result :=
  let k := t.stn.val
  issue s t { pred := 0, neg := false } false 2 fun s =>
    if repIllegal target then .error trapRepIllegal
    else .ok (modThr s k (tlane t) fun th =>
      let n := min (th.reg (gN.setWidth 4)).toNat cap.toNat
      if n = 0 then { th with pc := th.pc + BitVec.ofNat 18 (formBytes tf) }
      else { th with repActive := true, repLeft := BitVec.ofNat 8 n })

/-! ### Waiting and signalling (R171 to R175) -/

/-- The timeout that a WAIT of a task selects (R171). -/
def waitTimeoutOf (s : State) (t : Task) (tsel : Nat) : Nat :=
  match (taskImage s t).bind fun img => opTimeout img t.node tsel with
  | some n => n
  | none => (Config.absentTimeout t.graph t.node tsel).toNat

/-- WAIT, which issued at `t`: the masked flags are all set by t + T, and are cleared, or the thread waits (R173). -/
def waitBody (s : State) (k lane : Nat) (mask : BitVec 16) (tsel : Nat) : State :=
  let t := thrTask s k lane
  let i := (getThr s k lane).task
  let w : WaitSt := { mask := mask, deadline := s.clk - commitCycles + waitTimeoutOf s t tsel }
  if flagsMeet t.flags mask && flagsMetAt t mask ≤ w.deadline then
    modThr (modTask s k i fun t => { t with flags := t.flags &&& ~~~ mask }) k lane fun th => th.setPred 7 false
  else modThr (modTask s k i fun t => { t with mask := mask }) k lane fun th => { th with wait := some w }

/-- WAIT (R171 to R173). -/
def execWait (t : Tid) (p : Guard) (mask : BitVec 16) (tsel : BitVec 5) (s : State) : Result :=
  issue s t p false 4 fun s => .ok (waitBody s t.stn.val (tlane t) mask tsel.toNat)

/-- The timeout of a pending WAIT: p7 is set, the flags are unchanged (R173). Before t + T nothing happens. -/
def execWaitTimeout (t : Tid) (s : State) : Result :=
  let k := t.stn.val
  let lane := tlane t
  let th := getThr s k lane
  match th.wait with
  | none => .next s
  | some w =>
    if th.st = .running && w.deadline ≤ s.clk then
      let s := modTask s k th.task fun t => { t with mask := 0 }
      .next (haltBoundary (modThr s k lane timeoutThread) k lane)
    else .next s

/-- SIGNAL: flag f of the task whose handle is in gT, 4 CORE cycles after issue, the commit cycle (R174). -/
def execSignal (t : Tid) (p : Guard) (gT : BitVec 4) (f : BitVec 4) (s : State) : Result :=
  let k := t.stn.val
  issue s t p false 4 fun s =>
    let h := ((getThr s k (tlane t)).reg gT).toNat
    .ok (deliverFlag s k (h % 2 ^ 12) (BitVec.ofNat 12 (h / 2 ^ 16)) f.toNat .signal)

/-! ### END and TRAP (R176, R177) -/

/-- END ends issue; the task completes 8 CORE cycles after the issue, or when its last access is complete (R176). -/
def execEndInsn (t : Tid) (p : Guard) (f : Form) (s : State) : Result :=
  let k := t.stn.val
  issue s t p (shortBad f p []) (formBytes f) fun s =>
    .ok (modThr s k (tlane t) fun th => { th with ended := true, endAt := max th.endAt (s.clk - commitCycles + 8) })

/-- TRAP raises TRAP_INSN (R177). -/
def execTrap (t : Tid) (p : Guard) (code : BitVec 8) (s : State) : Result :=
  issue s t p false 4 fun _ => .error (trapInsn code.toNat)

/-- A context byte that a task stored is written back, unless a task of the pass whose END completed later has written it; of two that
completed in one cycle the higher core, then the higher thread, is kept (R147). -/
def writeByte (th : Thread) (key : Nat) (p : Packet) (a : Nat) : Packet :=
  if key < sget 0 p.wrote a then p
  else
    let p := { p with wrote := sset 0 p.wrote a key }
    match rangeOf a with
    | .head => { p with head := bset p.head a (bget th.head a) }
    | _ => { p with desc := descStore p.desc (a - 0x120) [BitVec.ofNat 8 (dget th.desc (8 * (a - 0x120)) 8)] }

/-- The context bytes that a task stored are written back to the packet's context; head-window stores set EDITED (R147). -/
def writeBack (p : Packet) (th : Thread) (lane : Nat) : Packet :=
  let p := th.stored.foldl (writeByte th (th.endAt * 128 + lane)) p
  if th.stored.any fun a => rangeOf a = .head then p.put (fFlag flEdited) 1 else p

/-- Bank locks that the task still holds at its completion are freed, counted and reported (R260). -/
def freeAtEnd (s : State) (k lane : Nat) : State :=
  let m := masterId k lane
  let task := (getThr s k lane).task
  let hs := heldTask s m task
  if hs.isEmpty then s
  else
    let s := pinc (abandonTask s m task) pidLockEndHeld
    hs.foldl (fun s h => report s k 0x11 clsWarning m (h.word / 64) (h.word % 64) m) s

/-- The completion of operation `node` of a pass: the flag of each successor 4 CORE cycles later (R225, R231). -/
def notifySuccessors (s : State) (k pkt node : Nat) : State :=
  (passTasks (getStn s k) pkt).foldl (fun s kt =>
    if kt.2.st = .pending && kt.2.mask.getLsbD node then delay s 4 (.setFlag k kt.1 kt.2.gen node .pred) else s) s

/-- A task completes (R176): write-back unless a sibling has trapped (R130), DONE, its successors, the thread IDLE. -/
def completeTask (s : State) (k lane : Nat) : State :=
  let s := flushRegs s k lane
  let th := getThr s k lane
  let t := getTask s k th.task
  let s := modPkt s t.pkt fun p => if t.cancelled || p.trap.isSome then p else writeBack p th lane
  let s := freeAtEnd s k lane
  let s := modTask s k th.task fun t => { t with st := .done, mask := 0 }
  let s := notifySuccessors s k t.pkt t.node
  let s := modThr s k lane fun th => { idleThread th with openMsg := th.openMsg }
  haltBoundary (checkPass s k t.pkt) k lane

/-- The completion of the task that has issued END; before its cycle nothing happens (R176). -/
def execTaskComplete (t : Tid) (s : State) : Result :=
  let k := t.stn.val
  let th := getThr s k (tlane t)
  if th.st = .running && th.ended && th.endAt ≤ s.clk then .next (completeTask s k (tlane t)) else .next s

/-! ### The helper lock (R178, R204, R205) -/

/-- The thread is marked in `hlp.role[r].lock_users` (R204). -/
def lockUser (s : State) (k lane : Nat) : Bool :=
  bitOf (edGet s (thrTask s k lane).tag (pidHlpRoleLockUsers (getStn s k).role)) lane

/-- HLOCK (R178, R204, R205). -/
def execHlock (t : Tid) (p : Guard) (f : BitVec 4) (s : State) : Result :=
  let k := t.stn.val
  let lane := tlane t
  issue s t p false 4 fun s =>
    if !lockUser s k lane then .error (trapHelper 2)
    else .ok (requestHelper s k { lane := lane, task := (getThr s k lane).task, flag := f.toNat,
                                  bounded := bounded (thrTask s k lane).cls, since := s.clk })

/-- The holder's crypto job is still running (R205). -/
def jobRunning (s : State) (k lane : Nat) : Bool :=
  match (getStn s k).job with
  | some j => j.lane = lane
  | none => false

/-- HFREE: not ready while the holder's crypto job is running; LOCK for a thread that does not hold the lock (R178, R205). -/
def execHfree (t : Tid) (p : Guard) (f : BitVec 4) (s : State) : Result :=
  let k := t.stn.val
  let lane := tlane t
  if jobRunning s k lane && holdsHelper (getStn s k) lane then .next s
  else issue s t p (f != 0) 4 fun s =>
    if holdsHelper (getStn s k) lane then .ok (freeHelper s k false) else .error trapLock

/-! ### Channels (R179, R266, R270) -/

/-- Writes p6. -/
def setP6 (s : State) (k lane : Nat) (v : Bool) : State := modThr s k lane fun th => th.setPred 6 v

/-- CHW: reserves and opens a message when none is open, and writes word w (R179). -/
def chwBody (s : State) (k lane : Nat) (v : Word) (ch w : Nat) : State :=
  let h := chanHalf s k
  match (getThr s k lane).openMsg with
  | some m =>
    setP6 (modThr s k lane fun th => { th with openMsg := some { m with words := sset 0 m.words w v } }) k lane true
  | none =>
    if (getChan s h ch).full then setP6 (chanFull s h ch) k lane false
    else
      let s := modChan s h ch fun c => { c with opens := c.opens + 1 }
      setP6 (modThr s k lane fun th => { th with openMsg := some { ch := ch, words := sset 0 [] w v } }) k lane true

/-- CHE: writes word w and publishes; with no message open it takes a slot of its own (R179). -/
def cheBody (s : State) (k lane : Nat) (v : Word) (ch w : Nat) : State :=
  let h := chanHalf s k
  match (getThr s k lane).openMsg with
  | some m =>
    let s := modThr s k lane fun th => { th with openMsg := none }
    setP6 (chanPublish s h m.ch (sset 0 m.words w v)) k lane true
  | none =>
    if (getChan s h ch).full then setP6 (chanFull s h ch) k lane false
    else
      let s := modChan s h ch fun c => { c with opens := c.opens + 1 }
      setP6 (chanPublish s h ch (sset 0 [] w v)) k lane true

/-- CHP: frees the head message (R179). -/
def chpBody (s : State) (k lane ch : Nat) : State :=
  let h := chanHalf s k
  if (getChan s h ch).pub.isEmpty then setP6 s k lane false else setP6 (chanFree s h ch) k lane true

/-- CHW (R179). -/
def execChw (t : Tid) (p : Guard) (gS : BitVec 4) (ch : BitVec 8) (w : BitVec 4) (s : State) : Result :=
  issue s t p false 4 fun s =>
    .ok (chwBody s t.stn.val (tlane t) ((getThr s t.stn.val (tlane t)).reg gS) ch.toNat w.toNat)

/-- CHE (R179). -/
def execChe (t : Tid) (p : Guard) (gS : BitVec 4) (ch : BitVec 8) (w : BitVec 4) (s : State) : Result :=
  issue s t p false 4 fun s =>
    .ok (cheBody s t.stn.val (tlane t) ((getThr s t.stn.val (tlane t)).reg gS) ch.toNat w.toNat)

/-- CHP: gS and w must be 0 (R179). -/
def execChp (t : Tid) (p : Guard) (gS : BitVec 4) (ch : BitVec 8) (w : BitVec 4) (s : State) : Result :=
  issue s t p (gS != 0 || w != 0) 4 fun s => .ok (chpBody s t.stn.val (tlane t) ch.toNat)

end Sys2Proof.Machine
end

