-- ==== Sys2Proof/Machine/DispatchUnit.lean ====
section
/-! DEFINITION. The dispatch unit (R113, R121, R230 to R243, R251): selection, eligibility, placement, pre-emption, restoration, the
residency checks of a station, operation timers and stall reports. -/

namespace Sys2Proof.Machine

/-! ### Selection (R234) -/

/-- A candidate of the selection: task index, selection group, KEY, and the cycle in which it became ready. -/
structure Cand where
  idx : Nat
  group : Nat
  key : Nat
  ready : Nat
  deriving DecidableEq, Repr

/-- The selection group of a class (R234). -/
def selGroup (cls : Nat) : Nat := if bounded cls then 0 else if cls = clsControl then 1 else 2

/-- A shelved task may be selected: it was not in WAIT, or its wait is satisfied or timed out (R242); the cycle from which. -/
def shelfReady (clk : Nat) (st : Station) (t : Task) : Option Nat :=
  match homeEnt st t.thread with
  | none => none
  | some e =>
    match e.thread.wait with
    | none => some t.readyAt
    | some w => if w.satisfied then some t.readyAt else if w.deadline ≤ clk then some w.deadline else none

/-- The candidate that a task is, if any. -/
def candOf (clk : Nat) (st : Station) (i : Nat) (t : Task) : Option Cand :=
  let c (r : Nat) : Cand := { idx := i, group := selGroup t.cls, key := t.key.toNat, ready := r }
  match t.st with
  | .ready => some (c t.readyAt)
  | .shelved => (shelfReady clk st t).map c
  | _ => none

/-- `a` is selected before `b`: group, KEY by modular difference, the cycle of readiness, the lower index (R234). -/
def candBefore (a b : Cand) : Bool :=
  if a.group != b.group then a.group < b.group
  else if earlier32 a.key b.key then true
  else if earlier32 b.key a.key then false
  else if a.ready != b.ready then a.ready < b.ready
  else a.idx < b.idx

/-- The first candidate in selection order. -/
def firstCand (cs : List Cand) : Option Cand :=
  match cs with
  | [] => none
  | c :: rest =>
    match firstCand rest with
    | none => some c
    | some d => if candBefore d c then some d else some c

/-- The first `n` candidates in selection order. -/
def firstCands (n : Nat) (cs : List Cand) : List Cand :=
  match n with
  | 0 => []
  | n + 1 =>
    match firstCand cs with
    | none => []
    | some c => c :: firstCands n (cs.filter (· != c))

/-! ### Eligibility and placement (R43, R236, R237) -/

/-- A lane is marked in the bounded pool of the station's role (R43), under the newest edition. -/
def inPool (s : State) (k lane : Nat) : Bool :=
  match newestEd s with
  | none => true
  | some e => e.get (pidStnRoleCorePool (getStn s k).role (lane / 8) (lane % 8)) = 1

/-- The operation of a task contains HLOCK (R236). -/
def opLocks (s : State) (t : Task) : Bool :=
  match taskImage s t with
  | none => false
  | some img => hasHlock (opCode img t.node)

/-- A lane is marked in `hlp.role[r].lock_users` of the task's edition (R204). -/
def laneUser (s : State) (k lane : Nat) (t : Task) : Bool := bitOf (edGet s t.tag (pidHlpRoleLockUsers (getStn s k).role)) lane

/-- A thread is eligible for a task (R236). -/
def eligibleLane (s : State) (k lane : Nat) (t : Task) : Bool :=
  (!opLocks s t || laneUser s k lane t) &&
    (if bounded t.cls then inPool s k lane
     else if t.cls = clsControl then !inPool s k lane
     else (homeEnt (getStn s k) lane).isNone)

/-- A thread waits for dispatch; a halted one is not IDLE (R119, R273). -/
def idleLane (s : State) (k lane : Nat) : Bool := (getThr s k lane).st = .idle && (getThr s k lane).halt.isNone

/-- Eligible IDLE lanes of a core, lowest first. -/
def freeLanes (s : State) (k : Nat) (t : Task) (core : Nat) : List Nat :=
  ((List.range 8).map (8 * core + ·)).filter fun lane => idleLane s k lane && eligibleLane s k lane t

/-- Index of the affinity table (R237). -/
def affinityKey (p : Packet) (node : Nat) : Nat := (if p.flag flUnordered then 0 else p.get fDomain) % 512 * 8 + node

/-- The affine core of a task (R237). -/
def affineCore (s : State) (k : Nat) (t : Task) : Option Nat :=
  match sget none (getStn s k).affinity (affinityKey ((getPkt s t.pkt).getD {}) t.node) with
  | none => none
  | some a => if a % 256 = t.graph then some (a / 256) else none

/-- The IDLE thread on which a task is placed (R237). -/
def placeLane (s : State) (k : Nat) (t : Task) : Option Nat :=
  match (affineCore s k t).bind fun c => (freeLanes s k t c).head? with
  | some lane => some lane
  | none =>
    match argMin (fun c => 8 - (freeLanes s k t c).length) (List.range 12) with
    | none => none
    | some c => (freeLanes s k t c).head?

/-! ### Cancellation (R21, R240, R241) -/

/-- A shelved task is cancelled: its home entry becomes free, its bank locks are abandoned and its open message is aborted (R241). -/
def cancelShelved (s : State) (k i : Nat) (t : Task) : State :=
  match homeEnt (getStn s k) t.thread with
  | none => s
  | some e =>
    let s := abandonLocks s fun h => h.master = masterId k t.thread && h.task = i
    let s := match e.thread.openMsg with
      | none => s
      | some m => chanAbort s (chanHalf s k) m.ch
    setShelf s k t.thread none

/-- A pass over its residency limit: every task that is not RUNNING is cancelled, and the packet takes RESIDENCY (R240, R241). The pass is
complete when no task of it is left. -/
def cancelPass (s : State) (k pkt : Nat) : State :=
  let s := (passTasks (getStn s k) pkt).foldl (fun s it => if it.2.st = .shelved then cancelShelved s k it.1 it.2 else s) s
  let s := modPkt s pkt fun p => { p with cancel := some dResidency }
  let s := modStn s k fun st => cancelTasks st pkt fun t => t.st != .running && t.st != .done
  checkPass s k pkt

/-- The packet of a task is standard or control and over its limit (R21). -/
def taskOver (s : State) (t : Task) : Bool := !bounded t.cls && (getPkt s t.pkt).any fun p => overResidency s p

/-! ### Dispatch, restoration and pre-emption (R113, R195, R232, R238, R242) -/

/-- STATE becomes empty at dispatch in every slot of a class half that is not pending (R195). -/
def clearSlots (lane : Nat) (std : Bool) (m : Sparse Slot) : Sparse Slot :=
  (List.range 8).foldl (fun m r => smod {} m (slotKey lane std r) fun x => if x.st = 1 then x else { x with st := 0 }) m

/-- The thread as a dispatch leaves it (R113, R147). -/
def freshThread (th : Thread) (clk i : Nat) (pc : BitVec 18) (p : Packet) : Thread :=
  { th with
    st := .running, g := [], preds := 0, pc := pc, repActive := false, repLeft := 0, wbank := 0, slots := 0, task := i, wait := none,
    ended := false, endAt := 0, head := p.head, desc := p.desc, stored := [], openMsg := none, since := clk }

/-- The CORE cycle at which a task's operation timer expires, none when it is off (R231, R233). -/
def timerOf (s : State) (t : Task) : Option Nat :=
  let n := edGet s t.tag (pidDispGraphOpTimer t.graph t.node)
  if n = 0 then none else some (s.clk + n)

/-- The arrival flag at a dispatch or a restoration: the operation's channel holds a published message (R231, R267). -/
def arrivalAtStart (s : State) (k i : Nat) : State :=
  let t := getTask s k i
  match arrivalOf s t with
  | none => s
  | some (ch, f) => if (getChan s (chanHalf s k) ch).pub.isEmpty then s else deliverLive s k i t.gen f

/-- Starts a task on an IDLE thread (R113, R232, R237, R267). -/
def startTask (s : State) (k lane i : Nat) : State :=
  let t := getTask s k i
  let p := (getPkt s t.pkt).getD {}
  let pc := entryPc s k t
  let timer := timerOf s t
  let s := modStn s k fun st => { st with
    threads := smod {} st.threads lane fun th => freshThread th s.clk i pc p
    slots := clearSlots lane (t.cls = 0) st.slots
    affinity := sset none st.affinity (affinityKey p t.node) (some (lane / 8 * 256 + t.graph))
    tasks := smod {} st.tasks i fun t =>
      { t with st := .running, flags := t.flags &&& ~~~ t.mask, mask := 0, thread := lane, timerAt := timer } }
  pinc (arrivalAtStart s k i) (pidDispSDispatched k)

/-- A restored thread: its wait has been satisfied (p7 0) or has timed out (p7 1), or it was not waiting (R173, R242). -/
def resumedThread (th : Thread) : Thread × BitVec 16 :=
  match th.wait with
  | none => (th, 0)
  | some w => if w.satisfied then (wakeThread th, w.mask) else (timeoutThread th, 0)

/-- Restores a shelved task on the thread it left (R205, R242, R243, R267). -/
def resumeTask (s : State) (k i : Nat) : State :=
  let t := getTask s k i
  let lane := t.thread
  match homeEnt (getStn s k) lane with
  | none => s
  | some e =>
    let (th, used) := resumedThread e.thread
    let s := setShelf s k lane none
    let s := modThr s k lane fun old =>
      { th with st := .running, since := s.clk, halt := old.halt, lastAt := old.lastAt, squashAt := old.squashAt, lkgrp := old.lkgrp
                tbase := old.tbase, chsel := old.chsel, nowHi := old.nowHi }
    let s := modTask s k i fun t => { t with st := .running, flags := t.flags &&& ~~~ used, mask := 0 }
    let s := pinc (arrivalAtStart s k i) (pidDispSResumed k)
    match e.relock with
    | none => s
    | some r => requestHelper s k { r with since := s.clk }

/-- The task of a lane may be pre-empted (R205, R210, R238): a standard task that neither holds the helper lock nor runs an emulation
handler. -/
def victimOk (s : State) (k lane : Nat) (t : Task) : Bool :=
  let th := getThr s k lane
  th.st = .running && isStandard s k lane && !holdsHelper (getStn s k) lane && !inEmu (getStn s k) lane && eligibleLane s k lane t

/-- The victim: on the affine core if it has one, else on any core; the most recently dispatched, ties to the lower master identity
(R238). A draining station pre-empts nothing (R134). -/
def chooseVictim (s : State) (k : Nat) (t : Task) : Option Nat :=
  if (getStn s k).st = 2 then none
  else
    let all := (List.range 96).filter fun lane => victimOk s k lane t
    let latest (l : List Nat) := argMin (fun lane => s.clk - (getThr s k lane).since) l
    match (affineCore s k t).bind fun c => latest (all.filter fun lane => lane / 8 = c) with
    | some lane => some lane
    | none => latest all

/-- The request for the helper lock that a lane has queued. -/
def queuedLock (st : Station) (lane : Nat) : Option LockReq := st.lockQueue.find? fun r => r.lane = lane

/-- Moves the standard task of a lane to its home entry, or cancels it when its pass is over its residency limit (R205, R241 to R243); what it
has not committed is squashed (R185). -/
def shelveTask (s : State) (k lane : Nat) : State :=
  let s := squash s k lane
  let th := { getThr s k lane with halt := none }
  let i := th.task
  let t := getTask s k i
  let relock := queuedLock (getStn s k) lane
  let s := withdrawHelper s k lane
  if (getPkt s t.pkt).any fun p => p.cancel = some dResidency then
    let s := abandonLocks s fun h => h.master = masterId k lane && h.task = i
    let s := abortOpen s k lane
    let s := modTask s k i fun t => { t with st := .done, cancelled := true }
    checkPass (modThr s k lane idleThread) k t.pkt
  else
    let ent : ShelfEnt := { kind := .home, lane := lane, thread := th, relock := relock }
    let s := setShelf s k lane (some ent)
    let s := modTask s k i fun t => { t with st := .shelved, readyAt := s.clk }
    pinc (modThr s k lane idleThread) (pidDispSPreempted k)

/-- Finds a thread for a READY task and starts it, pre-empting where it may (R237, R238); false when it stays READY. -/
def placeTask (s : State) (k i : Nat) (t : Task) : State × Bool :=
  match placeLane s k t with
  | some lane => (startTask s k lane i, true)
  | none =>
    if t.cls = clsStandard then (s, false)
    else
      match chooseVictim s k t with
      | some lane => (startTask (shelveTask s k lane) k lane i, true)
      | none => (pinc s (pidDispSNoThread k), false)

/-- One candidate: the residency check, then placement or restoration (R121, R237, R240). The check of an earlier candidate may have cancelled
it. -/
def tryCand (s : State) (k : Nat) (c : Cand) : State × Bool :=
  let t := getTask s k c.idx
  if t.st != .ready && t.st != .shelved then (s, false)
  else if taskOver s t then (cancelPass s k t.pkt, false)
  else
    match t.st with
    | .ready => placeTask s k c.idx t
    | .shelved => if idleLane s k t.thread then (resumeTask s k c.idx, true) else (s, false)
    | _ => (s, false)

/-- Considers candidates in order until two tasks have been started (R235). -/
def tryCands (s : State) (k started : Nat) (cs : List Cand) : State :=
  match cs with
  | [] => s
  | c :: rest =>
    if 2 ≤ started then s
    else
      let (s, ok) := tryCand s k c
      tryCands s k (started + b2n ok) rest

/-- One CORE cycle of a station's dispatch unit: up to four candidates, at most two dispatches (R234 to R243). -/
def execDispatch (f : Fin 17) (s : State) : Result :=
  let k := f.val
  let st := getStn s k
  .next (tryCands s k 0 (firstCands 4 ((occupied st).filterMap fun it => candOf s.clk st it.1 it.2)))

/-! ### The residency scan (R241) -/

/-- The scan examines tasks of standard and control packets that are not RUNNING (R241). -/
def scanHits (s : State) (t : Task) : Bool := (t.st = .pending || t.st = .ready || t.st = .shelved) && taskOver s t

/-- The scan visits one entry (R241). -/
def execResidencyScan (f : Fin 17) (s : State) : Result :=
  let k := f.val
  let i := (getStn s k).scan
  let t := getTask s k i
  let s := modStn s k fun st => { st with scan := (i + 1) % 4096 }
  .next (if scanHits s t then cancelPass s k t.pkt else s)

/-! ### Operation timers (R231) -/

/-- The timer of a task has expired: its flag is set; before that nothing happens (R231). -/
def execOperationTimer (f : Fin 17) (idx : BitVec 12) (s : State) : Result :=
  let k := f.val
  let t := getTask s k idx.toNat
  match t.timerAt with
  | none => .next s
  | some u =>
    if u ≤ s.clk && (t.st = .running || t.st = .shelved) then
      let s := modTask s k idx.toNat fun t => { t with timerAt := none }
      .next (deliverLive s k idx.toNat t.gen (edGet s t.tag (pidDispGraphOpTimerFlag t.graph t.node)))
    else .next s

/-! ### Stalls (R251, R495) -/

/-- The report of a stall: cycles and the tasks in the store. -/
def reportStall (s : State) (k ty cls bit : Nat) : State :=
  let st := getStn s k
  let n := stallCount s.clk st
  let s := modStn s k fun st => { st with stallSeen := st.stallSeen + bit }
  report s k ty cls (0x1000 + k) (n % 2 ^ 32) (occupied st).length 0

/-- The stall count has reached a limit and its report has not been made in this episode (R251). -/
def stallDue (s : State) (k limit bit : Nat) : Bool :=
  let st := getStn s k
  !(occupied st).isEmpty && limit ≤ stallCount s.clk st && st.stallSeen / bit % 2 = 0

/-- STATION_STALL at 4,096 cycles; before that nothing happens (R251). -/
def execStationStall (f : Fin 17) (s : State) : Result :=
  let k := f.val
  if stallDue s k 4096 1 then .next (reportStall (pinc s (pidDispSStall k)) k 0x05 clsMajor 1) else .next s

/-- STATION_STALL_LONG at the largest graph bound plus 4,096 cycles; before that nothing happens (R251). -/
def execStationStallLong (f : Fin 17) (s : State) : Result :=
  let k := f.val
  if stallDue s k (largestBound s + 4096) 2 then .next (reportStall s k 0x06 clsCritical 2) else .next s

end Sys2Proof.Machine
end

