-- ==== Sys2Proof/Machine/Stations.lean ====
section
/-! DEFINITION. Stations that leave service and return to it (R132 to R140), and the station and debug commands of group 0x07 (R135, R140,
R230, R255, R256, R269, R272 to R274, R410). -/

namespace Sys2Proof.Machine

/-- State codes of a station (R141). -/
def ssInService : Nat := 0
def ssSpare : Nat := 1
def ssDraining : Nat := 2
def ssPreparing : Nat := 3
def ssOut : Nat := 4
def ssFailed : Nat := 5

def roleSpare : Nat := 0x10
def roleNone : Nat := 0x1F

/-- The detail of a station event: station, role, count (R440). -/
def stnDetail (k role n : Nat) : List Byte := leBytes 1 k ++ leBytes 1 role ++ leBytes 4 n

/-- A station is in no role and in state `x`, and its threads are OFF. -/
def putOut (s : State) (k x : Nat) : State :=
  modStn s k fun st => { st with
    role := roleNone, st := x, drain := none
    threads := if st.threads.all (fun t => t.2.st = .off) && !st.threads.isEmpty then st.threads else offThreads }

/-- A station enters the failed list of the record store (R133). -/
def listFailed (s : State) (k : Nat) : State :=
  { s with store := { s.store with failed := s.store.failed ||| BitVec.ofNat 17 (2 ^ k) } }

/-- A commit that waits in step 5 is refused; its edition stays staged (R96, R106, R323). -/
def dropCommit (s : State) : State :=
  match s.ed.wait with
  | none => s
  | some w => sendReply (pinc { s with ed := { s.ed with wait := none } } (pidEditionRefused stBusy)) w.hdr 0x0303 stBusy []

/-- A station leaves service: its role becomes vacant (R133, R138), and a commit in progress fails (R106). -/
def leaveRole (s : State) (k : Nat) : State := { s with vacant := s.vacant ++ [(getStn s k).role] }

/-! ### Fault abort (R133) -/

/-- Bank locks, helper lock and open message of a lane are given up (R133 step 3). -/
def abortLane (s : State) (k lane : Nat) : State :=
  let s := abandonMaster s (masterId k lane)
  let s := abandonHelper s k lane
  let s := abortOpen s k lane
  match homeEnt (getStn s k) lane with
  | some e =>
    match e.thread.openMsg with
    | some m => chanAbort s (chanHalf s k) m.ch
    | none => s
  | none => s

/-- A halt that has not taken effect on an aborted thread is answered. -/
def endHalt (s : State) (k lane : Nat) : State :=
  match (getThr s k lane).halt with
  | none => s
  | some r =>
    match r.hdr with
    | none => s
    | some h => sendReply s h 0x0704 stHwFault []

/-- Packets with tasks in a station's store, by rising task index. -/
def stnPackets (st : Station) : List Nat := ((occupied st).map fun it => it.2.pkt).eraseDups

/-- A packet whose tasks are discarded: STATION_ABORT, to be released as a hole (R26, R133). -/
def abortPacket (s : State) (i : Nat) : State :=
  completePkt (modPkt s i fun p => { p with cancel := some dStationAbort, hole := true }) i

/-- A request that a fault abort leaves in its port: LEARN and CNT are served (R187). -/
def servedAnyway (r : LookReq) : Bool := r.kind = 6 || r.kind = 7

/-- What a station's threads have under way inside the station falls away with it (R133). -/
def effectOf (k : Nat) (e : Effect) : Bool :=
  match e with
  | .threadReg k' .. | .trapEnd k' .. | .memStore k' .. | .lockStore k' .. => k' = k
  | _ => false

/-- The threads of an aborted station: OFF, and what they had not committed is squashed (R133, R185). -/
def abortedThreads (clk : Nat) : Sparse Thread := (List.range 96).map fun lane => (lane, { st := .off, squashAt := some clk })

/-- Steps 2 to 5 of R133: the number of packets aborted. -/
def abortTasks (s : State) (k : Nat) : State × Nat :=
  let s := (List.range 96).foldl (fun s lane => abortLane (endHalt s k lane) k lane) s
  let ps := stnPackets (getStn s k)
  let s := modStn s k fun st => { st with
    tasks := st.tasks.foldl (fun ts it => sset {} ts it.1 { gen := it.2.gen }) st.tasks
    shelf := st.shelf.filter fun e => match e.2 with
      | some x => x.kind = .trapped
      | none => false
    port0 := st.port0.filter servedAnyway, port1 := st.port1.filter servedAnyway
    results := [], job := none, emu := [], lockHolder := none, lockQueue := []
    threads := abortedThreads s.clk, emptyAt := some s.clk }
  let s := { s with delayed := s.delayed.filter fun e => !effectOf k e.2 }
  (pcount (ps.foldl abortPacket s) (pidStnSAbortPackets k) ps.length, ps.length)

/-- A station fails (R133 step 6). -/
def failStation (s : State) (k packets : Nat) : State :=
  let former := (getStn s k).role
  logEvent (listFailed (putOut s k ssFailed) k) 0x0030 clsMajor (stnDetail k former packets)

/-- The reply of a STATION_READMIT whose preparation fails. -/
def replyReadmit (s : State) (h : Option CmdHdr) (st : Nat) : State :=
  match h with
  | none => s
  | some h => sendReply s h 0x0701 st []

/-- A role that was reserved for a station that fails in its preparation becomes vacant (R137). -/
def vacateTarget (s : State) (p : Prep) : State :=
  match p.target with
  | none => s
  | some r => if s.vacant.contains r then s else { s with vacant := s.vacant ++ [r] }

/-- The fault abort of a station, whatever its state (R132, R133, R135, R137). -/
def faultAbort (s : State) (k : Nat) : State :=
  let st := getStn s k
  if st.st = ssInService then
    let (s, n) := abortTasks (leaveRole (dropCommit s) k) k
    failStation s k n
  else if st.st = ssDraining then
    let hdr := st.drain.bind (·.readmit)
    let s := if hdr.isSome then leaveRole (dropCommit s) k else s
    let (s, n) := abortTasks s k
    replyReadmit (failStation s k n) hdr stHwFault
  else if st.st = ssPreparing then
    let hdr := s.prep.bind (·.readmit)
    let s := match s.prep with
      | none => s
      | some p => vacateTarget { s with prep := none } p
    replyReadmit (failStation s k 0) hdr stHwFault
  else if st.st = ssSpare then failStation s k 0
  else s

/-- Memory number of an error (R432; DESIGN CHOICE, log entry 38). -/
def memoryNumber (e : StnError) : Nat :=
  match e with
  | .shared => 0
  | .threadScratch => 1
  | .taskStore => 2
  | .shelf => 3
  | .program => 4
  | .bus => 5

/-- The report of a station's error: STATION_ECC, or BUS_PARITY (R132, R424, R426, R495). -/
def reportStation (s : State) (k : Nat) (e : StnError) (addr : Nat) : State :=
  match e with
  | .bus => report s k 0x03 clsMajor (0x1000 + k) (1 + k) addr 0
  | _ => report (pinc s (pidIntegUe 2)) k 0x01 clsMajor (0x1000 + k) (memoryNumber e) addr 0

/-- FAULT_ABORT (R132, R133). -/
def execFaultAbort (f : Fin 17) (e : StnError) (addr : BitVec 32) (s : State) : Result :=
  .next (settleBounds s (faultAbort (reportStation s f.val e addr.toNat) f.val))

/-! ### Planned drains (R132, R134) -/

/-- The start of a planned drain; the role stays reserved when the same station is to return to it (R134, R140). -/
def startDrain (s : State) (k : Nat) (toFailed : Bool) (readmit : Option CmdHdr) : State :=
  let d : Drain := { deadline := s.clk + largestBound s + 40, toFailed := toFailed, readmit := readmit }
  let s := dropCommit s
  let s := if readmit.isSome then s else leaveRole s k
  modStn s k fun st => { st with st := ssDraining, drain := some d }

/-- More than `stn.ce_limit` corrected errors within one second (R132): the command stands for the errors that cross the limit. A station
that is in no role, other than a spare, has nothing to drain. -/
def execCeRateDrain (f : Fin 17) (s : State) : Result :=
  let k := f.val
  let n := pget s pidStnCeLimit + 1
  let s1 := pcount (pcount s (pidStnSCeCount k) n) (pidIntegCe 2) n
  let st := (getStn s k).st
  if st = ssInService then
    let s1 := logEvent s1 0x0031 clsWarning (stnDetail k (getStn s k).role n)
    .next (settleBounds s (startDrain s1 k true none))
  else if st = ssSpare then
    let s1 := logEvent s1 0x0031 clsWarning (stnDetail k (getStn s k).role n)
    .next (listFailed (putOut s1 k ssFailed) k)
  else .next s1

/-- A station with scrubbed memories (R136). -/
def freshStation (role x clk : Nat) : Station := { role := role, st := x, idleSince := clk, emptyAt := some clk, checked := clk }

/-- The preparation of a station begins, with role NONE (R136, R137): its memories are scrubbed, and for a role it loads the images of every
live edition (R138). -/
def startPrep (s : State) (p : Prep) : State :=
  let x := { freshStation roleNone ssPreparing s.clk with
    halted := (getStn s p.s).halted, threads := offThreads, prog := if p.target.isSome then liveProgs s else [] }
  { s with stn := sset {} s.stn p.s x, prep := some { p with since := s.clk } }

/-- A vacancy waits while a spare is being checked (R139). -/
def checkRunning (s : State) : Bool := s.spareCheck.any fun x => s.clk < x.2

/-- No preparation starts beside another one, beside a spare's check, or beside a commit in progress (R106, R137, R139). -/
def prepFree (s : State) : Bool := s.prep.isNone && !checkRunning s && s.ed.wait.isNone

/-- Only one station is prepared at a time: another preparation waits (R137). Without a role that is reserved for it, a station is
prepared for the oldest vacancy of the time at which its preparation starts (R140). -/
def requestPrep (s : State) (p : Prep) : State :=
  if prepFree s then startPrep s { p with target := if p.target.isSome then p.target else s.vacant.head? }
  else { s with readmits := s.readmits ++ [p] }

/-- The end of a drain: OUT, FAILED, or the preparation for the same role (R134, R140). -/
def endDrain (s : State) (k : Nat) (d : Drain) : State :=
  let role := (getStn s k).role
  match d.readmit with
  | some h => requestPrep (putOut s k ssOut) { s := k, target := some role, readmit := some h }
  | none =>
    if d.toFailed then listFailed (putOut s k ssFailed) k
    else logEvent (putOut s k ssOut) 0x0032 clsInfo (stnDetail k role 0)

/-- DRAIN_END: the store is empty, or T_drain has come and what is left is aborted; before that nothing happens (R134). -/
def execDrainEnd (f : Fin 17) (s : State) : Result :=
  let k := f.val
  match (getStn s k).drain with
  | none => .next s
  | some d =>
    let n := (occupied (getStn s k)).length
    if n = 0 then .next (settleBounds s (endDrain s k d))
    else if s.clk < d.deadline then .next s
    else
      let (s1, _) := abortTasks s k
      let s1 := report s1 k 0x04 clsMajor (0x1000 + k) n 0 0
      .next (settleBounds s (endDrain s1 k d))

/-! ### Returning to service (R136 to R140) -/

/-- The lowest-numbered spare. -/
def firstSpare (s : State) : Option Nat := (List.range 17).find? fun k => (getStn s k).st = ssSpare

/-- PREPARATION_START: a preparation that waits, else the lowest-numbered spare for the oldest vacant role (R137 to R139). -/
def execPreparationStart (s : State) : Result :=
  if !prepFree s then .next s
  else
    let s := { s with spareCheck := none }
    match s.readmits with
    | p :: rest => .next (startPrep { s with readmits := rest } { p with target := if p.target.isSome then p.target else s.vacant.head? })
    | [] =>
      match s.vacant.head?, firstSpare s with
      | some r, some k => .next (startPrep s { s := k, target := some r })
      | _, _ => .next s

/-- Step 5 of R136: program memory is as step 2 loaded it (R138). -/
def admitStation (s : State) (p : Prep) : State :=
  let role := p.target.getD roleSpare
  let x := if p.target.isSome then ssInService else ssSpare
  let s := { s with prep := none, vacant := s.vacant.filter (fun r => some r != p.target) }
  let halted := p.readmit.isNone && (getStn s p.s).halted
  let s := { s with stn := sset {} s.stn p.s { freshStation role x s.clk with halted := halted, prog := (getStn s p.s).prog } }
  let s := if p.readmit.isSome then { s with store := { s.store with failed := s.store.failed &&& ~~~ BitVec.ofNat 17 (2 ^ p.s) } } else s
  logEvent s 0x0033 clsInfo (stnDetail p.s role 0)

/-- STATION_ADMIT: the preparation ends (R136, R137, R140); an uncorrectable error in the image copy fails it (R379). A role that was reserved for a station that fails becomes vacant. -/
def execStationAdmit (c : CheckEnd) (s : State) : Result :=
  match s.prep with
  | none => .next s
  | some p =>
    match if areaPoisoned s editionArea imageArea then .fail else c with
    | .pass => .next (settleBounds s (replyReadmit (admitStation s p) p.readmit stOk))
    | .fail =>
      let s1 := failStation (vacateTarget { s with prep := none } p) p.s 0
      .next (replyReadmit s1 p.readmit stHwFault)

/-- Longest time of a spare's check: 2.02 ms (R139). -/
def checkCycles : Nat := 2525000

/-- SPARE_CHECK: the Registrar scrubs and self-checks a spare, `stn.spare_check_s` seconds after the last time; before that nothing happens
(R139). -/
def execSpareCheck (f : Fin 17) (c : CheckEnd) (s : State) : Result :=
  let k := f.val
  if (getStn s k).st != ssSpare || s.prep.isSome || s.clk < (getStn s k).checked + pget s pidStnSpareCheckS * secCycles then .next s
  else
    match c with
    | .pass =>
      let fresh := { freshStation roleSpare ssSpare s.clk with halted := (getStn s k).halted }
      .next { s with stn := sset {} s.stn k fresh, spareCheck := some (k, s.clk + checkCycles) }
    | .fail => .next (failStation s k 0)

/-! ### Station commands (R135, R140, R410) -/

/-- Parameters of a command that names a station: the number, none when out of range or a reserved byte is set. -/
def stationParam (ps : List Byte) : Option Nat := if leAt ps 0 1 ≤ 16 && zeros ps 1 3 then some (leAt ps 0 1) else none

/-- STATION_RETIRE (R135). -/
def execStationRetire (h : CmdHdr) (ps : List Byte) (s : State) : Result :=
  hostCmdN s h 0x0700 1 ps 4 fun s =>
    match stationParam ps with
    | none => refuse s stBadParam
    | some k =>
      let st := getStn s k
      if st.st = ssSpare then answer (logEvent (putOut s k ssOut) 0x0032 clsInfo (stnDetail k roleSpare 0)) []
      else if st.st = ssDraining || st.st = ssPreparing then refuse s stBusy
      else if st.st = ssOut || st.st = ssFailed then answer s []
      else
        let kept := match roleHalf st.role with
          | some hf => (servingStations s hf).length - 1
          | none => 0
        if kept < 7 && !h.flags.getLsbD 0 then refuse s stNoResource
        else answer (settleBounds s (startDrain s k false none)) []

/-- A preparation of the station waits. -/
def readmitWaits (s : State) (k : Nat) : Bool := s.readmits.any fun p => p.s = k

/-- STATION_READMIT: the reply is sent when the preparation ends (R140). -/
def execStationReadmit (h : CmdHdr) (ps : List Byte) (s : State) : Result :=
  hostCmdN s h 0x0701 0 ps 4 fun s =>
    match stationParam ps with
    | none => refuse s stBadParam
    | some k =>
      let st := getStn s k
      if (st.st = ssOut || st.st = ssFailed) && !readmitWaits s k then
        (requestPrep s { s := k, target := none, readmit := some h }, none)
      else if st.st = ssInService && st.halted then (settleBounds s (startDrain s k false (some h)), none)
      else refuse s stBusy

/-- STATION_STATUS (R410). -/
def execStationStatus (h : CmdHdr) (ps : List Byte) (s : State) : Result :=
  hostCmdN s h 0x0702 0 ps 4 fun s =>
    match stationParam ps with
    | none => refuse s stBadParam
    | some k =>
      let st := getStn s k
      answer s (leBytes 1 st.role ++ leBytes 1 st.st ++ leBytes 1 (b2n st.halted) ++ leBytes 1 0
        ++ leBytes 2 (occupied st).length ++ leBytes 2 (spresent st.shelf).length)

/-- STATE codes of a task-store entry (R230). -/
def taskStCode (x : TaskSt) : Nat :=
  match x with
  | .free => 0
  | .pending => 1
  | .ready => 2
  | .running => 3
  | .shelved => 4
  | .done => 5

/-- MASK of an entry: the dispatch mask, or that of a pending WAIT (R230). -/
def shownMask (st : Station) (t : Task) : Nat :=
  let waits (th : Thread) : Nat := (th.wait.map (·.mask.toNat)).getD 0
  match t.st with
  | .pending => t.mask.toNat
  | .running => waits (sget {} st.threads t.thread)
  | .shelved => (homeEnt st t.thread).elim 0 fun e => waits e.thread
  | _ => 0

/-- The 128 bits of a task-store entry (R230). -/
def taskBytes (st : Station) (t : Task) : List Byte :=
  let thr := if t.st = .running || t.st = .shelved then t.thread else 0
  leBytes 16 (t.gen.toNat * 2 ^ 116 + taskStCode t.st * 2 ^ 113 + t.node % 8 * 2 ^ 110 + t.graph % 256 * 2 ^ 102 + t.cls % 4 * 2 ^ 100
    + t.tag % 4 * 2 ^ 98 + t.pass % 4 * 2 ^ 96 + t.flags.toNat * 2 ^ 80 + shownMask st t * 2 ^ 64 + t.key.toNat * 2 ^ 32
    + thr % 128 * 2 ^ 19 + t.pkt % 2 ^ 19)

/-- TASK_READ: the entries must lie within the store (R230, R410). -/
def execTaskRead (h : CmdHdr) (ps : List Byte) (s : State) : Result :=
  hostCmdN s h 0x0703 0 ps 4 fun s =>
    let k := leAt ps 0 1
    let n := leAt ps 1 1
    let first := leAt ps 2 2
    if 16 < k || n < 1 || 64 < n || 4096 < first + n then refuse s stBadParam
    else answer s ((List.range n).flatMap fun i => taskBytes (getStn s k) (getTask s k (first + i)))

/-! ### Debugger halts (R272 to R274) -/

/-- Station and lane of a command that names a thread. -/
def threadParam (ps : List Byte) : Option (Nat × Nat) :=
  if leAt ps 0 1 ≤ 16 && leAt ps 1 1 ≤ 11 && leAt ps 2 1 ≤ 7 && zeros ps 3 1 then some (leAt ps 0 1, 8 * leAt ps 1 1 + leAt ps 2 1)
  else none

/-- The snapshot entry that holds the context of a halted lane. -/
def haltedEntry (st : Station) (lane : Nat) : Option (Nat × ShelfEnt) :=
  (spresent st.shelf).find? fun e => e.2.kind = .halted && e.2.lane = lane

/-- The halt request reaches the thread: one that is not RUNNING halts at once, another at its next boundary (R273). -/
def requestHalt (s : State) (k lane entry : Nat) (h : CmdHdr) : State :=
  let r : HaltReq := { entry := entry, since := s.clk, hdr := some h }
  if (getThr s k lane).st != .running && (getThr s k lane).st != .trapped then haltThread s k lane r false
  else
    let s := setShelf s k entry (some { kind := .reserved, lane := lane })
    haltBoundary (modThr s k lane fun th => { th with halt := some r }) k lane

/-- THREAD_HALT (R272). A second request while one is pending finds a conflicting activity (log entry 38). -/
def execThreadHalt (h : CmdHdr) (ps : List Byte) (s : State) : Result :=
  hostCmdN s h 0x0704 0 ps 4 fun s =>
    if !s.fuses.debug then refuse s stNoPermission
    else
      match threadParam ps with
      | none => refuse s stBadParam
      | some (k, lane) =>
        let st := getStn s k
        if st.st = ssPreparing then refuse s stBusy
        else
          match freeSnapshot st with
          | none => refuse s stNoResource
          | some e =>
            if (getThr s k lane).st = .halted then
              answer s (leBytes 2 ((haltedEntry st lane).elim 0xFFFF (·.1)) ++ leBytes 2 0)
            else if (getThr s k lane).halt.isSome then refuse s stBusy
            else (requestHalt s k lane e h, none)

/-- FORCED_HALT: no boundary has been reached within 4,096 CORE cycles (R273); before that nothing happens. -/
def execForcedHalt (t : Tid) (s : State) : Result :=
  let k := t.stn.val
  let lane := tlane t
  match (getThr s k lane).halt with
  | none => .next s
  | some r =>
    if s.clk < r.since + 4096 || (getThr s k lane).ended || (getThr s k lane).st = .trapped || inEmu (getStn s k) lane then .next s
    else
      let s := abortOpen s k lane
      let s := abandonHelper s k lane
      let s := abandonTask s (masterId k lane) (getThr s k lane).task
      .next (haltThread s k lane r true)

/-- The context of a halted thread is restored: a frozen WAIT counts on (R273, R274). -/
def resumeThread (s : State) (k lane : Nat) : State :=
  match haltedEntry (getStn s k) lane with
  | none => s
  | some (e, x) =>
    let th : Thread := x.thread
    let th : Thread := { th with wait := th.wait.map fun w => { w with deadline := s.clk + x.frozen } }
    let s := setShelf s k e none
    let s := modThr s k lane fun (old : Thread) => { th with lastAt := old.lastAt, squashAt := old.squashAt }
    modStn s k fun st => flagsChanged s.clk st th.task

/-- THREAD_RESUME (R274, R410). -/
def execThreadResume (h : CmdHdr) (ps : List Byte) (s : State) : Result :=
  hostCmdN s h 0x0705 0 ps 4 fun s =>
    if !s.fuses.debug then refuse s stNoPermission
    else
      match threadParam ps with
      | none => refuse s stBadParam
      | some (k, lane) => if (getThr s k lane).st = .halted then answer (resumeThread s k lane) [] else answer s []

/-- CONTEXT_READ (R120, R410). What an entry holds that is not in use is not stated (log entry 38). -/
def execContextRead (h : CmdHdr) (ps : List Byte) (s : State) : Result :=
  hostCmdN s h 0x0706 0 ps 4 fun s =>
    let k := leAt ps 0 1
    let e := leAt ps 2 2
    if !s.fuses.debug then refuse s stNoPermission
    else if 16 < k || 511 < e || !zeros ps 1 1 then refuse s stBadParam
    else
      match sget none (getStn s k).shelf e with
      | some x => answer s (contextBytes s.clk x.thread x.frozen)
      | none => answer s (leBytes 72 (Config.unusedContext k e).toNat)

/-! ### Locks and channels (R255, R256, R269, R410) -/

/-- LOCK_READ. -/
def execLockRead (h : CmdHdr) (ps : List Byte) (s : State) : Result :=
  hostCmdN s h 0x0707 0 ps 4 fun s =>
    let g := leAt ps 0 1
    let w := leAt ps 1 1
    if 63 < g || 63 < w || !zeros ps 2 2 then refuse s stBadParam
    else if !lockPermitted s (ifaceMaster h.iface) g then refuse s stNoPermission
    else answer s (leBytes 2 (lockWord s (64 * g + w)).toNat ++ leBytes 2 0)

/-- LOCK_WRITE. -/
def execLockWrite (h : CmdHdr) (ps : List Byte) (s : State) : Result :=
  hostCmdN s h 0x0708 0 ps 4 fun s =>
    let g := leAt ps 0 1
    let w := leAt ps 1 1
    let v := leAt ps 2 2
    let m := ifaceMaster h.iface
    if 63 < g || 63 < w then refuse s stBadParam
    else if !lockPermitted s m g && !lockAlways s m (64 * g + w) v then refuse s stNoPermission
    else
      match lockWrite s m (64 * g + w) v 0 false with
      | (s, .bad) => refuse s stBadParam
      | (s, .done) => answer s (leBytes 2 (lockWord s (64 * g + w)).toNat ++ leBytes 2 0)

/-- CHANNEL_FLUSH frees every published message of one channel; the reply carries how many (R269, R410). -/
def execChannelFlush (h : CmdHdr) (ps : List Byte) (s : State) : Result :=
  hostCmdN s h 0x0709 0 ps 4 fun s =>
    let half := leAt ps 0 1
    let ch := leAt ps 1 1
    if 1 < half || !zeros ps 2 2 then refuse s stBadParam
    else
      let n := (getChan s half ch).pub.length
      let s := modChan s half ch fun c => { c with pub := [] }
      answer (pcount s (pidChanHalfChFreed half ch) n) (leBytes 1 n ++ leBytes 3 0)

end Sys2Proof.Machine
end

