-- ==== Sys2Proof/Machine/Boot.lean ====
section
/-! DEFINITION. Resets and the boot sequence (R115, R371 to R374, R445 to R451, R454 to R456, R461, R465, R469), and the monitors of
supplies, temperature and clocks (R2, R476, R480, R482, R489). -/

namespace Sys2Proof.Machine

/-! ### What a reset leaves (R445, R455, R469) -/

/-- The journal's next record (R456). -/
def writeJournal (s : State) (f : Journal → Journal) : State :=
  { s with store := { s.store with journal := { f s.store.journal with seq := (s.store.journal.seq + 1) % 2 ^ 32 } } }

/-- The monitors read what they read before a reset. -/
def keepReadings (s0 s : State) : State :=
  let s := (List.range 24).foldl (fun s k => pset s (pidIntegTemp k) (pget s0 (pidIntegTemp k))) s
  (List.range 10).foldl (fun s v => pset s (pidIntegSupplyMv v) (pget s0 (pidIntegSupplyMv v))) s

/-- The device with its volatile state lost: the record store, the fuses and the board's view of its pins remain (R445). -/
def wipe (s : State) : State :=
  let fresh : State := { State.reset with
    pending := s.pending, store := s.store, fuses := s.fuses, freeCtr := s.freeCtr
    env := { s.env with jtag := 0 }
    host := { State.reset.host with perst := s.host.perst }
    fw := { State.reset.fw with powered := s.fw.powered, resetN := s.fw.resetN, riseFlag := s.fw.riseFlag, bank := s.fw.bank } }
  keepReadings s fresh

/-! ### Selecting the image (R448, R455, R461) -/

/-- What the loader boots. -/
inductive BootSel where
  | slot (b : Bool)
  | recovery
  deriving DecidableEq, Repr

/-- Journal states (R456). -/
def jIdle : Nat := 0
def jReceiving : Nat := 1
def jVerified : Nat := 2
def jActivating : Nat := 3
def jTrial : Nat := 4
def jInterrupted : Nat := 5

/-- Slot states (R456). -/
def slEmpty : Nat := 0
def slIncomplete : Nat := 1
def slVerified : Nat := 2
def slTrial : Nat := 3
def slConfirmed : Nat := 4
def slRejected : Nat := 5
def slPrevious : Nat := 6

/-- State of slot A (false) or B (true). -/
def fwSlotState (j : Journal) (b : Bool) : Nat := if b then j.slotB else j.slotA

def setSlot (j : Journal) (b : Bool) (x : Nat) : Journal := if b then { j with slotB := x } else { j with slotA := x }

def fwSlotBytes (s : State) (b : Bool) : List Byte := if b then s.store.slotB else s.store.slotA

/-- The journal's slot codes. -/
def slotCode (inPlace b : Bool) : Nat := if inPlace then 0xFF else b2n b

/-- The image of a slot passes step 3 of the boot (R459). -/
def slotGood (s : State) (b : Bool) : Bool := checkFw s.fuses (fwSlotBytes s b) = .good

/-- A slot in a given state. -/
def slotIn (j : Journal) (x : Nat) : Option Bool :=
  if j.slotA = x then some false else if j.slotB = x then some true else none

/-- Step 2 in in-place mode (R455). -/
def selectInPlace (s : State) : State × BootSel :=
  let j := s.store.journal
  let blocks := fwImgBlocks j.length
  if j.state = jInterrupted || (j.state = jActivating && j.nextBlock < blocks) then
    (writeJournal s fun j => { j with state := jInterrupted }, .recovery)
  else if j.state = jActivating then
    (writeJournal s fun j => { j with state := jTrial, slotA := slTrial }, .slot false)
  else if j.state = jTrial then
    (writeJournal s fun j => { j with state := jIdle, slotA := slRejected }, .recovery)
  else if j.state = jReceiving || j.state = jVerified then
    (writeJournal s fun j => { j with state := jIdle }, .slot false)
  else (s, .slot false)

/-- Step 2 in dual-slot mode (R455, R469). -/
def selectDual (s : State) : State × BootSel :=
  let j := s.store.journal
  let target := j.target = 1
  if j.state = jActivating then
    (writeJournal s fun j => setSlot { j with state := jTrial } target slTrial, .slot target)
  else if j.state = jTrial then
    (writeJournal s fun j => setSlot { j with state := jIdle, target := 0xFF } target slRejected, .slot (!target))
  else
    let s := if j.state = jReceiving then writeJournal s fun j => { j with state := jIdle } else s
    match slotIn s.store.journal slConfirmed with
    | some b => (s, .slot b)
    | none => (s, .slot (j.active != 1))

/-- The other slot, when it may stand in (R455): only in dual-slot mode. -/
def alternative (s : State) (b : Bool) : Option Bool :=
  let x := fwSlotState s.store.journal (!b)
  if !s.fuses.inPlace && (x = slConfirmed || x = slVerified || x = slPrevious) && slotGood s (!b) then some (!b) else none

/-- A target that fails step 3 has ended its trial. -/
def failTrial (s : State) (b : Bool) : State :=
  if s.store.journal.state = jTrial then
    writeJournal s fun j => setSlot { j with state := jIdle, target := 0xFF } b slRejected
  else s

/-- Steps 2 and 3 (R448, R450, R451, R455). -/
def selectImage (s : State) (mode : Nat) : State × BootSel :=
  if mode = 1 || mode = 3 then (s, .recovery)
  else
    let prev := if mode = 2 && !s.fuses.inPlace then slotIn s.store.journal slPrevious else none
    match prev.filter fun b => slotGood s b with
    | some b => (s, .slot b)
    | none =>
      match if s.fuses.inPlace then selectInPlace s else selectDual s with
      | (s, .recovery) => (s, .recovery)
      | (s, .slot b) =>
        if slotGood s b then (s, .slot b)
        else
          let s := failTrial s b
          match alternative s b with
          | some a => (writeJournal s fun j => { j with active := b2n a }, .slot a)
          | none => (s, .recovery)

/-! ### The settings bank (R465, R470) -/

/-- The parameters that persist. -/
def persistentIds : List Nat := [pidFwHealthWindowS, pidSvcMode, pidSvcMac, pidHbmDeepGib, pidHbmCaptureGib]

/-- `svc.mac` of a part without a setting (R470). -/
def defaultMac (s : State) : Nat := 0x0A * 2 ^ 40 + s.fuses.serial.toNat % 2 ^ 40

/-- Default of a persistent parameter. -/
def persistDefault (s : State) (id : Nat) : Nat := if id = pidSvcMac then defaultMac s else preset id

def bankOf (s : State) : Sparse Nat := (sget none s.store.banks s.fw.bank).getD []

/-- A persistent parameter in the bank in use. -/
def bankGet (s : State) (id : Nat) : Nat := sget (persistDefault s id) (bankOf s) id

/-- Writes a persistent parameter to the bank in use. -/
def bankSet (s : State) (id v : Nat) : State :=
  let b := sset (persistDefault s id) (bankOf s) id v
  { s with store := { s.store with banks := sset none s.store.banks s.fw.bank (some b) } }

/-- The parameters take the values of the bank. -/
def loadSettings (s : State) : State := persistentIds.foldl (fun s id => pset s id (bankGet s id)) s

/-- A settings reset: defaults into the bank that the previous image does not use, the serial starts again, and the line ports stay down
until the first commit (R465). -/
def settingsReset (s : State) (fmt : Nat) : State :=
  let b := if s.store.fmt0.isNone then 0 else if s.store.fmt1.isNone then 1 else 1 - s.fw.bank
  let st := { s.store with banks := sset none s.store.banks b (some []), serial := 0 }
  let st := if b = 0 then { st with fmt0 := some fmt } else { st with fmt1 := some fmt }
  { s with store := st, fw := { s.fw with bank := b, portsDown := true } }

/-- Step 4: the bank whose format is the image's, else a settings reset (R465). -/
def selectBank (s : State) (fmt : Nat) : State :=
  let s := if s.store.fmt0 = some fmt then { s with fw := { s.fw with bank := 0 } }
    else if s.store.fmt1 = some fmt then { s with fw := { s.fw with bank := 1 } }
    else settingsReset s fmt
  pset (loadSettings s) pidFwSettingsFormat fmt

/-! ### HBM (R371 to R374) -/

/-- Sizes of deep, capture and host regions in half GiB with `h` healthy channels: losses come from host, then capture, then deep. -/
def hbmSizes (h deepGib capGib : Nat) : Nat × Nat × Nat :=
  let total := 3 * h - 1
  if h < 12 then (0, 0, total)
  else
    let deep := min (2 * deepGib) total
    let cap := min (2 * capGib) (total - deep)
    (deep, cap, total - deep - cap)

/-- Step 6 for HBM: failing channels are mapped out, and every content is overwritten. -/
def bootHbm (s : State) (failed : BitVec 16) : State :=
  let healthy := ~~~ (failed ||| s.fuses.badDelays)
  let (d, c, h) := hbmSizes (popcount healthy.toNat 16) (pget s pidHbmDeepGib) (pget s pidHbmCaptureGib)
  { s with hbm := { State.reset.hbm with healthy := healthy, deep := d, capture := c, host := h } }

/-! ### Stations (R115) -/

/-- Station without a role, lowest first with station 16 before the others. -/
def spareOrder : List Nat := 16 :: List.range 16

/-- Roles of the healthy stations as (station, role), with the roles that stay vacant. -/
def assignRoles (healthy : Nat → Bool) : List (Nat × Nat) × List Nat :=
  let own := ((List.range 16).filter fun k => healthy k).map fun k => (k, k)
  let empty := (List.range 16).filter fun r => !healthy r
  let free := spareOrder.filter fun k => healthy k && k = 16
  let filled := free.zip empty
  (own ++ filled.map (fun f => (f.1, f.2)) ++ (free.drop empty.length).map (fun k => (k, roleSpare)), empty.drop free.length)

/-- Steps 6 and 7 for the stations: those that fail the self-check or are listed as failed are FAILED. -/
def bootStations (s : State) (failed : BitVec 17) : State :=
  let s := { s with store := { s.store with failed := s.store.failed ||| failed } }
  let healthy k := !s.store.failed.getLsbD k
  let (roles, vacant) := assignRoles healthy
  let s := (List.range 17).foldl (fun s k => if healthy k then s else putOut s k ssFailed) s
  let s := roles.foldl (fun s kr =>
    let x := if kr.2 = roleSpare then ssSpare else ssInService
    { s with stn := sset {} s.stn kr.1 (freshStation kr.2 x s.clk) }) s
  { s with vacant := vacant }

/-! ### The boot sequence (R449 to R451) -/

/-- The running image's fields (R457, R458). -/
def adoptImage (s : State) (b : List Byte) : State :=
  { s with fw := { s.fw with
    version := fwImgVersion b, level := fwImgLevel b, settingsFmt := fwImgSettings b, stateFmt := fwImgState b, serdes := compDigest b 1
    components := (List.range 6).map (compVersion b) } }

/-- A fatal failure of a boot step: the sequence ends there with BUSY high (R451, R495). -/
def bootFails (s : State) (step src ty reporter : Nat) : State :=
  report { s with fw := { s.fw with bootStep := step, booting := false } } src ty clsFatal reporter 0 0 0

/-- The tables are scrubbed: every entry is invalid, and the clocks and sweepers start (R279, R287, R292, R310). -/
def bootTables (s : State) : State :=
  { s with tbl := { State.reset.tbl with
      ageNext := s.clk + pget s pidTblAgeTickMs * msCycles, dampNext := s.clk + dampCycles, macSweepAt := s.clk
      strSweepAt := sset 0 (sset 0 [] 0 (s.clk : Int)) 1 (s.clk : Int) } }

/-- Boot count and cause, as the Registrar and the journal keep them (R447, R456, R470). -/
def recordBoot (s : State) (cause : Nat) : State :=
  let s := writeJournal s fun j => { j with cause := cause, boot := (j.boot + 1) % 2 ^ 32 }
  let s := pset (pset s pidFwResetCause cause) pidFwBootCount s.store.journal.boot
  { pset s pidFwRollbackStep s.fuses.rollback with fw := { s.fw with cause := cause, riseFlag := false } }

/-- Steps 4 to 7 with the image in a slot (R449). -/
def bootImage (s : State) (e : BootEnv) (b : Bool) : State :=
  let img := fwSlotBytes s b
  let s := adoptImage s img
  let s := selectBank s (fwImgSettings img)
  let s := bootHbm s e.hbmFailed
  if s.hbm.healthy = 0 then bootFails s 6 0x66 0x17 0x0FFE
  else
    let s := bootTables (bootStations s e.stnFailed)
    let tried := s.store.journal.state = jTrial && fwSlotState s.store.journal b = slTrial
    let resume := fwSlotState s.store.journal b = slConfirmed && s.fuses.rollback < fwImgLevel img
    { s with fw := { s.fw with bootStep := 8, booting := true, trial := tried, stepping := resume } }

/-- The recovery state (R461): HBM and the host link come up, no station and no line port does. -/
def bootRecovery (s : State) (e : BootEnv) : State :=
  let s := loadSettings s
  let s := bootHbm s e.hbmFailed
  if s.hbm.healthy = 0 then bootFails s 6 0x66 0x17 0x0FFE
  else { s with fw := { s.fw with bootStep := 6, booting := true, recovery := true, portsDown := true } }

/-- The sequence from the release of RESET_N, or from the end of an update reset, up to its last step. -/
def bootFrom (s : State) (e : BootEnv) (cause : Nat) : State :=
  let s := { s with clk := 0, fw := { s.fw with bootStep := 1 } }
  if !e.pllLocks then bootFails s 1 0x88 0x1C 0x1088
  else
    let s := recordBoot s cause
    match selectImage s e.mode.toNat with
    | (s, .recovery) => bootRecovery s e
    | (s, .slot b) => bootImage s e b

/-! ### Power and pins (R445 to R447, R480) -/

/-- POWER_ON: the supplies rise with RESET_N low. -/
def execPowerOn (s : State) : Result :=
  let s := wipe s
  .next { s with
    env := { s.env with extest := false }
    fw := { s.fw with powered := true, resetN := false, riseFlag := true } }

/-- RESET_N_ASSERT (R446). -/
def execResetNAssert (s : State) : Result :=
  if !s.fw.resetN then .next s
  else
    let s := wipe s
    .next { s with env := { s.env with extest := false }, fw := { s.fw with resetN := false } }

/-- RESET_N_RELEASE (R448, R449): the cause is power-on when the supply monitor flag is set (R447). -/
def execResetNRelease (e : BootEnv) (s : State) : Result :=
  if !s.fw.powered || s.fw.resetN then .next s
  else
    let cause := if s.fw.riseFlag then 0 else 1
    .next (bootFrom { s with fw := { s.fw with resetN := true } } e cause)

/-- VDD_CORE_BROWNOUT: the device resets; the supply's rise is a power-on (R480). -/
def execVddCoreBrownout (s : State) : Result :=
  let s := wipe s
  .next { s with fw := { s.fw with powered := false, resetN := false } }

/-- The cause code of an update reset (R447). -/
def causeCode (c : UpdCause) : Nat :=
  match c with
  | .activation => 2
  | .fallback => 3
  | .expiry => 4

/-- UPDATE_RESET, when the update machinery has asked for it (R445, R462, R463, R468): BOOT_MODE counts as 0b00, and the tests of the boot
find the channels that are already mapped out and no further fault. -/
def execUpdateReset (c : UpdCause) (s : State) : Result :=
  if s.fw.resetAsked = some c && s.fw.resetN then
    let e : BootEnv := { mode := 0, pllLocks := true, hbmFailed := ~~~ s.hbm.healthy, stnFailed := 0 }
    .next (bootFrom (wipe s) e (causeCode c))
  else .next s

/-- HBM channels that are mapped out are reported, and a stack with few of them left (R373, R374, R495). -/
def reportHbm (s : State) : State :=
  let s := (List.range 16).foldl (fun s c =>
    if s.hbm.healthy.getLsbD c then s else report s (0x70 + c) 0x15 clsMajor 0x1066 c 0 0) s
  let n := popcount s.hbm.healthy.toNat 16
  if n < 12 then report s 0x66 0x16 clsCritical 0x0FFE n 0 0 else s

/-- The detail of BOOT_DONE (R440). -/
def bootDetail (s : State) : List Byte := leBytes 4 s.fw.version ++ leBytes 1 s.fw.cause ++ leBytes 2 (s.clk / msCycles)

/-- Steps 8 and 9: Datum starts, BOOT_DONE is logged, READY and BUSY change, and a trial starts (R369, R423, R449, R466). -/
def bootDone (s : State) : State :=
  let s0 := s
  let s := { s with datum := { State.reset.datum with badLanes := s.datum.badLanes, calAt := s.datum.calAt, oscHold := s.datum.oscHold } }
  let s := reportHbm s
  let s := logEvent s 0x0001 clsInfo (bootDetail s)
  let s := { s with fw := { s.fw with bootStep := 9, booting := false, busy := false, ready := true, trialAt := s.clk } }
  checkRings (settleBounds s0 s)

/-- BOOT_COMPLETE; in recovery the loader opens the service port and BUSY falls (R461). -/
def execBootComplete (s : State) : Result :=
  if !s.fw.booting || s.flt.fatal then .next s
  else if s.fw.recovery then .next (checkRings { reportHbm s with fw := { s.fw with bootStep := 15, booting := false, busy := false } })
  else .next (bootDone s)

/-! ### Monitors (R2, R476, R480, R482, R489) -/

/-- The operating range of supply v in mV (R476). -/
def supplyRange (v : Nat) : Nat × Nat :=
  [(728, 773), (825, 876), (873, 927), (1164, 1236), (873, 927), (1164, 1236), (1067, 1133), (388, 412), (1746, 1854),
   (1710, 1890)].getD v (0, 0)

def inRange (v mv : Nat) : Bool := (supplyRange v).1 ≤ mv && mv ≤ (supplyRange v).2

def setSupply (s : State) (v : Nat) (out : Bool) : State :=
  let b := BitVec.ofNat 10 (2 ^ v)
  { s with flt := { s.flt with supplyOut := if out then s.flt.supplyOut ||| b else s.flt.supplyOut &&& ~~~ b } }

/-- SUPPLY_RANGE_ENTER: 10 µs outside the range (R480). -/
def execSupplyRangeEnter (v : Fin 10) (mv : BitVec 16) (s : State) : Result :=
  let s1 := pset s (pidIntegSupplyMv v.val) mv.toNat
  if inRange v.val mv.toNat || s.flt.supplyOut.getLsbD v.val || !s.fw.resetN then .next s1
  else
    let s2 := report (setSupply s1 v.val true) 0x87 0x1B clsCritical 0x1087 v.val mv.toNat 0
    .next (settleBounds s s2)

/-- SUPPLY_RANGE_EXIT: 10 ms within the range (R480). -/
def execSupplyRangeExit (v : Fin 10) (mv : BitVec 16) (s : State) : Result :=
  let s1 := pset s (pidIntegSupplyMv v.val) mv.toNat
  if inRange v.val mv.toNat then .next (settleBounds s (setSupply s1 v.val false)) else .next s1

/-- The junction limits of the grade in 0.1 °C (R2). -/
def tjLimits (s : State) : Int × Int := if s.fuses.grade = 0 then (-400, 1100) else (0, 1000)

/-- The sensor with the extreme reading. -/
def sensorOf (ts : List Int) (x : Int) : Nat := (ts.findIdx? fun t => t = x).getD 0

/-- TEMP_SAMPLE: the 24 sensors (R489). -/
def execTempSample (t : List (BitVec 16)) (s : State) : Result :=
  if t.length != 24 then .next s
  else
    let ts := t.map fun x => x.toInt
    let hi := ts.foldl max (ts.headD 0)
    let lo := ts.foldl min (ts.headD 0)
    let s1 := (List.range 24).foldl (fun s k => pset s (pidIntegTemp k) (ofSigned 32 (ts.getD k 0))) s
    let s1 := { s1 with env := { s1.env with tjMax := hi, tjMin := lo } }
    let (a, b) := tjLimits s
    if !s.fw.resetN then .next s1
    else if !s.flt.tempOut && (b < hi || lo < a) then
      let x := if b < hi then hi else lo
      let s2 := { s1 with flt := { s1.flt with tempOut := true } }
      .next (settleBounds s (report s2 0x86 0x1A clsCritical 0x1086 (sensorOf ts x) (ofSigned 32 x) 0))
    else if s.flt.tempOut && hi ≤ b - 20 && a + 20 ≤ lo then
      .next (settleBounds s { s1 with flt := { s1.flt with tempOut := false } })
    else .next s1

/-- REFCLK_LINE_LOSS: the lanes 8k to 8k + 7 lose lock (R482). -/
def execRefclkLineLoss (k : Fin 4) (s : State) : Result :=
  let lanes := (List.range 8).map fun i => 8 * k.val + i
  let s := pinc s (pidIntegRefclkLoss k.val)
  let ports := (lanes.map lanePort).eraseDups
  let s := ports.foldl (fun s p => if (getPort s p).link then linkDown s p else s) s
  .next (lanes.foldl squelchLane s)

/-- CORE_REFCLK_LOSS after boot step 1: the fatal state with CLOCK_FAIL (R482). -/
def execCoreRefclkLoss (s : State) : Result :=
  if s.fw.resetN && 2 ≤ s.fw.bootStep then .next (report s 0x88 0x1C clsFatal 0x1088 0 0 0) else .next s

end Sys2Proof.Machine
end

