-- ==== Sys2Proof/Machine/Capture.lean ====
section
/-! DEFINITION. The capture archive (R382 to R393): records, the writer's place in the region, triggers and windows, the TRIG pins, and the
commands of group 0x06. -/

namespace Sys2Proof.Machine

/-! ### Windows (R388, R389, R392) -/

def wFree : Nat := 0
def wOpen : Nat := 1
def wFrozen : Nat := 2

def getWin (s : State) (w : Nat) : Window := sget {} s.hbm.windows w

def setWin (s : State) (w : Nat) (x : Window) : State := { s with hbm := { s.hbm with windows := sset {} s.hbm.windows w x } }

/-- The window that is OPEN. -/
def openWin (s : State) : Option Nat := (List.range 4).find? fun w => (getWin s w).st = wOpen

/-- The end of a window: the head while it is OPEN. -/
def winEnd (s : State) (x : Window) : Nat := if x.st = wOpen then s.hbm.head else x.stop

/-- Bytes of a window's span, 0 without a record. -/
def spanLen (s : State) (x : Window) : Nat :=
  let c := captureBytes s
  if x.records = 0 then 0
  else
    let n := (winEnd s x + c - x.start) % c
    if n = 0 then c else n

/-- An offset lies in the span of a FROZEN window. -/
def inFrozen (s : State) (off : Nat) : Bool :=
  let c := captureBytes s
  (List.range 4).any fun w =>
    let x := getWin s w
    x.st = wFrozen && (off + c - x.start) % c < spanLen s x

/-- A protected span: its start, its length, and whether its window is OPEN (R389). -/
structure Span where
  start : Nat := 0
  len : Nat := 0
  isOpen : Bool := false
  deriving DecidableEq, Repr

/-- An offset of the region lies in a span. -/
def Span.holds (c : Nat) (x : Span) (h : Nat) : Bool := (h + c - x.start) % c < x.len

/-- The protected spans: from its start to the head for an OPEN window, to its end for a FROZEN one (R389). -/
def guarded (s : State) : List Span :=
  (List.range 4).filterMap fun w =>
    let x := getWin s w
    if x.st = wFree || spanLen s x = 0 then none else some { start := x.start, len := spanLen s x, isOpen := x.st = wOpen }

/-! ### The place of a record (R386, R390) -/

/-- Room from an offset to the end of the region or the start of a protected span, whichever comes first. -/
def roomAt (c : Nat) (spans : List Span) (h : Nat) : Nat := spans.foldl (fun m x => min m ((x.start + c - h) % c)) (c - h)

/-- The place for a record of `n` bytes from `h` on, none when no unprotected space is left within one turn of the region, and the pads that fill
what is too small (R386, R390). `left` is what remains of the turn. -/
def findPlace (c : Nat) (spans : List Span) (n h left : Nat) (pads : List (Nat × Nat)) (fuel : Nat) : Option Nat × List (Nat × Nat) :=
  match fuel with
  | 0 => (none, pads.reverse)
  | fuel + 1 =>
    if left = 0 || spans.any (fun x => x.isOpen && x.holds c (h % c)) then (none, pads.reverse)
    else
      match spans.find? fun x => x.holds c (h % c) with
      | some x =>
        let d := x.len - (h % c + c - x.start) % c
        findPlace c spans n ((h + d) % c) (left - d) pads fuel
      | none =>
        let h := h % c
        let room := roomAt c spans h
        if n ≤ room then (some h, pads.reverse) else findPlace c spans n (h + room) (left - room) ((h, room) :: pads) fuel

/-- The offset at which the writer goes on: past the region's end and past frozen spans (R386, R392). -/
def nextHead (c : Nat) (spans : List Span) (h fuel : Nat) : Nat :=
  match fuel with
  | 0 => h % c
  | fuel + 1 =>
    match spans.find? fun x => !x.isOpen && x.holds c (h % c) with
    | some x => nextHead c spans (x.start + x.len) fuel
    | none => h % c

/-- Records that a write covers are gone from the archive (R389). -/
def dropCovered (s : State) (off n : Nat) : State :=
  { s with hbm := { s.hbm with recs := s.hbm.recs.filter fun r => !(r.off < off + n && off < r.off + r.len) } }

/-- The present millisecond of Datum time. -/
def nowMs (s : State) : Nat := now s / (10 ^ 6 * 2 ^ 32)

/-- Writes bytes at the head: covered records and tracked lines go (R381, R386). -/
def writeAtHead (s : State) (off : Nat) (bs : List Byte) (r : CapRec) : State :=
  let s := dropCovered s off bs.length
  let ls := linesOf off bs.length
  let s := { s with hbm := { s.hbm with snoop := s.hbm.snoop.filter fun l => !ls.contains l } }
  let s := writeHdm s off bs
  { s with hbm := { s.hbm with recs := s.hbm.recs ++ [r], head := off + bs.length } }

/-- A pad record up to a boundary (R386). -/
def writePad (s : State) (off n : Nat) : State :=
  let bs := leBytes 12 0 ++ leBytes 2 0xFFFF ++ leBytes 14 0 ++ leBytes 4 s.hbm.seq ++ List.replicate (n - 32) 0
  writeAtHead s off bs { seq := s.hbm.seq, off := off, len := n, ms := nowMs s, pad := true }

/-! ### Triggers (R387 to R389) -/

/-- The detail of a capture event (R440). -/
def capDetail (w sources t : Nat) : List Byte := leBytes 1 w ++ leBytes 1 sources ++ leBytes 8 (shortStamp t)

/-- The first record of the live part that is still present. -/
def oldestRec (s : State) : Option CapRec := s.hbm.recs.find? fun r => !r.pad && !inFrozen s r.off

/-- The first record of an accepted window, and PRE_SHORT (R389): the first of the millisecond of T − pre, or of the next one that has a record;
when that one has been overwritten, the oldest of the live part. -/
def winStart (s : State) (t : Nat) : Option CapRec × Bool :=
  let ms0 := (t - pget s pidCapPreUs * 1000 * 2 ^ 32) / (10 ^ 6 * 2 ^ 32)
  match s.hbm.recs.find? fun r => !r.pad && ms0 ≤ r.ms with
  | none => (none, false)
  | some r => if r.prev.any (ms0 ≤ ·) then (oldestRec s, true) else (some r, false)

/-- The records from one record of the archive on, pads excluded. -/
def recordsFrom (s : State) (seq : Nat) : Nat :=
  ((s.hbm.recs.filter fun r => !r.pad).dropWhile fun r => r.seq != seq).length

/-- A pulse on TRIG_OUT for an accepted trigger (R393). -/
def trigPulses (s : State) : State :=
  (List.range 2).foldl (fun s k =>
    if pget s (pidCapTrigOutMode k) = 1 then
      { s with hbm := { s.hbm with trigOut := sset none s.hbm.trigOut k (some (s.clk + pget s (pidCapTrigOutWidthUs k) * usCycles)) } }
    else s) s

/-- A FREE slot becomes OPEN for a trigger (R388, R389, R392). -/
def acceptTrigger (s : State) (w source t : Nat) : State :=
  let (r, short) := winStart s t
  let x : Window := {
    st := wOpen, flags := b2n short, sources := source, triggers := 1, trigger := t
    untilT := t + (pget s pidCapPostUs * 1000 + residencyLimit s * 10 ^ 6) * 2 ^ 32
    firstSeq := match r with
      | none => s.hbm.seq
      | some r => r.seq
    start := match r with
      | none => s.hbm.head
      | some r => r.off
    lastSeq := (s.hbm.seq + 2 ^ 32 - 1) % 2 ^ 32
    records := match r with
      | none => 0
      | some r => recordsFrom s r.seq }
  let s := trigPulses (setWin s w x)
  logEvent s 0x0060 clsInfo (capDetail w source t)

/-- Notes what became of the trigger of this TIME cycle. -/
def noteTrigger (s : State) (r : Nat) : State := { s with hbm := { s.hbm with lastTrig := some (s.datum.cycle, r) } }

/-- The lowest-numbered FREE slot that a trigger may open; none without a capture region (R374, R388). -/
def freeWin (s : State) : Option Nat :=
  if s.hbm.capture = 0 then none else (List.range 4).find? fun w => (getWin s w).st = wFree

/-- A new trigger (R388): merged, accepted or refused; the result as `lastTrig` holds it. -/
def newTrigger (s : State) (source t : Nat) : State × Nat :=
  match openWin s with
  | some w =>
    let x := getWin s w
    let s := setWin s w { x with sources := x.sources ||| source, triggers := satAdd 8 x.triggers 1 }
    (noteTrigger (pinc s pidCapTrigMerged) (w + 8), w + 8)
  | none =>
    match freeWin s with
    | some w => (noteTrigger (acceptTrigger s w source t) w, w)
    | none => (noteTrigger (logEvent (pinc s pidCapTrigRefused) 0x0063 clsWarning (capDetail 0xFF source t)) 4, 4)

/-- The trigger of this TIME cycle that another source may join (R387). -/
def sameCycle (s : State) : Option Nat :=
  match s.hbm.lastTrig with
  | some (c, r) => if c = s.datum.cycle then some r else none
  | none => none

/-- A trigger: those of one TIME cycle form one (R387). -/
def trigger (s : State) (source t : Nat) : State × Nat :=
  match sameCycle s with
  | some r =>
    if r = 4 then (s, 4)
    else
      let w := r % 8
      (setWin s w { getWin s w with sources := (getWin s w).sources ||| source }, r)
  | none => newTrigger s source t

/-- A trigger now would open a window (R388). -/
def wouldOpen (s : State) : Bool := (sameCycle s).isNone && (openWin s).isNone && (freeWin s).isSome

/-! ### Records (R385) -/

/-- The serial of the edition that a packet's tag names, 0 for exception reasons 1 to 7 (R385). -/
def recordSerial (s : State) (c : Copy) : Nat :=
  if 1 ≤ c.reason && c.reason ≤ 7 then 0
  else match liveEd s c.tag with
    | none => 0
    | some e => e.serial

/-- Stored bytes of a frame under a rule (R385). -/
def capLen (s : State) (rule n : Nat) : Nat :=
  let t := pget s (pidCapRuleTrunc rule)
  if t != 0 && t < n then t else n

/-- A record (R385). -/
def recordBytes (s : State) (p : Packet) (c : Copy) (frame : List Byte) (trig : Bool) : List Byte :=
  let n := capLen s c.rule frame.length
  let line := p.get fIngress < 32
  leBytes 8 (p.get fStamp) ++ leBytes 2 (if line then p.frac else 0) ++ leBytes 2 frame.length ++ leBytes 2 n
    ++ leBytes 1 (p.get fIngress) ++ leBytes 1 (p.get fEgress) ++ leBytes 1 c.rule
    ++ leBytes 1 (c.disp + 16 * c.cls + 64 * p.get fPass)
    ++ leBytes 1 (c.tag + 4 * b2n (n < frame.length) + 8 * b2n trig) ++ leBytes 1 0 ++ leBytes 4 (recordSerial s c)
    ++ leBytes 2 (p.get fDomain) ++ leBytes 2 (p.get fAccession) ++ leBytes 4 s.hbm.seq ++ padTo (frame.take n) 32

/-- An OPEN window takes in the record just written (R389). -/
def extendOpen (s : State) (seq off : Nat) : State :=
  match openWin s with
  | none => s
  | some w =>
    let x := getWin s w
    setWin s w { x with lastSeq := seq, records := x.records + 1
                        firstSeq := if x.records = 0 then seq else x.firstSeq
                        start := if x.records = 0 then off else x.start }

/-- A window becomes FROZEN with its end at the head (R389). -/
def freezeWin (s : State) (w flags : Nat) : State :=
  let x := getWin s w
  let s := setWin s w { x with st := wFrozen, stop := s.hbm.head, flags := x.flags ||| flags }
  logEvent s 0x0061 clsInfo (capDetail w x.sources x.trigger)

/-- No space is left: the record is lost, nothing more is written until a window is released, and an OPEN window freezes with POST_SHORT
(R390). -/
def lostFull (s : State) : State :=
  let s := pinc s pidCapLostFull
  let s := { s with hbm := { s.hbm with full := true } }
  match openWin s with
  | none => s
  | some w => freezeWin s w 2

/-- T of a packet match: the record's stamp, whose fraction is 0 on an internal port (R353, R385, R387). -/
def recordTime (p : Packet) : Nat := stampUnits (if p.get fIngress < 32 then p else { p with frac := 0 })

/-- A record goes to its place at the head (R385, R386, R389). -/
def placeRecord (s : State) (rule off : Nat) (bs : List Byte) : State :=
  let seq := s.hbm.seq
  let s := writeAtHead s off bs { seq := seq, off := off, len := bs.length, ms := nowMs s, prev := s.hbm.lastMs }
  let s := { s with hbm := { s.hbm with seq := (seq + 1) % 2 ^ 32, lastMs := some (nowMs s) } }
  extendOpen (pinc s (pidCapRuleRecorded rule)) seq off

/-- Writes the record of a copy; a rule with the trigger bit makes it a trigger (R385 to R390). -/
def writeRecord (s : State) (p : Packet) (c : Copy) (frame : List Byte) : State :=
  let trig := pget s (pidCapRuleTrigger c.rule) = 1
  let bs := recordBytes s p c frame (trig && wouldOpen s)
  if s.hbm.full then lostFull s
  else
    let (place, pads) := findPlace (captureBytes s) (guarded s) bs.length s.hbm.head (captureBytes s) [] 16
    let s := pads.foldl (fun s ab => writePad s ab.1 ab.2) s
    match place with
    | none => lostFull s
    | some off =>
      let s := placeRecord s c.rule off bs
      if trig then (trigger s 0x10 (recordTime p)).1 else s

/-- The capture writer writes the oldest copy of its staging buffer (R384, R386). -/
def execCaptureWrite (s : State) : Result :=
  match s.hbm.staged with
  | [] => .next s
  | c :: rest =>
    let s := { s with hbm := { s.hbm with staged := rest } }
    match getPkt s c.pkt with
    | none => .next (settlePanic s)
    | some p =>
      let frame := copyBytes s c
      let s := if s.hbm.capture = 0 then pinc s (pidCapRuleDropped c.rule) else writeRecord s p c frame
      .next (settlePanic (discardCopy s c))

/-! ### Events of windows and pins -/

/-- The post extent of an OPEN window ends; before that nothing happens (R389). -/
def execCaptureWindowFreeze (w : Fin 4) (s : State) : Result :=
  let x := getWin s w.val
  if x.st = wOpen && x.untilT ≤ now s then .next (freezeWin s w.val 0) else .next s

/-- An edge on TRIG_IN[k], stamped in 2^-32 ns: the selected edge triggers, unless it lies within the hold-off (R387). -/
def execTrigInEdge (k : Fin 4) (rising : Bool) (stamp : Nat) (s : State) : Result :=
  let mode := pget s (pidCapTrigInMode k.val)
  let held := match sget none s.hbm.trigAt k.val with
    | none => false
    | some c => s.clk ≤ c + pget s (pidCapTrigInHoldoffUs k.val) * usCycles
  if mode != (if rising then 1 else 2) || held then .next s
  else
    let s := { s with hbm := { s.hbm with trigAt := sset none s.hbm.trigAt k.val (some s.clk) } }
    .next (trigger s (2 ^ k.val) (stamp - pget s (pidCapTrigInDelayNs k.val) * 2 ^ 32)).1

/-- A TRIG_OUT pulse reaches its width; before that nothing happens (R393). -/
def execTrigOutPulseEnd (k : Fin 2) (s : State) : Result :=
  match sget none s.hbm.trigOut k.val with
  | none => .next s
  | some u => if u ≤ s.clk then .next { s with hbm := { s.hbm with trigOut := sset none s.hbm.trigOut k.val none } } else .next s

/-- The level of TRIG_OUT[k] (R393). -/
def trigOutLevel (s : State) (k : Nat) : Bool :=
  let m := pget s (pidCapTrigOutMode k)
  let some' (st : Nat) : Bool := (List.range 4).any fun w => (getWin s w).st = st
  if m = 1 then (sget none s.hbm.trigOut k).isSome else if m = 2 then some' wOpen else if m = 3 then some' wFrozen else false

/-! ### The commands of group 0x06 -/

/-- CAPTURE_TRIGGER (R387, R388). -/
def execCaptureTrigger (h : CmdHdr) (ps : List Byte) (s : State) : Result :=
  hostCmdN s h 0x0600 0 ps 0 fun s =>
    let t := now s
    let (s, r) := trigger s 0x20 t
    if r = 4 then (s, some (stNoResource, []))
    else answer s (leBytes 1 (r % 8) ++ leBytes 1 (r / 8) ++ leBytes 2 0 ++ timeRecord t)

/-- CAPTURE_RELEASE (R391). -/
def execCaptureRelease (h : CmdHdr) (ps : List Byte) (s : State) : Result :=
  hostCmdN s h 0x0601 0 ps 4 fun s =>
    let w := leAt ps 0 1
    if 4 ≤ w || !zeros ps 1 3 then refuse s stBadParam
    else
      let x := getWin s w
      if x.st = wOpen then refuse s stBusy
      else if x.st = wFree then answer s []
      else
        let s := { s with hbm := { s.hbm with full := false } }
        answer (logEvent (setWin s w {}) 0x0062 clsInfo (capDetail w x.sources x.trigger)) []

/-- A window record of CAPTURE_STATUS (R392). -/
def winBytes (s : State) (x : Window) : List Byte :=
  if x.st = wFree then List.replicate 48 0
  else
    let stop := winEnd s x
    let wraps := x.records != 0 && stop ≤ x.start
    leBytes 1 x.st ++ leBytes 1 (x.flags % 4 + 4 * b2n wraps) ++ leBytes 1 x.sources ++ leBytes 1 x.triggers ++ leBytes 4 x.firstSeq
      ++ leBytes 4 x.lastSeq ++ leBytes 4 x.records ++ leBytes 8 x.start ++ leBytes 8 stop ++ leBytes 8 (shortStamp x.trigger)
      ++ leBytes 2 (frac16 x.trigger) ++ leBytes 6 0

/-- The oldest record still present in the live part; the next one when there is none (R392). -/
def oldestSeq (s : State) : Nat :=
  match oldestRec s with
  | none => s.hbm.seq
  | some r => r.seq

/-- CAPTURE_STATUS (R392). -/
def execCaptureStatus (h : CmdHdr) (ps : List Byte) (s : State) : Result :=
  hostCmdN s h 0x0602 0 ps 0 fun s =>
    let head := nextHead (captureBytes s) (guarded s) s.hbm.head 8
    answer s (leBytes 8 head ++ leBytes 4 s.hbm.seq ++ leBytes 4 (oldestSeq s)
      ++ (List.range 4).flatMap fun w => winBytes s (getWin s w))

end Sys2Proof.Machine
end

