-- ==== Sys2Proof/Machine/Aes.lean ====
section
/-! DEFINITION. AES-128 and AES-256 (FIPS 197) and Galois/Counter Mode (NIST SP 800-38D), which the crypto helper names by their
standards (R201). -/

namespace Sys2Proof.Machine

/-- Multiplication by x in GF(2^8). -/
def gfDouble (a : Byte) : Byte := if a.getLsbD 7 then (a <<< 1) ^^^ 0x1B else a <<< 1

/-- Multiplication in GF(2^8). -/
def gfMul (a b : Byte) : Byte :=
  ((List.range 8).foldl (fun (acc : Byte × Byte) i =>
    (if b.getLsbD i then acc.1 ^^^ acc.2 else acc.1, gfDouble acc.2)) (0, a)).1

/-- The inverse in GF(2^8), a^254, with 0 for 0. -/
def gfInv (a : Byte) : Byte :=
  let a2 := gfMul a a
  let a4 := gfMul a2 a2
  let a8 := gfMul a4 a4
  let a16 := gfMul a8 a8
  let a32 := gfMul a16 a16
  let a64 := gfMul a32 a32
  let a128 := gfMul a64 a64
  gfMul a2 (gfMul a4 (gfMul a8 (gfMul a16 (gfMul a32 (gfMul a64 a128)))))

/-- The S-box. -/
def aesSbox (a : Byte) : Byte :=
  let b := gfInv a
  b ^^^ b.rotateLeft 1 ^^^ b.rotateLeft 2 ^^^ b.rotateLeft 3 ^^^ b.rotateLeft 4 ^^^ 0x63

/-- Round constant i, from 1. -/
def aesRcon (i : Nat) : Byte := (List.range (i - 1)).foldl (fun r _ => gfDouble r) 1

/-- Exclusive-or of byte lists. -/
def xorBytes (a b : List Byte) : List Byte := List.zipWith (· ^^^ ·) a b

/-- Key expansion: words as byte lists, latest first. -/
def aesExpand (nk : Nat) (ws : List (List Byte)) (i n : Nat) : List (List Byte) :=
  match n with
  | 0 => ws
  | n + 1 =>
    let t := ws.getD 0 []
    let t := if i % nk = 0 then xorBytes ((t.drop 1 ++ t.take 1).map aesSbox) [aesRcon (i / nk), 0, 0, 0]
      else if nk = 8 && i % nk = 4 then t.map aesSbox else t
    aesExpand nk (xorBytes (ws.getD (nk - 1) []) t :: ws) (i + 1) n

/-- The round keys of a key of 16 or 32 bytes, 16 bytes each. -/
def aesKeys (key : List Byte) : List (List Byte) :=
  let nk := key.length / 4
  let total := 4 * (nk + 7)
  let w0 := (List.range nk).map fun i => bytesAt key (4 * i) 4
  let ws := (aesExpand nk w0.reverse nk (total - nk)).reverse
  (List.range (nk + 7)).map fun r => ((List.range 4).map fun j => ws.getD (4 * r + j) []).flatten

/-- ShiftRows on a state in column order. -/
def shiftRows (b : List Byte) : List Byte := (List.range 16).map fun i => byteAt b ((i + 4 * (i % 4)) % 16)

/-- MixColumns on one column. -/
def mixColumn (c : List Byte) : List Byte :=
  (List.range 4).map fun i =>
    gfMul 2 (byteAt c i) ^^^ gfMul 3 (byteAt c ((i + 1) % 4)) ^^^ byteAt c ((i + 2) % 4) ^^^ byteAt c ((i + 3) % 4)

/-- MixColumns. -/
def mixColumns (b : List Byte) : List Byte := (List.range 4).flatMap fun j => mixColumn (bytesAt b (4 * j) 4)

/-- One inner round. -/
def aesRound (b k : List Byte) : List Byte := xorBytes (mixColumns (shiftRows (b.map aesSbox))) k

/-- Encrypts one block under expanded keys. -/
def aesEncrypt (keys : List (List Byte)) (b : List Byte) : List Byte :=
  match keys with
  | [] => b
  | k0 :: rest =>
    let b := (rest.take (rest.length - 1)).foldl aesRound (xorBytes b k0)
    xorBytes (shiftRows (b.map aesSbox)) (rest.getLast?.getD [])

/-! ### GCM -/

/-- Multiplication in GF(2^128), the leftmost bit first. -/
def gcmMul (x y : BitVec 128) : BitVec 128 :=
  ((List.range 128).foldl (fun (acc : BitVec 128 × BitVec 128) i =>
    let z := if x.getMsbD i then acc.1 ^^^ acc.2 else acc.1
    let v := if acc.2.getLsbD 0 then (acc.2 >>> 1) ^^^ (0xE1#128 <<< 120) else acc.2 >>> 1
    (z, v)) (0, y)).1

/-- Blocks of 16 bytes as numbers, the last one padded with zeros. -/
def gcmBlocks (bs : List Byte) : List (BitVec 128) :=
  (List.range (ceilDiv bs.length 16)).map fun i => BitVec.ofNat 128 (beNat (bytesAt bs (16 * i) 16))

/-- GHASH over additional data and ciphertext. -/
def ghash (h : BitVec 128) (aad ct : List Byte) : BitVec 128 :=
  let len : BitVec 128 := BitVec.ofNat 128 (8 * aad.length * 2 ^ 64 + 8 * ct.length)
  (gcmBlocks aad ++ gcmBlocks ct ++ [len]).foldl (fun y x => gcmMul (y ^^^ x) h) 0

/-- The counter block of a 12-byte IV. -/
def gcmCounter (iv : List Byte) (n : Nat) : List Byte := fitBytes iv 12 ++ beBytes 4 n

/-- CTR mode from counter 2. -/
def gcmCtr (keys : List (List Byte)) (iv data : List Byte) : List Byte :=
  (List.range (ceilDiv data.length 16)).flatMap fun i =>
    xorBytes ((data.drop (16 * i)).take 16) (aesEncrypt keys (gcmCounter iv (i + 2)))

/-- The full 16-byte tag over additional data and ciphertext. -/
def gcmTag (keys : List (List Byte)) (iv aad ct : List Byte) : List Byte :=
  let h := BitVec.ofNat 128 (beNat (aesEncrypt keys (List.replicate 16 0)))
  xorBytes (beBytes 16 (ghash h aad ct).toNat) (aesEncrypt keys (gcmCounter iv 1))

end Sys2Proof.Machine
end

