-- ==== Sys2Proof/Machine/Stream.lean ====
section
/-! DEFINITION. The stream table (R304 to R311): filtering, gating, metering, sequence recovery and generation, creation, the stream
gates, and the stream sweepers. -/

namespace Sys2Proof.Machine

/-! ### Entries (R305): fields of the 512-bit entry -/

def sLock : Nat × Nat := (511, 1)
def sValid : Nat × Nat := (510, 1)
def sStatic : Nat × Nat := (509, 1)
def sHit : Nat × Nat := (508, 1)
def sIdle : Nat × Nat := (507, 1)
def sBlocked : Nat × Nat := (506, 1)
def sFunc : Nat × Nat := (503, 3)
def sGateEn : Nat × Nat := (438, 1)
def sGate : Nat × Nat := (429, 9)
def sBlockEn : Nat × Nat := (428, 1)
def sMaxSdu : Nat × Nat := (414, 14)
def sMeterEn : Nat × Nat := (413, 1)
def sPolicer : Nat × Nat := (400, 13)
def sResetMs : Nat × Nat := (384, 16)
def sHistory : Nat × Nat := (256, 128)
def sLastUs : Nat × Nat := (224, 32)
def sResets : Nat × Nat := (208, 16)
def sRogue : Nat × Nat := (192, 16)
def sDiscarded : Nat × Nat := (160, 32)
def sAccepted : Nat × Nat := (128, 32)
def sHlen : Nat × Nat := (120, 8)
def sIpv : Nat × Nat := (116, 4)
def sVerdict : Nat × Nat := (112, 4)
def sSeq : Nat × Nat := (96, 16)
def sKey : Nat × Nat := (0, 64)

/-- A stream entry as one number. -/
structure StrEnt where
  v : Nat := 0
  deriving DecidableEq, Repr

def StrEnt.get (e : StrEnt) (f : Nat × Nat) : Nat := bitsOf e.v f.1 f.2
def StrEnt.set (e : StrEnt) (f : Nat × Nat) (x : Nat) : StrEnt := { v := putBits e.v f.1 f.2 x }
def StrEnt.is (e : StrEnt) (f : Nat × Nat) : Bool := e.get f = 1
/-- Counters of an entry wrap (R305). -/
def StrEnt.inc (e : StrEnt) (f : Nat × Nat) : StrEnt := e.set f (e.get f + 1)

def streamPart : Part := { kind := .stream, size := 65536 }

def strGet (s : State) (h i : Nat) : StrEnt := { v := leNat (tblBytes s (streamBase h + 64 * i) 64) }

def strPut (s : State) (h i : Nat) (e : StrEnt) : State := tblWrite s (streamBase h + 64 * i) (leBytes 64 e.v)

/-- Verdicts (R306). -/
def vAccept : Nat := 0
def vAcceptReset : Nat := 1
def vAcceptWindow : Nat := 2
def vDuplicate : Nat := 3
def vRogue : Nat := 4
def vOversize : Nat := 5
def vBlocked : Nat := 6
def vGateClosed : Nat := 7
def vMeterDrop : Nat := 8
def vGenerated : Nat := 9
def vLocked : Nat := 10

/-! ### Stream gates (R311) -/

/-- The gate list of instance i in force at a time in ns. -/
def sgateAtTime (s : State) (i t : Nat) : GateList :=
  gateOfRecord (if t < sget 0 s.tbl.sgateAt i then sget 0 s.tbl.sgateOld i else pget s (pidTblSgate i))

/-- The state of a gate at a time: open, with its IPV, or closed. A gate without a list is always open (R314); one whose schedule is bad is
closed (R281). -/
def sgateOpen (s : State) (i t : Nat) : Option Nat :=
  if entryBad s (sgateBase + 512 * i) 512 then none
  else
    match gateEntry (sgateAtTime s i t) t with
    | none => some 0
    | some (_, e, _) => if e.val % 256 = 1 then some (bitsOf e.val 8 4) else none

/-! ### Recovery (R307) -/

/-- HLEN, 0 taken as 1 (R305). -/
def hlenOf (e : StrEnt) : Nat := if e.get sHlen = 0 then 1 else e.get sHlen

/-- An acceptance at a time in µs. -/
def strAccept (e : StrEnt) (u : Nat) : StrEnt := e.set sLastUs u

/-- PRP, HSR and FRER_VECTOR: the window on the history (R307). -/
def vectorRecover (e : StrEnt) (q u : Nat) : StrEnt × Nat :=
  let d := toSigned 16 (q + 65536 - e.get sSeq)
  let n : Int := hlenOf e
  if d ≥ n || -d ≥ n then
    let e := e.inc sRogue
    if e.get sFunc = 3 then (e, vRogue)
    else (strAccept ((e.set sSeq q).set sHistory 1) u, vAcceptWindow)
  else if d > 0 then
    let hist := (e.get sHistory * 2 ^ d.toNat ||| 1) % 2 ^ hlenOf e
    (strAccept ((e.set sHistory hist).set sSeq q) u, vAccept)
  else if bitOf (e.get sHistory) (-d).toNat then (e, vDuplicate)
  else (strAccept (e.set sHistory (putBits (e.get sHistory) (-d).toNat 1 1)) u, vAccept)

/-- Recovery or generation with sequence q at time u in µs (R307). -/
def strRecover (e : StrEnt) (q u : Nat) : StrEnt × Nat :=
  if e.get sFunc = 5 then (e.inc sSeq, vGenerated)
  else if e.get sResetMs != 0 && e.get sResetMs * 1000 ≤ sub32 u (e.get sLastUs) then
    (strAccept (((e.set sSeq q).set sHistory 1).inc sResets) u, vAcceptReset)
  else if e.get sFunc = 4 then
    if q = e.get sSeq then (e, vDuplicate) else (strAccept (e.set sSeq q) u, vAccept)
  else vectorRecover e q u

/-! ### A hit (R306) -/

/-- Counts the verdict: ACCEPTED for 0x0-0x2, DISCARDED for 0x3-0x8 (R306). -/
def strCount (e : StrEnt) (v : Nat) : StrEnt :=
  let e := e.set sVerdict v
  if v ≤ 2 then e.inc sAccepted else if v ≤ 8 then e.inc sDiscarded else e

/-- A FUNC that acts: not NONE, and not a reserved value (R305). -/
def funcActs (f : Nat) : Bool := 1 ≤ f && f ≤ 5

/-- Steps 4 and 5 of R306. -/
def strMeter (s : State) (h : Nat) (e : StrEnt) (q len stamp rep : Nat) (noseq : Bool) : State × StrEnt × Nat :=
  let r := if e.is sMeterEn then polTest s (e.get sPolicer) stamp len rep else (s, true)
  if !r.2 then (r.1, e, vMeterDrop)
  else
    let s := if 6 ≤ e.get sFunc then pinc r.1 (pidStreamHalfBadFunc h) else r.1
    if funcActs (e.get sFunc) && !noseq then
      let x := strRecover e q (stampNs stamp / 1000 % 2 ^ 32)
      (s, x.1, x.2)
    else (s, e, vAccept)

/-- Steps 1 to 5 of R306 on an unlocked entry: state, entry and verdict, before the counts. -/
def strFilter (s : State) (h : Nat) (e : StrEnt) (q len stamp rep : Nat) (noseq : Bool) : State × StrEnt × Nat :=
  if e.is sBlocked then (s, e, vBlocked)
  else if e.get sMaxSdu != 0 && e.get sMaxSdu < len then
    (s, if e.is sBlockEn then e.set sBlocked 1 else e, vOversize)
  else if e.is sGateEn then
    let s := checkParity s (sgateBase + 512 * e.get sGate) 512 rep
    match sgateOpen s (e.get sGate) (stampNs stamp) with
    | none => (s, e, vGateClosed)
    | some ipv => strMeter s h (e.set sIpv ipv) q len stamp rep noseq
  else strMeter s h e q len stamp rep noseq

/-- What a lookup answers: its code (0 HIT, 1 MISS, 2 PARITY, 3 RANGE), index and data, and whether it marks the packet (R196, R308). -/
structure LookOut where
  code : Nat := 1
  index : Nat := 0xFFFFFFFF
  data : List Byte := []
  mark : Bool := false
  deriving DecidableEq, Repr

/-- A result without an entry: the manual gives its first `n` data bytes no value, so they are free (R196; log entry 45). -/
def noEntry (s : State) (code index n : Nat) : State × LookOut :=
  ({ s with freeCtr := s.freeCtr + 1 }, { code := code, index := index, data := (List.range n).map (Config.noEntryByte s.freeCtr) })

/-- A miss, whose index is 0xFFFF_FFFF (R196). -/
def missOut (s : State) (n : Nat) : State × LookOut := noEntry s 1 0xFFFFFFFF n

/-- The window lock of an entry is held (R297, R306). -/
def strLocked (s : State) (h i : Nat) : Bool := (slotOf s (streamBase h + 64 * i)).isSome || (strGet s h i).is sLock

/-- A hit (R306): the data are bits 383:0 after the lookup, with the allocated number in SEQ for a generation (R305, R307). -/
def strHit (s : State) (h i q len stamp rep : Nat) (noseq : Bool) : State × LookOut :=
  let e0 := strGet s h i
  if strLocked s h i then (s, { code := 0, index := i, data := leBytes 48 (e0.set sVerdict vLocked).v })
  else
    let e := (e0.set sHit 1).set sIdle 0
    let (s, e, v) := strFilter s h e q len stamp rep noseq
    let e := strCount e v
    let shown := if v = vGenerated then e.set sSeq (e0.get sSeq) else e
    (strPut s h i e, { code := 0, index := i, data := leBytes 48 shown.v, mark := v = vDuplicate || v = vRogue })

/-- A created entry (R309). -/
def strNew (s : State) (key : List Byte) (func q u : Nat) : StrEnt :=
  let e : StrEnt := { v := leNat (fitBytes key 8) }
  let e := (((e.set sValid 1).set sFunc func).set sSeq q).set sHistory 1
  let e := ((e.set sLastUs u).set sHlen (pget s pidTblStreamCreateHlen)).set sResetMs (pget s pidTblStreamCreateResetMs)
  ((e.set sHit 1).set sVerdict vAcceptReset).set sAccepted 1

/-- A miss with CREATE set (R309). -/
def strCreate (s : State) (h : Nat) (key : List Byte) (func q stamp : Nat) : State × LookOut :=
  if func != 1 && func != 2 then missOut (pinc s (pidStreamHalfBadFunc h)) 48
  else
    let free := (candidates s streamPart key).find? fun i =>
      !(strGet s h i).is sValid && !entryBad s (streamBase h + 64 * i) 64
    match free with
    | none => missOut (pinc s (pidStreamHalfCreateFull h)) 48
    | some i =>
      let e := strNew s key func q (stampNs stamp / 1000 % 2 ^ 32)
      (strPut s h i e, { code := 0, index := i, data := leBytes 48 e.v })

/-- LKUP.STREAM with the 16-byte request block (R304). -/
def lookupStream (s : State) (h : Nat) (req : List Byte) (stamp reporter : Nat) : State × LookOut :=
  let key := bytesAt req 0 8
  let q := leAt req 8 2
  let len := leAt req 10 2
  let b := leAt req 12 1
  if 2 ≤ beAt req 0 2 / 2 ^ 14 then missOut (pinc s (pidStreamHalfBadKey h)) 48
  else
    let s := reportCandidates s streamPart h key reporter
    match searchTab s streamPart h key with
    | .hit i => strHit s h i q len stamp reporter (bitOf b 3)
    | .parity i => (s, { code := 2, index := i, data := tblBytes s (streamBase h + 64 * i) 48 })
    | .miss => if bitOf b 0 then strCreate s h key (bitsOf b 1 2) q stamp else missOut s 48

/-! ### The stream sweepers (R310) -/

/-- The sweeper's work on one entry. -/
def sweepStream (s : State) (h i : Nat) : State :=
  if entryBad s (streamBase h + 64 * i) 64 then reportParity s (streamBase h + 64 * i) (learnReporter h)
  else
    let e := strGet s h i
    if !e.is sValid || e.is sStatic || strLocked s h i then s
    else if e.is sHit then strPut s h i ((e.set sHit 0).set sIdle 0)
    else if e.is sIdle then strPut s h i (e.set sValid 0)
    else strPut s h i (e.set sIdle 1)

/-- The next visit of a half's stream sweeper, at an even pace; before its time nothing happens. -/
def execStreamSweepVisit (h : Hf) (s : State) : Result :=
  let k := hIdx h
  let i := sget 0 s.tbl.strSweep k
  let start := sget 0 s.tbl.strSweepAt k
  let due := start + (i * (pget s pidTblStreamSweepMs * msCycles) / 65536 : Nat)
  if s.fw.bootStep < 8 || (s.clk : Int) < due then .next s
  else
    let s := sweepStream s k i
    if i + 1 < 65536 then .next { s with tbl := { s.tbl with strSweep := sset 0 s.tbl.strSweep k (i + 1) } }
    else .next { s with tbl := { s.tbl with
        strSweep := sset 0 s.tbl.strSweep k 0
        strSweepAt := sset 0 s.tbl.strSweepAt k (start + (pget s pidTblStreamSweepMs * msCycles : Nat)) } }

end Sys2Proof.Machine
end

