-- ==== Sys2Proof/Machine/Lpm.lean ====
section
/-! DEFINITION. The LPM table (R300 to R302). -/

namespace Sys2Proof.Machine

/-- Address bits that routes of a family match: 32 for IPv4, the first 64 for IPv6 (R300). -/
def familyBits (family : Nat) : Nat := if family = 4 then 32 else 64

/-- A route matches an address of its family, given as the number of its leading bits. -/
def routeMatches (r : Route) (family addr : Nat) : Bool :=
  r.family = family && addr / 2 ^ (familyBits family - r.len) = r.pfx / 2 ^ (familyBits family - r.len)

/-- The matching route with the longest prefix, with its handle (R300). -/
def longestMatch (s : State) (family addr : Nat) : Option (Nat × Route) :=
  ((spresent s.tbl.routes).filter fun kr => routeMatches kr.2 family addr).foldl
    (fun best kr => match best with
      | none => some kr
      | some b => if b.2.len < kr.2.len then some kr else some b) none

/-- Data of an LPM result (R302). -/
def routeData (r : Route) : List Byte := leBytes 4 r.result ++ leBytes 1 r.len ++ leBytes 1 r.family

/-- Reports a bad trie word or route record (R281). -/
def reportRoute (s : State) (family handle reporter : Nat) : State :=
  report (pinc s (pidTblParity (if family = 4 then 1 else 2))) 0x63 0x0D clsMajor reporter (if family = 4 then 1 else 2) handle 0

/-- LKUP of kind LPM (R300, R302). -/
def lookupLpm (s : State) (half family : Nat) (key : List Byte) (reporter : Nat) : State × LookOut :=
  let addr := beNat (bytesAt key 0 (familyBits family / 8))
  match longestMatch s family addr with
  | none => missOut s 6
  | some (h, r) =>
    if sget false s.tbl.badRoutes (routeCopy half h) then noEntry (reportRoute s family h reporter) 2 0xFFFFFFFF 6
    else (s, { code := 0, index := h, data := routeData r })

/-- LREAD of an LPM partition (R302). -/
def readRoute (s : State) (half family h reporter : Nat) : State × LookOut :=
  if 1048575 < h then noEntry s 3 (Config.rangeIndex h).toNat 6
  else
    match sget none s.tbl.routes h with
    | none => missOut s 6
    | some r =>
      if r.family != family then missOut s 6
      else if sget false s.tbl.badRoutes (routeCopy half h) then (reportRoute s family h reporter, { code := 2, index := h, data := routeData r })
      else (s, { code := 0, index := h, data := routeData r })

/-- Installed routes of a family. -/
def routeCount (s : State) (family : Nat) : Nat := ((spresent s.tbl.routes).filter fun kr => kr.2.family = family).length

/-- The handle of an installed prefix. -/
def findRoute (s : State) (family len pfx : Nat) : Option Nat :=
  ((spresent s.tbl.routes).find? fun kr => kr.2.family = family && kr.2.len = len && kr.2.pfx = pfx).map (·.1)

/-- The lowest handle that no installed route holds (R301). -/
def freeHandleFrom (rs : List (Nat × Route)) (n : Nat) : Nat :=
  match rs with
  | [] => n
  | kr :: rest => if kr.1 = n then freeHandleFrom rest (n + 1) else n

/-- Both copies of a route carry good parity. -/
def cleanRoute (s : State) (h : Nat) : State :=
  { s with tbl := { s.tbl with badRoutes := sset false (sset false s.tbl.badRoutes (routeCopy 0 h) false) (routeCopy 1 h) false } }

/-- Installs or replaces a route, which is written with good parity; its handle (R301). -/
def addRoute (s : State) (r : Route) : State × Nat :=
  let h := match findRoute s r.family r.len r.pfx with
    | some h => h
    | none => freeHandleFrom (spresent s.tbl.routes) 0
  (cleanRoute { s with tbl := { s.tbl with routes := sset none s.tbl.routes h (some r) } } h, h)

/-- Removes a route. -/
def dropRoute (s : State) (h : Nat) : State :=
  cleanRoute { s with tbl := { s.tbl with routes := sset none s.tbl.routes h none } } h

end Sys2Proof.Machine
end

