-- ==== Sys2Proof/Machine/Lookup.lean ====
section
/-! DEFINITION. The lookup ports (R193 to R199): requests at commit, service, and results. -/

namespace Sys2Proof.Machine

/-! ### Result slots (R195 to R197) -/

/-- The thread's slot r, in the half of its task's class. -/
def mySlot (s : State) (k lane r : Nat) : Slot := sget {} (getStn s k).slots (slotKey lane (isStandard s k lane) r)

/-- The handle of the thread's task. -/
def myHandle (s : State) (k lane : Nat) : Nat := handleOf (thrTask s k lane) (getThr s k lane).task

/-- The slot is pending for the same task: SLOT_BUSY (R197). -/
def slotBusy (s : State) (k lane r : Nat) : Bool :=
  (mySlot s k lane r).st = 1 && (mySlot s k lane r).owner = myHandle s k lane

/-- Reserves a slot at commit: pending, its kind, its owner (R197). -/
def reserveSlot (s : State) (k lane r kind : Nat) : State :=
  let key := slotKey lane (isStandard s k lane) r
  let h := myHandle s k lane
  modStn s k fun st => { st with slots := smod {} st.slots key fun x => { x with st := 1, kind := kind, owner := h } }

/-! ### Requests (R193, R194) -/

/-- The lookup port of a lane: 0 for cores c0-c5, 1 for c6-c11 (R193). -/
def portOf (lane : Nat) : Nat := if lane / 8 < 6 then 0 else 1

def portQueue (st : Station) (port : Nat) : List LookReq := if port = 0 then st.port0 else st.port1

def setPortQueue (st : Station) (port : Nat) (q : List LookReq) : Station :=
  if port = 0 then { st with port0 := q } else { st with port1 := q }

/-- The partition that a task's logical table is bound to, 0xFF when unbound (R194, R277). -/
def taskPart (s : State) (t : Task) (tbl : Nat) : Nat := (boundPart s t.tag t.graph tbl).getD 0xFF

/-- Key bytes of a kind (R194, R304). -/
def keyLen (s : State) (kind part : Nat) : Nat :=
  if kind = 0 then 8 else if kind = 1 then 4 else if kind = 2 then 16 else if kind = 3 then 16
  else max 4 (partInfo s part).keyLen

/-- A request of a thread's task. -/
def mkReq (s : State) (k lane : Nat) : LookReq :=
  let th := getThr s k lane
  let t := thrTask s k lane
  { lane := lane, task := th.task, gen := t.gen, cls := t.cls, issued := s.clk - commitCycles, half := chanHalf s k, ingress := dget th.desc fIngress.1 fIngress.2,
    stamp := dget th.desc fStamp.1 fStamp.2, pkt := t.pkt }

/-- Enters a request into its port. -/
def pushReq (s : State) (k : Nat) (r : LookReq) : State :=
  let p := portOf r.lane
  modStn s k fun st => setPortQueue st p (portQueue st p ++ [r])

/-- LKUP (R194, R197). -/
def lkupOp (s : State) (t : Tid) (p : Guard) (kind : Nat) (gS tbl : BitVec 4) (r : BitVec 3) (f : BitVec 4) : Result :=
  let k := t.stn.val
  let lane := tlane t
  issueHelper s t p 0x36 false fun s =>
    let part := taskPart s (thrTask s k lane) tbl.toNat
    let a := ((getThr s k lane).reg gS).toNat % 2 ^ 16
    match helperBytes s k lane a (keyLen s kind part) with
    | .error i => .error i
    | .ok key =>
      if slotBusy s k lane r.toNat then .error (trapHelper 0)
      else
        let req := { mkReq s k lane with kind := kind, part := part, key := key, index := tbl.toNat, slot := r.toNat, flag := f.toNat }
        .ok (pushReq (reserveSlot s k lane r.toNat kind) k req)

/-- LKUP.MAC. -/
def execLkupMac (t : Tid) (p : Guard) (gS tbl : BitVec 4) (r : BitVec 3) (f : BitVec 4) (s : State) : Result :=
  lkupOp s t p 0 gS tbl r f

/-- LKUP.LPM, IPv4. -/
def execLkupLpm4 (t : Tid) (p : Guard) (gS tbl : BitVec 4) (r : BitVec 3) (f : BitVec 4) (s : State) : Result :=
  lkupOp s t p 1 gS tbl r f

/-- LKUP.LPM, IPv6. -/
def execLkupLpm6 (t : Tid) (p : Guard) (gS tbl : BitVec 4) (r : BitVec 3) (f : BitVec 4) (s : State) : Result :=
  lkupOp s t p 2 gS tbl r f

/-- LKUP.STREAM. -/
def execLkupStream (t : Tid) (p : Guard) (gS tbl : BitVec 4) (r : BitVec 3) (f : BitVec 4) (s : State) : Result :=
  lkupOp s t p 3 gS tbl r f

/-- LKUP.EXACT. -/
def execLkupExact (t : Tid) (p : Guard) (gS tbl : BitVec 4) (r : BitVec 3) (f : BitVec 4) (s : State) : Result :=
  lkupOp s t p 4 gS tbl r f

/-- LREAD (R194). -/
def execLread (t : Tid) (p : Guard) (gI tbl : BitVec 4) (r : BitVec 3) (f : BitVec 4) (s : State) : Result :=
  let k := t.stn.val
  let lane := tlane t
  issueHelper s t p 0x37 false fun s =>
    if slotBusy s k lane r.toNat then .error (trapHelper 0)
    else
      let req := { mkReq s k lane with
        kind := 5, part := taskPart s (thrTask s k lane) tbl.toNat, index := ((getThr s k lane).reg gI).toNat, slot := r.toNat,
        flag := f.toNat }
      .ok (pushReq (reserveSlot s k lane r.toNat 5) k req)

/-- LEARN (R194). -/
def execLearn (t : Tid) (p : Guard) (gS tbl : BitVec 4) (s : State) : Result :=
  let k := t.stn.val
  let lane := tlane t
  issueHelper s t p 0x38 false fun s =>
    match helperBytes s k lane (((getThr s k lane).reg gS).toNat % 2 ^ 16) 8 with
    | .error i => .error i
    | .ok key => .ok (pushReq s k { mkReq s k lane with
        kind := 6, part := taskPart s (thrTask s k lane) tbl.toNat, key := key })

/-- CNT (R194). -/
def execCnt (t : Tid) (p : Guard) (gI tbl gB : BitVec 4) (s : State) : Result :=
  let k := t.stn.val
  let lane := tlane t
  issueHelper s t p 0x39 false fun s =>
    .ok (pushReq s k { mkReq s k lane with
      kind := 7, part := taskPart s (thrTask s k lane) tbl.toNat, index := ((getThr s k lane).reg gI).toNat
      bytes := ((getThr s k lane).reg gB).toNat })

/-! ### Service (R198) -/

/-- The request that a port serves next: assured and timed requests round-robin by master identity, each thread's in issue order, then the
others, oldest first (R198). -/
def nextReq (q : List LookReq) (last : Nat) : Option LookReq :=
  match roundRobin 96 last fun l => q.any fun r => r.lane = l && bounded r.cls with
  | some l => q.find? fun r => r.lane = l && bounded r.cls
  | none => q.head?

/-- The kind of a partition fits a request (R278). -/
def kindFits (kind : Nat) (p : PKind) : Bool :=
  match kind, p with
  | 0, .mac => true
  | 1, .lpm4 => true
  | 2, .lpm6 => true
  | 3, .stream => true
  | 4, .exact => true
  | 5, .counter => false
  | 5, .none => false
  | 5, _ => true
  | 6, .mac => true
  | 7, .counter => true
  | _, _ => false

/-- The OMK-400 limit state of a MAC miss (R289). -/
def limitByte (s : State) (h ingress : Nat) : Nat :=
  let q := logicalPort s ingress
  if atLimit s h q then 1 + 2 * (pget s (pidTblLearnPortExcess q) % 2) else 0

/-- LKUP.MAC (R282, R289). -/
def lookupMac (s : State) (h : Nat) (r : LookReq) (reporter : Nat) : State × LookOut :=
  let s := reportCandidates s macPart h r.key reporter
  match searchTab s macPart h r.key with
  | .hit i => (s, { code := 0, index := i, data := tblBytes s (macBase h + 12 * i) 12 })
  | .parity i => (s, { code := 2, index := i, data := tblBytes s (macBase h + 12 * i) 12 })
  | .miss =>
    let x := missOut s 12
    (x.1, { x.2 with data := x.2.data ++ leBytes 1 (limitByte s h r.ingress) })

/-- LKUP.EXACT (R303). -/
def lookupExact (s : State) (h : Nat) (r : LookReq) (reporter : Nat) : State × LookOut :=
  let p := partInfo s r.part
  let key := bytesAt r.key 0 p.keyLen
  let s := reportCandidates s p h key reporter
  match searchTab s p h key with
  | .hit i => (s, { code := 0, index := i, data := fitBytes (entryBytes s p h i) 48 })
  | .parity i => (s, { code := 2, index := i, data := fitBytes (entryBytes s p h i) 48 })
  | .miss => missOut s 48

/-- LREAD (R194, R196, R302). -/
def readEntry (s : State) (h : Nat) (r : LookReq) (reporter : Nat) : State × LookOut :=
  let p := partInfo s r.part
  match p.kind with
  | .lpm4 => readRoute s h 4 r.index reporter
  | .lpm6 => readRoute s h 6 r.index reporter
  | _ =>
    if partEntries p ≤ r.index then noEntry s 3 (Config.rangeIndex r.index).toNat 48
    else
      let a := entryAddr p h r.index
      let bad := entryBad s a (entrySize p)
      (checkParity s a (entrySize p) reporter,
        { code := if bad then 2 else 0, index := r.index, data := fitBytes (entryBytes s p h r.index) 48 })

/-- CNT: both counts wrap modulo 2^64; an index beyond the partition is counted and changes nothing (R194, R196). -/
def countEntry (s : State) (k : Nat) (r : LookReq) (reporter : Nat) : State :=
  let p := partInfo s r.part
  if p.size ≤ r.index then pinc s (pidHlpSHelperErr k 3)
  else
    let a := entryAddr p 0 r.index
    let s := checkParity s a 16 reporter
    let bs := tblBytes s a 16
    tblWrite s a (leBytes 8 (leAt bs 0 8 + 1) ++ leBytes 8 (leAt bs 8 8 + r.bytes))

/-- A result that no rule states: a lookup of a table that is unbound or of the wrong kind. -/
def unboundOut (graph tbl : Nat) : LookOut :=
  { code := (Config.unboundLookup graph tbl 0).toNat % 4, index := (Config.unboundLookup graph tbl 1).toNat,
    data := (List.range 12).flatMap fun i => leBytes 4 (Config.unboundLookup graph tbl (i + 2)).toNat }

/-- The engines of the half perform a request (R198): kinds 0-5 answer a result, LEARN and CNT take effect. -/
def performReq (s : State) (k : Nat) (r : LookReq) : State × Option LookOut :=
  let h := r.half
  let reporter := 0x2000 + 2 * k + portOf r.lane
  if !kindFits r.kind (partInfo s r.part).kind then
    (s, if r.kind ≤ 5 then some (unboundOut (getTask s k r.task).graph r.index) else none)
  else
    let some' (x : State × LookOut) : State × Option LookOut := (x.1, some x.2)
    match r.kind with
    | 0 => some' (lookupMac s h r reporter)
    | 1 => some' (lookupLpm s h 4 r.key reporter)
    | 2 => some' (lookupLpm s h 6 r.key reporter)
    | 3 => some' (lookupStream s h r.key r.stamp reporter)
    | 4 => some' (lookupExact s h r reporter)
    | 5 => some' (readEntry s h r reporter)
    | 6 => (submitEv s h r.key r.ingress r.stamp (.learn (logicalPort s r.ingress) false), none)
    | _ => (countEntry s k r reporter, none)

/-- A port serves its next request; with none waiting nothing happens (R198). -/
def execLookupServe (sn : Fin 17) (port : Fin 2) (s : State) : Result :=
  let k := sn.val
  let st := getStn s k
  let last := if port.val = 0 then st.last0 else st.last1
  match nextReq (portQueue st port.val) last with
  | none => .next s
  | some r =>
    let s := modStn s k fun st =>
      let st := setPortQueue st port.val (dropFirst (· == r) (portQueue st port.val))
      if !bounded r.cls then st else if port.val = 0 then { st with last0 := r.lane } else { st with last1 := r.lane }
    let s := pinc s (pidHlpSPortServed k port.val)
    match performReq s k r with
    | (s, none) => .next s
    | (s, some o) =>
      let res : LookRes := { req := r, code := o.code + (if o.mark then 256 else 0), index := o.index, data := o.data }
      .next (modStn s k fun st => { st with results := st.results ++ [res] })

/-! ### Results (R187, R196, R197) -/

/-- The slot of a request still belongs to the requesting task. -/
def slotOwned (st : Station) (key : Nat) (r : LookReq) : Bool :=
  (sget {} st.slots key).st = 1 && (sget {} st.slots key).owner = r.gen.toNat * 2 ^ 16 + r.task

/-- The requesting task still runs or is shelved. -/
def reqAlive (s : State) (k : Nat) (r : LookReq) : Bool :=
  let t := getTask s k r.task
  t.gen = r.gen && (t.st = .running || t.st = .shelved)

/-- STATE of a code: error for RANGE, BAD_BLOCK, KEY_EMPTY and TOO_LONG, done otherwise (R196). -/
def stateOfCode (c : Nat) : Nat := if c = 3 || c = 7 || c = 8 || c = 9 then 3 else 2

/-- The next result reaches its slot in the cycle in which flag f is set, or is discarded and counted as an orphan (R187, R196, R197); a
verdict of DUPLICATE or ROGUE marks the packet then (R308). -/
def execLookupResult (sn : Fin 17) (s : State) : Result :=
  let k := sn.val
  match (getStn s k).results with
  | [] => .next s
  | res :: rest =>
    let r := res.req
    let key := slotKey r.lane (r.cls = 0) r.slot
    let owned := slotOwned (getStn s k) key r
    let s := modStn s k fun st => { st with results := rest }
    if owned && reqAlive s k r then
      let code := res.code % 256
      let lat := min (s.clk - r.issued) 0xFFFF
      let s := modStn s k fun st => { st with slots := smod {} st.slots key fun x =>
        { x with st := stateOfCode code, code := code, index := res.index, latency := lat, data := fitBytes res.data 48 } }
      let s := if bounded r.cls && r.kind ≤ 4 then pmax s (pidHlpSPortLatencyMax k (portOf r.lane)) (s.clk - r.issued) else s
      let s := if 256 ≤ res.code then modPkt s r.pkt fun p => { p with duplicate := true } else s
      .next (deliverLive s k r.task r.gen r.flag)
    else
      let s := if owned then modStn s k fun st => { st with slots := smod {} st.slots key fun x => { x with st := 0 } } else s
      .next (pinc s (pidHlpSOrphans k))

end Sys2Proof.Machine
end

