-- ==== Sys2Proof/Machine/Crypto.lean ====
section
/-! DEFINITION. The crypto helper (R200 to R203, R208 to R210): the key store, parameter blocks, GCM and HMAC jobs, emulation on a part
whose helper is disabled by fuse, and the end of a job. -/

namespace Sys2Proof.Machine

/-- A key of the store: type and bytes (R200). -/
def keyRecord (s : State) (n : Nat) : Nat × List Byte :=
  let r := leBytes 66 (pget s (pidCryptoKey n))
  (leAt r 0 1, bytesAt r 2 (leAt r 1 1))

/-! ### Parameter blocks (R201) -/

/-- A parameter block. -/
structure Block where
  op : Nat := 0
  key : Nat := 0
  tagLen : Nat := 0
  flags : Nat := 0
  iv : Nat := 0
  aadOff : Nat := 0
  aadLen : Nat := 0
  dataOff : Nat := 0
  dataLen : Nat := 0
  out : Nat := 0
  tag : Nat := 0
  rsvd : Nat := 0

def blockOf (bs : List Byte) : Block :=
  { op := leAt bs 0 1, key := leAt bs 1 1, tagLen := leAt bs 2 1, flags := leAt bs 3 1, iv := leAt bs 4 2, aadOff := leAt bs 6 2,
    aadLen := leAt bs 8 2, dataOff := leAt bs 10 2, dataLen := leAt bs 12 2, out := leAt bs 14 2, tag := leAt bs 16 2,
    rsvd := leAt bs 18 14 }

/-- ENC or DEC: the job writes output. -/
def Block.writes (b : Block) : Bool := b.op = 1 || b.op = 2

/-- DEC, GMAC_VER or VER: the job checks a tag. -/
def Block.verifies (b : Block) : Bool := b.op = 2 || b.op = 4 || b.op = 6

def Block.srcPacket (b : Block) : Bool := b.flags = 1

/-- The op belongs to the major: 0x3A GCM or 0x3B HMAC. -/
def Block.opOk (b : Block) (major : Nat) : Bool :=
  if major = 0x3A then 1 ≤ b.op && b.op ≤ 4 else b.op = 5 || b.op = 6

/-- tag_len of an op. -/
def Block.tagOk (b : Block) : Bool :=
  if b.writes then b.tagLen = 16
  else if b.op ≤ 4 then b.tagLen = 8 || b.tagLen = 16
  else b.tagLen = 10 || b.tagLen = 16 || b.tagLen = 32

/-- An operand range that may be empty, in the readable ranges. -/
def readOk (s : State) (k lane a n : Nat) : Bool := n = 0 || helperOk s k lane a n

/-- The output lies in the head window or in the task's scratch half (R201). -/
def outOk (s : State) (k lane a n : Nat) : Bool :=
  n = 0 || (helperOk s k lane a n && (rangeOf a = .head || rangeOf a = .scratch))

/-- The frame of the thread's packet as the packet buffer holds it, its first bytes replaced by the task's head window (R201). -/
def frameView (s : State) (k lane : Nat) : List Byte :=
  let f := chainBytes s (thrPkt s k lane).folios
  let th := getThr s k lane
  ((List.range (min 256 f.length)).map fun i => bget th.head i) ++ f.drop 256

/-- The source bytes of a range: of the frame, or of the thread's address space (R201). -/
def srcBytes (s : State) (k lane : Nat) (pkt : Bool) (a n : Nat) : List Byte :=
  if n = 0 then [] else if pkt then bytesAt (frameView s k lane) a n else loadBytes s k lane a n

/-- The range lies in the frame or in a readable range. -/
def srcOk (s : State) (k lane : Nat) (pkt : Bool) (a n : Nat) : Bool :=
  if pkt then a + n ≤ (frameView s k lane).length else readOk s k lane a n

/-- The block is in range (R202). -/
def blockOk (s : State) (k lane major : Nat) (b : Block) : Bool :=
  b.opOk major && b.tagOk && b.flags ≤ 1 && b.rsvd = 0
    && (if b.op ≤ 4 then helperOk s k lane b.iv 12 else b.iv = 0)
    && srcOk s k lane b.srcPacket b.aadOff b.aadLen && srcOk s k lane b.srcPacket b.dataOff b.dataLen
    && (if b.writes then outOk s k lane b.out b.dataLen else b.out = 0)
    && (if b.verifies then helperOk s k lane b.tag b.tagLen else b.tag = 0)

/-- The key fits the op (R202). -/
def keyFits (op ty : Nat) : Bool := if op ≤ 4 then ty = 1 || ty = 2 else ty = 3

/-- The job's latency in CORE cycles (R202). -/
def jobLatency (major : Nat) (b : Block) : Nat :=
  let x := if b.srcPacket then 24 else 0
  if major = 0x3A then 40 + x + ceilDiv b.aadLen 16 + ceilDiv b.dataLen 16 + 2
  else 40 + x + 66 * (ceilDiv (b.aadLen + b.dataLen + 9) 64 + 3)

/-! ### Results -/

/-- What a job computes: the full tag and the output bytes. -/
def jobCompute (b : Block) (key iv aad data : List Byte) : List Byte × List Byte :=
  if b.op = 5 || b.op = 6 then (hmacSha256 key (aad ++ data), [])
  else
    let ks := aesKeys key
    if b.op = 1 then
      let ct := gcmCtr ks iv data
      (gcmTag ks iv aad ct, ct)
    else if b.op = 2 then (gcmTag ks iv aad data, gcmCtr ks iv data)
    else if data.isEmpty then (gcmTag ks iv aad [], [])
    else (leBytes 16 (Config.gmacData key iv aad data).toNat, [])

/-- The end of a request: its code, tag, output and latency (R202). The errors are tried in the order in which R202 names them. -/
structure JobEnd where
  code : Nat := 0
  tag : List Byte := []
  out : List Byte := []
  latency : Nat := 8

def runJob (s : State) (k lane major lim : Nat) (b : Block) : JobEnd :=
  if 16 * lim < jobLatency major b then { code := 9 }
  else if !blockOk s k lane major b then { code := 7 }
  else
    let (ty, key) := keyRecord s b.key
    if !keyFits b.op ty then { code := 8 }
    else
      let pkt := b.srcPacket
      let aad := srcBytes s k lane pkt b.aadOff b.aadLen
      let data := srcBytes s k lane pkt b.dataOff b.dataLen
      let iv := if b.op ≤ 4 then loadBytes s k lane b.iv 12 else []
      let r := jobCompute b key iv aad data
      let tag := r.1.take b.tagLen
      let code := if !b.verifies then 4 else if loadBytes s k lane b.tag b.tagLen = tag then 5 else 6
      { code := code, tag := tag, out := r.2, latency := jobLatency major b }

/-- Output bytes are stores of the task (R147, R201). -/
def writeOut (s : State) (k lane a : Nat) (bs : List Byte) : State :=
  if bs.isEmpty then s
  else
    match rangeOf a with
    | .head => modThr s k lane fun th =>
        { th with head := ssetRange 0 th.head a bs, stored := noteStored th.stored a bs.length }
    | _ =>
      let place := memPlace (getThr s k lane) lane a
      modStn s k fun st => { st with mem := ssetRange 0 st.mem place bs }

/-- The slot of a job still belongs to the requesting task, which still runs or is shelved (R187, R197). -/
def jobOwned (s : State) (k : Nat) (j : Job) : Bool :=
  let r : LookReq := { task := j.task, gen := j.gen }
  slotOwned (getStn s k) (slotKey j.lane (j.cls = 0) j.slot) r && reqAlive s k r

/-- The slot, the output and the flag of a job that ends (R196, R202); without an owner the result is an orphan (R187, R197). -/
def deliverJob (s : State) (k : Nat) (j : Job) (latency : Nat) : State :=
  let s := if stateOfCode j.code = 3 then pinc s (pidHlpSCryptoErrors k) else s
  if !jobOwned s k j then pinc s (pidHlpSOrphans k)
  else
  let s := writeOut s k j.lane j.outAddr j.out
  let key := slotKey j.lane (j.cls = 0) j.slot
  let s := modStn s k fun st => { st with slots := smod {} st.slots key fun x =>
    { x with st := stateOfCode j.code, code := j.code, index := 0, latency := min latency 0xFFFF, data := fitBytes j.tag 48 } }
  deliverLive s k j.task j.gen j.flag

/-- A job as its request describes it. -/
def mkJob (s : State) (k lane major : Nat) (r f : Nat) (b : Block) (e : JobEnd) : Job :=
  let th := getThr s k lane
  { lane := lane, task := th.task, gen := (getTask s k th.task).gen, cls := (getTask s k th.task).cls, kind := if major = 0x3A then 6 else 7, slot := r, flag := f,
    issued := s.clk - commitCycles, doneAt := s.clk + e.latency, code := e.code, tag := e.tag, outAddr := b.out, out := e.out }

/-- Bound of the handler in slots (R210). -/
def handlerBound (major a p : Nat) : Nat :=
  if major = 0x3A then 180 + 95 * (ceilDiv a 16 + ceilDiv p 16 + 1) else 160 + 1210 * (ceilDiv (a + p + 9) 64 + 3)

/-- The emulation budget of an operation for a major (R209, R213). -/
def emuBudget (s : State) (k lane major : Nat) : Nat :=
  let t := thrTask s k lane
  match taskImage s t with
  | none => 0
  | some img => if major = 0x3A then opBudget3a img t.node else opBudget3b img t.node

/-- The handler starts at the commit (R210): the slot is reserved, and the thread is in the handler for the slots that it uses, or until its
budget is used up. -/
def emulate (s : State) (k lane major r f : Nat) (b : Block) (e : JobEnd) (before : Thread) : State :=
  let budget := emuBudget s k lane major
  let used := max 1 (min (Config.emuSlots major b.aadLen b.dataLen).toNat (handlerBound major b.aadLen b.dataLen))
  let x : Emu := {
    job := mkJob s k lane major r f b e, left := min used budget, spent := budget < used
    latency := (Config.emuLatency major b.aadLen b.dataLen).toNat
    pc := before.pc, repActive := before.repActive, repLeft := before.repLeft, slot := mySlot s k lane r }
  let s := pinc (reserveSlot s k lane r (if major = 0x3A then 6 else 7)) (pidHlpSEmulated k major)
  modStn s k fun st => { st with emu := st.emu ++ [x] }

/-- The handler has used its last slot: the result, or EMULATION_BUDGET, which leaves the thread as it was before the instruction (R177,
R210). -/
def endEmu (s : State) (k : Nat) (x : Emu) : State :=
  let lane := x.job.lane
  let s := modStn s k fun st => { st with emu := st.emu.filter fun e => e.job.lane != lane }
  if x.spent then
    let key := slotKey lane (x.job.cls = 0) x.job.slot
    let s := modStn s k fun st => { st with slots := sset {} st.slots key x.slot }
    let s := modThr s k lane fun th => { th with pc := x.pc, repActive := x.repActive, repLeft := x.repLeft }
    takeTrap (killTag s k true) k lane { ty := 5 }
  else haltBoundary (deliverJob s k x.job x.latency) k lane

/-- One CORE cycle of a handler: in a cycle whose slot its thread owns it uses that slot (R210). A halt that waits for the thread does not
count the cycle (R273). -/
def stepEmu (s : State) (k : Nat) (x : Emu) : State :=
  let lane := x.job.lane
  let s := modThr s k lane fun th => { th with halt := th.halt.map fun r => { r with since := r.since + 1 } }
  if !ownsSlot s k lane s.clk then s
  else
    let s := modThr s k lane fun th => { th with slots := th.slots + 1 }
    let s := modStn s k fun st => { st with
      idleSince := s.clk - commitCycles, stallSeen := 0
      emu := st.emu.map fun e => if e.job.lane = lane then { e with left := e.left - 1 } else e }
    if x.left ≤ 1 then endEmu s k x else s

/-- One CORE cycle of every handler of the device. -/
def stepEmus (s : State) : State :=
  s.stn.foldl (fun s ks => ks.2.emu.foldl (fun s x => stepEmu s ks.1 x) s) s

/-- GCM or HMAC (R201 to R203, R208 to R210): on a part whose helper is disabled, one without a budget is UNDEFINED before anything else is
decided. -/
def cryptoOp (s : State) (t : Tid) (p : Guard) (major : Nat) (gP : BitVec 4) (r : BitVec 3) (f : BitVec 4) (lim : BitVec 8) : Result :=
  let k := t.stn.val
  let lane := tlane t
  let asked := canIssue s k lane && (getThr s k lane).guard p
  let s := if asked && !s.fuses.crypto && lim != 0 then pinc s (pidHlpSRefused k major) else s
  if jobRunning s k lane && s.fuses.crypto then .next s
  else
    let before := getThr s k lane
    issueHelper s t p major (lim = 0) fun s =>
      let a := ((getThr s k lane).reg gP).toNat % 2 ^ 16
      if !s.fuses.crypto && emuBudget s k lane major = 0 then .error trapUndefined
      else if s.fuses.crypto && !holdsHelper (getStn s k) lane then .error (trapHelper 1)
      else if !(helperOk s k lane a 32 && rangeOf a = .scratch && a % 4 = 0) then .error (trapAddress a)
      else if slotBusy s k lane r.toNat then .error (trapHelper 0)
      else
        let b := blockOf (loadBytes s k lane a 32)
        let e := runJob s k lane major lim.toNat b
        if !s.fuses.crypto then .ok (emulate s k lane major r.toNat f.toNat b e before)
        else
          let s := pinc (reserveSlot s k lane r.toNat (if major = 0x3A then 6 else 7)) (pidHlpSCryptoJobs k)
          let j := mkJob s k lane major r.toNat f.toNat b e
          .ok (modStn s k fun st => { st with job := some j })

/-- GCM (R201). -/
def execGcm (t : Tid) (p : Guard) (gP : BitVec 4) (r : BitVec 3) (f : BitVec 4) (lim : BitVec 8) (s : State) : Result :=
  cryptoOp s t p 0x3A gP r f lim

/-- HMAC (R201). -/
def execHmac (t : Tid) (p : Guard) (gP : BitVec 4) (r : BitVec 3) (f : BitVec 4) (lim : BitVec 8) (s : State) : Result :=
  cryptoOp s t p 0x3B gP r f lim

/-- A crypto job ends at its latency; before that, or without a job, nothing happens (R202). -/
def execCryptoComplete (sn : Fin 17) (s : State) : Result :=
  let k := sn.val
  match (getStn s k).job with
  | none => .next s
  | some j =>
    if j.doneAt ≤ s.clk then
      .next (deliverJob (modStn s k fun st => { st with job := none }) k j (s.clk - j.issued))
    else .next s

end Sys2Proof.Machine
end

