-- ==== Sys2Proof/Machine/Verify.lean ====
section
/-! DEFINITION. The verification of a program image at a pool weight (R215 to R227): intervals, static accesses, the timing model along
every path, the helper lock and channel rules of paths, slot counts and the graph bound. -/

namespace Sys2Proof.Machine

/-! ### Reasons (R216) -/

def vrEncoding : Nat := 0x01
def vrBranch : Nat := 0x02
def vrRepTarget : Nat := 0x03
def vrWait : Nat := 0x04
def vrAddress : Nat := 0x05
def vrLock : Nat := 0x06
def vrChannel : Nat := 0x07
def vrBudget : Nat := 0x08
def vrBinding : Nat := 0x09
def vrSlotBusy : Nat := 0x0A
def vrLimit : Nat := 0x0B
def vrWeight : Nat := 0x0C
def vrBoundLow : Nat := 0x0D

/-- The offset of a reason that belongs to no instruction, and the number of a whole graph. -/
def noOffset : Nat := 0xFFFFFFFF
def wholeGraph : Nat := 0xFF

/-! ### Intervals (R219) -/

/-- An unsigned interval. -/
abbrev Ival := Nat × Nat

def fullIval : Ival := (0, 2 ^ 32 - 1)

/-- Interval arithmetic: a result that can leave 32 bits gives the full range. -/
def ivalOf (lo hi : Int) : Ival := if 0 ≤ lo ∧ hi < 2 ^ 32 then (lo.toNat, hi.toNat) else fullIval

def ivalHull (a b : Ival) : Ival := (min a.1 b.1, max a.2 b.2)

def ivalConst (a : Ival) : Bool := a.1 = a.2

/-- A shift by a constant: 0 SHL, 1 SHR, 2 SAR, 3 ROL. A result that passes 32 bits, or an interval that SAR or ROL does not keep in order, gives
the full range. -/
def ivalShift (kind : Nat) (a : Ival) (n : Nat) : Ival :=
  if kind = 0 then ivalOf (a.1 * 2 ^ n : Nat) (a.2 * 2 ^ n : Nat)
  else if kind = 1 || (kind = 2 && a.2 < 2 ^ 31) then (a.1 / 2 ^ n, a.2 / 2 ^ n)
  else if kind = 2 then if 2 ^ 31 ≤ a.1 then (sar a.1, sar a.2) else fullIval
  else if ivalConst a then (rol a.1, rol a.1)
  else ivalOf (a.1 * 2 ^ n : Nat) (a.2 * 2 ^ n : Nat)
where
  /-- SAR of a value whose sign bit is set. -/
  sar (x : Nat) : Nat := x / 2 ^ n + (2 ^ 32 - 2 ^ (32 - n))
  rol (x : Nat) : Nat := ((BitVec.ofNat 32 x).rotateLeft n).toNat

/-- The interval that a producer gives (R219); `iv` holds the registers' intervals. -/
def srcIval (iv : Nat → Ival) (x : Src) : Ival :=
  match x with
  | .const n => (n, n)
  | .movhi rd n =>
    let v := n * 65536 + (iv rd).1 % 65536
    if ivalConst (iv rd) then (v, v) else fullIval
  | .add a b => ivalOf ((iv a).1 + (iv b).1 : Nat) ((iv a).2 + (iv b).2 : Nat)
  | .sub a b => ivalOf ((iv a).1 - (iv b).2 : Int) ((iv a).2 - (iv b).1 : Int)
  | .addi a i => ivalOf ((iv a).1 + i) ((iv a).2 + i)
  | .mul a b => ivalOf ((iv a).1 * (iv b).1 : Nat) ((iv a).2 * (iv b).2 : Nat)
  | .shl a b => if (iv b).2 < 32 then ivalOf ((iv a).1 * 2 ^ (iv b).1 : Nat) ((iv a).2 * 2 ^ (iv b).2 : Nat) else fullIval
  | .shi kind a n => ivalShift kind (iv a) n
  | .andc a c => (0, min (iv a).2 c)
  | .and a b =>
    if ivalConst (iv b) then (0, min (iv a).2 (iv b).1) else if ivalConst (iv a) then (0, min (iv b).2 (iv a).1) else fullIval
  | .ext a pos len => (0, min (2 ^ len - 1) ((iv a).2 / 2 ^ pos))
  | .any => fullIval

/-- The interval of a post-incremented base of a load or store (R219). -/
def ivalPost (a : Ival) (w : Nat) : Ival :=
  let x := (a.1 + w) % 65536
  let y := (a.2 + w) % 65536
  if a.2 - a.1 < 65536 && x ≤ y then (x, y) else (0, 0xFFFF)

/-! ### Accesses (R144 to R146, R188, R219) -/

/-- How an access is made; a CRC operand keeps the alignment of its width as well (R145, R188). -/
inductive Use where
  | load
  | store
  | field
  | crc
  | atom
  | block
  deriving DecidableEq, Repr

/-- The mapped ranges (R144). -/
def mapped : List (Nat × Nat) :=
  [(0x0000, 0x00FF), (0x0100, 0x011F), (0x0120, 0x015F), (0x0160, 0x01FF), (0x1000, 0x1FFF), (0x2000, 0x3FFF), (0x4000, 0xBFFF),
   (0xC000, 0xDFFF), (0xE000, 0xE07F), (0xE800, 0xEFFF), (0xF000, 0xF0FF), (0xF400, 0xF43F)]

/-- Bytes that R144 lets a load read one by one; the narrower ranges of R166, R188 and R201 are not among the rules of R219, and are checked
when the instruction executes. -/
def bytesStatic (a w : Nat) : Bool :=
  match rangeOf a with
  | .locks => false
  | .aperture => false
  | .regs => (ctlRegAt (a - 0xF000) w).isSome
  | _ => true

/-- The scratch halves that the classes of a graph use hold the whole access (R112, R218). -/
def scratchStatic (classes : List Nat) (a w : Nat) : Bool :=
  classes.all fun c => if c = 0 then 0x1800 ≤ a else a + w ≤ 0x1800

/-- A static store is legal (R24, R70, R144, R146, R148). -/
def storeStatic (a w : Nat) : Bool :=
  match rangeOf a with
  | .head => true
  | .scratch => true
  | .flow => true
  | .shared => true
  | .locks => true
  | .aperture => true
  | .desc => (List.range w).all fun i => descByteRw (a + i - 0x120)
  | .regs => ctlWritable (a - 0xF000) && w = 2
  | _ => false

/-- A static access is legal for every class of its graph (R218, R219). -/
def staticOk (classes : List Nat) (use : Use) (a w : Nat) : Bool :=
  let r := rangeOf a
  a + w ≤ 0x10000 && r != .unmapped && rangeOf (a + w - 1) = r && (r != .scratch || scratchStatic classes a w) &&
    match use with
    | .load => alignedFor a w && (r != .regs || (ctlRegAt (a - 0xF000) w).isSome)
    | .store => alignedFor a w && storeStatic a w
    | .field => bytesStatic a w
    | .crc => alignedFor a w && (r != .regs || (ctlRegAt (a - 0xF000) w).isSome)
    | .atom => alignedFor a 4 && storeStatic a 4
    | .block => bytesStatic a w

/-- The latency that an access in a range is charged (R144, R151). -/
def useLatency (use : Use) (a : Nat) : Nat :=
  match use with
  | .atom => if rangeOf a = .aperture then 16 else 10
  | _ => rangeLatency' a
where
  /-- The load latency of a range (R144). -/
  rangeLatency' (a : Nat) : Nat :=
    match rangeOf a with
    | .scratch => 6
    | .flow => 6
    | .shared => 6
    | .locks => 8
    | .aperture => 16
    | .chanWin => 12
    | _ => 2

/-- The address interval of an access (R219). -/
def addrIval (base : Ival) (off : Int) : Ival :=
  let lo := (base.1 : Int) + off
  let hi := (base.2 : Int) + off
  let a := (lo % 65536).toNat
  let b := (hi % 65536).toNat
  if hi - lo < 65536 && a ≤ b then (a, b) else (0, 0xFFFF)

/-- Latency of an access and whether it is legal: a static one is checked now, another is charged the largest latency of the ranges that
its interval meets (R219). -/
def checkAccess (classes : List Nat) (use : Use) (base : Ival) (off : Int) (w : Nat) : Nat × Bool :=
  let iv := addrIval base off
  if iv.1 = iv.2 then (useLatency use iv.1, staticOk classes use iv.1 w)
  else (((mapped.filter fun r => r.1 ≤ iv.2 && iv.1 ≤ r.2).map fun r => useLatency use r.1).foldl max 2, true)

/-! ### The state of a path (R220 to R222) -/

/-- What the verifier carries along a path. -/
structure Path where
  t : Int := 0
  e : Int := 0
  ready : Sparse Int := []
  pready : Sparse Int := []
  mem : Int := 0
  iv : Sparse Ival := []
  /-- Service deadlines of lookup requests, latest first (R221). -/
  reqs : List Int := []
  /-- F of the flags whose setter is known (R221). -/
  flags : Sparse (Option Int) := []
  /-- Unguarded reservations on every path with no WAIT on their flag since: slot, offset, flag (R197). -/
  pend : List (Nat × Nat × Nat) := []
  issues : Nat := 0
  crc : Option Nat := none
  /-- Start of the helper-lock span and the grant flag, while some path holds or has asked for the lock; flag 16 once a WAIT has named it
  (R206). -/
  lock : Option (Int × Nat) := none
  /-- Channels of which some path has a message open (R179). -/
  chans : List Nat := []
  live : Bool := true
  deriving DecidableEq, Repr

/-- The largest of two maps of times. -/
def timesMax (a b : Sparse Int) : Sparse Int := b.foldl (fun m kv => sset 0 m kv.1 (max (sget 0 m kv.1) kv.2)) a

/-- Hulls of the intervals of registers 1 to 15. -/
def ivalsHull (a b : Sparse Ival) : Sparse Ival :=
  (List.range 16).foldl (fun m r => sset (0, 0) m r (ivalHull (sget (0, 0) a r) (sget (0, 0) b r))) []

/-- The longer of two deadline lists, place by place. -/
def reqsMax (a b : List Int) : List Int :=
  match a, b with
  | x :: a, y :: b => max x y :: reqsMax a b
  | [], b => b
  | a, [] => a

/-- The join of two paths (R219, R222). -/
def Path.join (a b : Path) : Path :=
  let flags := (spresent a.flags).foldl (fun m kv =>
    match sget none b.flags kv.1 with
    | none => m
    | some f => sset none m kv.1 (some (max kv.2 f))) []
  let lock := match a.lock, b.lock with
    | some x, some y => some (min x.1 y.1, if x.2 = y.2 then x.2 else 16)
    | some x, none => some x
    | none, y => y
  { t := max a.t b.t, e := max a.e b.e, ready := timesMax a.ready b.ready, pready := timesMax a.pready b.pready, mem := max a.mem b.mem,
    iv := ivalsHull a.iv b.iv, reqs := reqsMax a.reqs b.reqs, flags := flags, pend := a.pend.filter fun p => b.pend.contains p,
    issues := max a.issues b.issues, crc := if a.crc = b.crc then a.crc else none, lock := lock,
    chans := a.chans ++ b.chans.filter fun c => !a.chans.contains c, live := true }

/-- What verification of an operation takes from outside it. -/
structure VEnv where
  /-- G, the distance of slots (R215). -/
  g : Nat := 4
  /-- Cycles from the issue of HLOCK to its grant flag (R207). -/
  grant : Nat := 8
  /-- The timeout table (R171). -/
  touts : List Nat := []
  classes : List Nat := []
  /-- Partition of each logical table (R194). -/
  binds : List Part := []
  budget3a : Nat := 0
  budget3b : Nat := 0
  /-- The device refuses the crypto majors (R208). -/
  refuses : Bool := false
  codeLen : Nat := 0
  deriving DecidableEq, Repr

/-- What verification of an operation gives. -/
structure VOut where
  /-- Reasons with their offsets. -/
  fails : List (Nat × Nat) := []
  bound : Int := 0
  slots : Nat := 0
  span : Nat := 0
  deriving DecidableEq, Repr

def VOut.fail (o : VOut) (off reason : Nat) : VOut := { o with fails := (off, reason) :: o.fails }

def VOut.failIf (o : VOut) (b : Bool) (off reason : Nat) : VOut := if b then o.fail off reason else o

/-! ### One issue (R220) -/

/-- The smallest multiple of G that is not below `x`. -/
def gridUp (g : Nat) (x : Int) : Int := (x + g - 1) / g * g

/-- The issue cycle of an instruction on a path; a CRC chained on its own rd does not wait for it (R190, R220). -/
def issueAt (v : VEnv) (x : Path) (i : Insn) : Int :=
  let chained := match i.act with
    | .crc _ _ _ => if x.crc.isSome && x.crc = i.rw.head? then i.rw.head? else none
    | _ => none
  let regs := (i.rr ++ i.rw).filter fun r => some r != chained
  let r := regs.foldl (fun m r => max m (sget 0 x.ready r)) x.e
  let r := (i.pr ++ i.pw).foldl (fun m p => max m (sget 0 x.pready p)) r
  gridUp v.g (max (x.t + 1) r)

/-- Notes a register's result time and interval; a guarded instruction may leave the old value (R156). -/
def Path.write (x : Path) (i : Insn) (r lat : Nat) (v : Ival) : Path :=
  if r = 0 then x
  else
    let old := sget (0, 0) x.iv r
    { x with ready := sset 0 x.ready r (x.t + lat), iv := sset (0, 0) x.iv r (if i.always then v else ivalHull old v) }

/-- The register intervals of a path. -/
def Path.ival (x : Path) (r : Nat) : Ival := if r = 0 then (0, 0) else sget (0, 0) x.iv r

/-- Notes a memory access of a latency (R220). -/
def Path.touch (x : Path) (lat : Nat) : Path := { x with mem := max x.mem (x.t + lat) }

/-- A lookup request: its position n and its service deadline (R199, R221). -/
def Path.request (x : Path) : Path × Int :=
  let waiting := x.reqs.filter fun d => x.t < d
  let d := x.t + 48 * (1 + waiting.length : Nat)
  ({ x with reqs := d :: waiting }, d)

/-- The latest cycle in which a flag is set (R221). -/
def Path.setFlag (x : Path) (f : Nat) (at' : Int) : Path :=
  let v := match sget none x.flags f with
    | none => at'
    | some o => max o at'
  { x with flags := sset none x.flags f (some v) }

/-- A reservation of a result slot (R197). -/
def Path.reserve (x : Path) (i : Insn) (slot flag : Nat) : Path :=
  if i.always then { x with pend := (slot, i.off, flag) :: x.pend } else x

/-- The slot is certainly still pending (R197). -/
def Path.slotBusy (x : Path) (i : Insn) (slot : Nat) : Bool := i.always && x.pend.any fun p => p.1 = slot

/-- Flags that a mask names. -/
def maskFlags (m : Nat) : List Nat := (List.range 16).filter fun f => bitOf m f

/-- The cycle in which a WAIT resumes (R221). -/
def resumeAt (x : Path) (mask tout : Nat) : Int :=
  (maskFlags mask).foldl (fun (acc : Option Int) f =>
    match acc, sget none x.flags f with
    | some m, some v => some (max m v)
    | _, _ => none) (some 0) |>.elim (x.t + tout) fun f => min (x.t + tout) (max f x.t)

/-- A WAIT (R206, R221). When it is the first that names the grant flag, the lock has been held at its resume for as long as the WAIT issued after
the earliest grant, or for as long as its other flags can keep it waiting. -/
def Path.wait (x : Path) (mask tout : Nat) : Path :=
  let c := resumeAt x mask tout
  let lock := match x.lock with
    | some (st, f) => if bitOf mask f then some (c - max 0 (resumeAt x (mask - 2 ^ f) tout - st), 16) else some (st, f)
    | none => none
  { x with
    e := c + 2
    pready := sset 0 x.pready 7 c
    flags := (maskFlags mask).foldl (fun m f => sset none m f none) x.flags
    pend := x.pend.filter fun p => !bitOf mask p.2.2
    lock := lock }

/-- The partition kinds that an instruction can use (R194, R278). -/
def bindOk (a : Act) (p : Part) : Bool :=
  match a with
  | .lkup 0 _ _ _ _ => p.kind = .mac
  | .lkup 1 _ _ _ _ => p.kind = .lpm4
  | .lkup 2 _ _ _ _ => p.kind = .lpm6
  | .lkup 3 _ _ _ _ => p.kind = .stream
  | .lkup _ _ _ _ _ => p.kind = .exact
  | .learn _ _ => p.kind = .mac
  | .cnt _ => p.kind = .counter
  | _ => p.kind != .counter && p.kind != .none

/-- Key bytes of a lookup (R194, R277, R304). -/
def lkupLen (kind : Nat) (p : Part) : Nat :=
  if kind = 0 then 8 else if kind = 1 then 4 else if kind = 4 then p.keyLen else 16

/-- The effect of an issued instruction on its path; `x.t` is its issue (R219 to R223). -/
def effect (v : VEnv) (x : Path) (i : Insn) (o : VOut) : Path × VOut :=
  let iv := x.ival
  match i.act with
  | .plain s => (x.write i (i.rw.headD 0) i.lat (srcIval iv s), o)
  | .load rd base off w signed pi =>
    let (lat, ok) := checkAccess v.classes .load (iv base) off w
    let val : Ival := if signed || w = 4 then fullIval else (0, 2 ^ (8 * w) - 1)
    let post := ivalPost (iv base) w
    let x := (x.touch lat).write i rd lat val
    (if pi then x.write i base 2 post else x, o.failIf (!ok) i.off vrAddress)
  | .store base off w pi =>
    let (lat, ok) := checkAccess v.classes .store (iv base) off w
    let post := ivalPost (iv base) w
    let x := x.touch lat
    (if pi then x.write i base 2 post else x, o.failIf (!ok) i.off vrAddress)
  | .cpy gd gs w =>
    let (lat, ok) := checkAccess v.classes .load (iv gs) 0 w
    let (_, ok') := checkAccess v.classes .store (iv gd) 0 w
    let inc (r : Nat) : Ival := ivalOf ((iv r).1 + w : Nat) ((iv r).2 + w : Nat)
    let (a, b) := (inc gd, inc gs)
    (((x.touch lat).write i gd 2 a).write i gs 2 b, o.failIf (!(ok && ok')) i.off vrAddress)
  | .atom ra =>
    let (lat, ok) := checkAccess v.classes .atom (iv ra) 0 4
    ((x.touch lat).write i (i.rw.headD 0) lat fullIval, o.failIf (!ok) i.off vrAddress)
  | .crc ga w pi =>
    let (lat, ok) := checkAccess v.classes .crc (iv ga) 0 w
    let next := ivalOf ((iv ga).1 + w : Nat) ((iv ga).2 + w : Nat)
    let rd := i.rw.headD 0
    let x := { (x.touch lat).write i rd (lat + 2) fullIval with crc := i.rw.head? }
    (if pi then x.write i ga 2 next else x, o.failIf (!ok) i.off vrAddress)
  | .fcmp ga gb n =>
    let (la, ok) := checkAccess v.classes .field (iv ga) 0 n
    let (lb, ok') := checkAccess v.classes .field (iv gb) 0 n
    let pd := i.pw.headD 0
    ({ (x.touch (max la lb)) with pready := if pd = 0 then x.pready else sset 0 x.pready pd (x.t + (max la lb + 2 : Nat)) },
      o.failIf (!(ok && ok')) i.off vrAddress)
  | .lkup kind gs tbl slot flag =>
    let p := v.binds.getD tbl {}
    let (lat, ok) := checkAccess v.classes .field (iv gs) 0 (lkupLen kind p)
    let (x, d) := (x.touch lat).request
    let busy := x.slotBusy i slot
    let x := (x.setFlag flag (d + if kind = 1 || kind = 2 then 112 else 48)).reserve i slot flag
    (x, (o.failIf (!ok) i.off vrAddress).failIf busy i.off vrSlotBusy)
  | .lread _ slot flag =>
    let (x, d) := x.request
    let busy := x.slotBusy i slot
    ((x.setFlag flag (d + 48)).reserve i slot flag, o.failIf busy i.off vrSlotBusy)
  | .learn gs _ =>
    let (lat, ok) := checkAccess v.classes .field (iv gs) 0 8
    ((x.touch lat).request.1, o.failIf (!ok) i.off vrAddress)
  | .cnt _ => (x.request.1, o)
  | .crypto hmac gp slot flag lim =>
    let (lat, ok) := checkAccess v.classes .block (iv gp) 0 32
    let x := x.touch lat
    let busy := x.slotBusy i slot
    let budget := if hmac then v.budget3b else v.budget3a
    let x := if v.refuses then { x with t := x.t + (budget * v.g + 16 : Nat), issues := x.issues + budget } else x
    let done := if v.refuses then x.t else x.t + (4 + 16 * lim : Nat)
    ((x.setFlag flag done).reserve i slot flag, (o.failIf (!ok) i.off vrAddress).failIf busy i.off vrSlotBusy)
  | .wait mask tsel => (x.wait mask (max 1 (v.touts.getD tsel 1)), o)
  | .hlock f =>
    let y := if v.classes.any bounded then x.setFlag f (x.t + v.grant) else { x with flags := sset none x.flags f none }
    ({ y with lock := some (x.t + 8, f) }, o.failIf x.lock.isSome i.off vrLock)
  | .hfree =>
    match x.lock with
    | none => (x, o)
    | some (st, _) =>
      let span := (x.t + 4 - st).toNat
      ({ x with lock := if i.always then none else x.lock },
        { o with span := max o.span span }.failIf (256 * v.g < span) i.off vrLock)
  | .chw ch => ({ x with chans := if x.chans.contains ch then x.chans else ch :: x.chans }, o.failIf (x.chans.any (· != ch)) i.off vrChannel)
  | .che ch => ({ x with chans := if i.always then [] else x.chans }, o.failIf (x.chans.any (· != ch)) i.off vrChannel)
  | _ => (x, o)

/-- Predicates written at the instruction's latency; WAIT and FCMP note theirs themselves. -/
def writePreds (x : Path) (i : Insn) (t : Int) : Path :=
  match i.act with
  | .wait _ _ => x
  | .fcmp _ _ _ => x
  | _ => { x with pready := i.pw.foldl (fun m p => sset 0 m p (t + i.lat)) x.pready }

/-- One issue of an instruction on a path (R220, R227). -/
def issueOn (v : VEnv) (x : Path) (i : Insn) (o : VOut) : Path × VOut :=
  let t := issueAt v x i
  let (x, o) := effect v { x with t := t, issues := x.issues + 1 } i o
  let x := writePreds x i t
  if 65535 < x.issues then ({ x with live := false }, o.fail i.off vrLimit) else (x, o)

/-! ### The paths of an operation (R222) -/

/-- A path ends with a completion. -/
def VOut.finish (o : VOut) (x : Path) (c : Int) : VOut := { o with bound := max o.bound c, slots := max o.slots x.issues }

/-- What an ending instruction adds: END completes (R176) and must hold nothing (R216), TRAP completes at + 16 (R129). -/
def finishOn (x : Path) (i : Insn) (o : VOut) : VOut :=
  match i.act with
  | .endOp => (o.failIf (x.lock.isSome || !x.chans.isEmpty) i.off vrLock).finish x (max (x.t + 8) x.mem)
  | .trap => o.finish x (x.t + 16)
  | _ => o

/-- The instruction ends every path that executes it. -/
def endsPath (i : Insn) : Bool :=
  i.always && match i.act with
    | .endOp => true
    | .trap => true
    | _ => false

/-- Paths that wait at an offset. -/
abbrev Fronts := List (Nat × Path)

/-- A path reaches an offset: it joins one that waits there; past the last instruction it breaks R167. -/
def arrive (v : VEnv) (fs : Fronts) (off : Nat) (x : Path) (i : Insn) (o : VOut) : Fronts × VOut :=
  if v.codeLen ≤ off then (fs, o.fail i.off vrBranch)
  else if fs.any fun f => f.1 = off then (fs.map fun f => if f.1 = off then (off, f.2.join x) else f, o)
  else ((off, x) :: fs, o)

/-- The targets that REP may not have (R169). -/
def repBad (i : Insn) : Bool :=
  match i.act with
  | .branch _ => true
  | .wait _ _ => true
  | .endOp => true
  | .rep _ => true
  | .hlock _ => true
  | .hfree => true
  | _ => false

/-- What is certain of a path after `n` repetitions and of one after fewer (R168): intervals, pending reservations and open messages. -/
def Path.orFewer (x fewer : Path) : Path :=
  { x with iv := ivalsHull x.iv fewer.iv, pend := x.pend.filter fun p => fewer.pend.contains p
           chans := x.chans ++ fewer.chans.filter fun c => !x.chans.contains c }

/-- The repetitions of a target, charged as `n` (R168, R220): the path after all of them, and one that stands for every smaller count, 0 among
them. -/
def repeatOn (v : VEnv) (x fewer : Path) (i : Insn) (n : Nat) (o : VOut) : Path × Path × VOut :=
  match n with
  | 0 => (x, fewer, o)
  | n + 1 =>
    if !x.live then (x, fewer, o)
    else
      let fewer := x.orFewer fewer
      let (x, o) := issueOn v x i o
      let o := if x.live then finishOn x i o else o
      repeatOn v { x with live := x.live && !endsPath i } fewer i n o

/-- Follows every path through the instructions of an operation, in ascending offset (R220, R222). -/
def walk (v : VEnv) (starts : List Nat) (is : List Insn) (fs : Fronts) (o : VOut) : VOut :=
  match is with
  | [] => o
  | i :: rest =>
    match fs.find? fun f => f.1 = i.off with
    | none => walk v starts rest fs o
    | some (_, x) =>
      let fs := fs.filter fun f => f.1 != i.off
      let (x, o) := issueOn v x i o
      if !x.live then walk v starts rest fs o
      else
        let o := finishOn x i o
        match i.act with
        | .rep cap =>
          match rest with
          | [] => walk v starts rest fs (o.fail i.off vrBranch)
          | tg :: _ =>
            if repBad tg then
              let (fs, o) := arrive v fs tg.off x i o
              walk v starts rest fs o
            else
              let (y, fewer, o) := repeatOn v x x tg cap o
              let on := if y.live then y.orFewer fewer else x
              let (fs, o) := if y.live || endsPath tg then arrive v fs (tg.off + tg.size) on tg o else (fs, o)
              walk v starts rest fs o
        | .branch to' =>
          let taken := { x with e := max x.e (x.t + 2) }
          let (fs, o) := if starts.contains to' then arrive v fs to' taken i o else (fs, o)
          let (fs, o) := if i.always then (fs, o) else arrive v fs (i.off + i.size) x i o
          walk v starts rest fs o
        | _ =>
          let (fs, o) := if endsPath i then (fs, o) else arrive v fs (i.off + i.size) x i o
          walk v starts rest fs o

/-- Reasons that do not depend on a path (R216); `next` is the following instruction. -/
def staticReasons (v : VEnv) (starts : List Nat) (i : Insn) (next : Option Insn) : List Nat :=
  if i.bad then [vrEncoding]
  else match i.act with
    | .unassigned => [vrBudget]
    | .crypto hmac _ _ _ _ => if (if hmac then v.budget3b else v.budget3a) = 0 then [vrBudget] else []
    | .branch to' => if starts.contains to' then [] else [vrBranch]
    | .rep _ => match next with
      | some n => if repBad n then [vrRepTarget] else []
      | none => []
    | .wait mask tsel => if mask = 0 || v.touts.getD tsel 0 = 0 then [vrWait] else []
    | .lkup _ _ tbl _ _ => if bindOk i.act (v.binds.getD tbl {}) then [] else [vrBinding]
    | .lread tbl _ _ => if bindOk i.act (v.binds.getD tbl {}) then [] else [vrBinding]
    | .learn _ tbl => if bindOk i.act (v.binds.getD tbl {}) then [] else [vrBinding]
    | .cnt tbl => if bindOk i.act (v.binds.getD tbl {}) then [] else [vrBinding]
    | _ => []

/-- Those of every instruction. -/
def allStatic (v : VEnv) (starts : List Nat) (is : List Insn) (o : VOut) : VOut :=
  match is with
  | [] => o
  | i :: rest => allStatic v starts rest ((staticReasons v starts i rest.head?).foldl (fun o r => o.fail i.off r) o)

/-- Verifies one operation's code (R216 to R224). -/
def verifyOp (v : VEnv) (code : List Byte) : VOut :=
  let is := decodeCode code
  let starts := is.map (·.off)
  let v := { v with codeLen := code.length }
  walk v starts is [(0, { t := -(v.g : Int) })] (allStatic v starts is {})

/-! ### The graph (R224 to R227) -/

/-- A reason as the reply of R217 carries it: operation, offset, reason. -/
abbrev VReason := Nat × Nat × Nat

/-- The rank of a reason within a graph (R216). -/
def reasonRank (r : VReason) : Nat := (r.1 * 2 ^ 32 + r.2.1) * 256 + r.2.2

/-- The environment of operation i of an image. -/
def opEnv (img : List Byte) (i w grant : Nat) (classes : List Nat) (binds : List Part) (refuses : Bool) : VEnv :=
  { g := 16 / w, grant := grant, touts := (List.range (opToutN img i)).map fun j => leAt img (opToutOff img i + 2 * j) 2,
    classes := classes, binds := binds, budget3a := opBudget3a img i, budget3b := opBudget3b img i, refuses := refuses }

/-- The longest way to the end of each operation, sources first (R225). -/
def graphTimes (img : List Byte) (bs : List Nat) : List Nat :=
  (List.range (imgOps img)).foldl (fun ds i =>
    let before := ((List.range i).filter fun j => bitOf (opSucc img j) i).map fun j => ds.getD j 0 + 44
    ds ++ [bs.getD i 0 + before.foldl max 0]) []

/-- The graph bound from the bounds of its operations (R225). -/
def graphBoundOf (img : List Byte) (bs : List Nat) : Nat :=
  let ds := graphTimes img bs
  ((List.range (imgOps img)).filter fun i => opSucc img i = 0).foldl (fun m i => max m (ds.getD i 0)) 0

/-- What the verification of an image gives. -/
structure VGraph where
  reason : Option VReason := none
  computed : Nat := 0
  /-- The verified slot count (R224). -/
  slots : Nat := 0
  /-- The largest helper-lock span (R206). -/
  span : Nat := 0
  deriving DecidableEq, Repr

/-- Verifies an image at a pool weight (R216 to R226). -/
def verifyImage (img : List Byte) (w grant : Nat) (classes : List Nat) (binds : List Part) (refuses : Bool) : VGraph :=
  let os := (List.range (imgOps img)).map fun i => (i, verifyOp (opEnv img i w grant classes binds refuses) (opCode img i))
  let opReasons : List VReason := os.flatMap fun io =>
    (io.2.fails.map fun f => (io.1, f.1, f.2)) ++ (if opSlots img io.1 < io.2.slots then [(io.1, noOffset, vrBoundLow)] else [])
  let bound := graphBoundOf img (os.map fun io => io.2.bound.toNat)
  let slots := (os.map fun io => io.2.slots).sum
  let declared := imgBound img w
  let whole : List VReason :=
    (if declared = 0 then [(wholeGraph, noOffset, vrWeight)] else [])
      ++ (if 12500000 < bound || 12500000 < declared then [(wholeGraph, noOffset, vrLimit)] else [])
      ++ (if (declared != 0 && declared < bound) || imgSlots img < slots then [(wholeGraph, noOffset, vrBoundLow)] else [])
  { reason := argMin reasonRank (opReasons ++ whole), computed := if opReasons.isEmpty then bound else 0, slots := slots,
    span := os.foldl (fun m io => max m io.2.span) 0 }

/-- Parcels of an image's code (R227). -/
def imageParcels (img : List Byte) : Nat := ((List.range (imgOps img)).map fun i => opCodeLen img i / 2).sum

end Sys2Proof.Machine
end

