-- ==== Sys2Proof/Machine/Bound.lean ====
section
/-! DEFINITION. The delivery bound and the admission terms (R34, R38 to R47, R100, R384), computed for a candidate edition beside the live
ones. -/

namespace Sys2Proof.Machine

/-! ### Rules of an edition: ports, halves, domains (R20, R39, R79) -/

/-- The contracts that an edition defines: those of which a parameter is staged. -/
def edContracts (e : Live) : List Nat :=
  (e.vals.filterMap fun kv => if kv.1 / 2 ^ 24 = 5 then (pinfo kv.1).map fun x => x.2.headD 0 else none).eraseDups

/-- The valid rules of an edition. -/
def validRules (e : Live) : List (Nat × Nat) := e.rules.filter fun ir => ir.2 % 2 = 1

def ruleProfile (r : Nat) : Nat := bitsOf r 1 3
def ruleValue (r j : Nat) : Nat := bitsOf r (256 + 16 * j) 16
def ruleMask (r j : Nat) : Nat := bitsOf r (576 + 16 * j) 16

/-- A port reaches a profile (R20). -/
def portProfile (e : Live) (p n : Nat) : Bool :=
  n = 0 || (List.range 32).any fun i =>
    let x := e.get (pidClsProfileSel i)
    x % 2 = 1 && bitsOf x 8 8 = n && (p &&& bitsOf x 56 6) = (bitsOf x 48 6 &&& bitsOf x 56 6)

/-- Fields of a key-word extractor (R73, R499): kind, source, mask or constant. -/
def extKind (x : Nat) : Nat := x % 256
def extSel (x : Nat) : Nat := bitsOf x 8 8
def extMask (x : Nat) : Nat := bitsOf x 32 16
def extConst (x : Nat) : Nat := bitsOf x 32 16

/-- A port reaches a rule (R20). -/
def portRule (e : Live) (r p : Nat) : Bool :=
  portProfile e p (ruleProfile r) && (List.range 20).all fun j =>
    let x := e.get (pidClsProfileWord (ruleProfile r) j)
    let m := ruleMask r j
    extKind x != 2 || extSel x != 0 || (p &&& extMask x &&& m) = (ruleValue r j &&& m)

/-- The ports from which a rule can take packets, among 0 to 34. -/
def rulePorts (e : Live) (r : Nat) : List Nat := (List.range 35).filter (portRule e r)

/-- A port can enter a half (R15, R17). -/
def portEnters (p h : Nat) : Bool := 32 ≤ p || hIdx (portHalf p) = h

/-- A rule can send packets of a half. -/
def ruleHalf (e : Live) (r h : Nat) : Bool := (rulePorts e r).any fun p => portEnters p h

/-- The values that key word j can have in a packet that a rule matches: extractor, value and mask, and the range tests on that word
(log entry 41). -/
def wordPossible (e : Live) (r j w : Nat) : Bool :=
  let x := e.get (pidClsProfileWord (ruleProfile r) j)
  let m := ruleMask r j
  let made := if extKind x = 4 then w = extConst x else if extKind x = 0 then w = 0 else (w &&& extMask x) = w
  made && (w &&& m) = (ruleValue r j &&& m) && (List.range 4).all fun t =>
    let y := bitsOf r (128 + 16 * t) 16
    let c := e.get (pidClsRange (y % 1024))
    !bitOf y 15 || c % 256 != j || (bitsOf c 16 16 ≤ w && w ≤ bitsOf c 32 16) != bitOf y 14

/-- A rule can send into an ordered domain in a half (R39, R79). -/
def ruleSends (e : Live) (r h d : Nat) : Bool :=
  let w := (d + 65536 - ruleDomainBase r) % 65536
  !ruleUnordered r && (match ruleOrderMode r with
    | 0 => w < 140 && w % 4 = ruleClass r && portEnters (w / 4) h && portRule e r (w / 4)
    | 1 => w < 2 ^ ruleDomainArg r && ruleHalf e r h
    | 2 => wordPossible e r (ruleDomainArg r) w && ruleHalf e r h
    | _ => w = 0 && ruleHalf e r h)

/-- The rules that name a contract. -/
def contractRules (e : Live) (k : Nat) : List Nat := ((validRules e).filter fun ir => ruleContract ir.2 = k).map (·.2)

/-- The rules whose domains a pass of a contract uses (R39). -/
def passRules (e : Live) (k g : Nat) : List Nat :=
  let all := contractRules e k
  let own := all.filter fun r => ruleGraph r = g
  if own.isEmpty then all else own

/-! ### Exact figures -/

/-- A demand; none is unbounded (R42). -/
abbrev Amount := Option Rat

def Amount.add (a b : Amount) : Amount :=
  match a, b with
  | some x, some y => some (x + y)
  | _, _ => none

def Amount.max (a b : Amount) : Amount :=
  match a, b with
  | some x, some y => some (if x ≤ y then y else x)
  | _, _ => none

/-- `a` is larger than `b`. -/
def Amount.above (a b : Amount) : Bool :=
  match a, b with
  | none, some _ => true
  | some x, some y => y < x
  | _, none => false

def ceilNat (x : Rat) : Nat := x.ceil.toNat
def floorNat (x : Rat) : Nat := x.floor.toNat

/-- Units of 0.1 ns in a second. -/
def tenths : Nat := 10 ^ 10

/-! ### A contract of an edition -/

/-- A contract as the terms use it: parameters, the verified figures of its graphs, and its own times in 0.1 ns. -/
structure Con where
  k : Nat := 0
  new : Bool := true
  /-- Its edition in the order of the evaluation, the candidate being 0. -/
  ed : Nat := 0
  half : Nat := 0
  graphs : List Nat := []
  ports : List Nat := []
  rate : Nat := 0
  burst : Nat := 0
  len : Nat := 0
  queue : Nat := 0
  maxBound : Nat := 0
  slots : Nat := 0
  width : Nat := 1
  ops : Nat := 0
  owners : List Nat := []
  rules : List Nat := []
  tGraph : Nat := 0
  tOrder : Nat := 0
  /-- J of R41. -/
  j : Nat := 0
  /-- D in ns, none when unbounded. -/
  bound : Option Nat := none
  deriving DecidableEq, Repr

/-- The ports of a bitmap. -/
def portsOf (m : Nat) : List Nat := (List.range 32).filter fun p => bitOf m p

/-- The number of passes and the graph of each. -/
def conGraphs (e : Live) (k : Nat) : List Nat := (List.range (e.get (pidBoundContractPasses k))).map fun i => e.get (pidBoundContractGraph k i)

/-- Operation i reaches operation j by a path; an edge leads to a higher number (R213). -/
def reaches (img : List Byte) (i j fuel : Nat) : Bool :=
  match fuel with
  | 0 => false
  | f + 1 => (List.range 8).any fun x => bitOf (opSucc img i) x && (x = j || reaches img x j f)

/-- The largest set of operations no two of which are joined by a path (R44). -/
def graphWidth (img : List Byte) : Nat :=
  let n := imgOps img
  (List.range (2 ^ n)).foldl (fun m x =>
    let ops := (List.range n).filter fun i => bitOf x i
    if ops.all fun i => ops.all fun j => i = j || (!reaches img i j 8 && !reaches img j i 8) then max m ops.length else m) 0

/-- A contract's parameters and graph figures; its half is that of its ingress ports (R36). n_i of TASKS counts the operations of a graph that two
passes use twice (DEDUCED from R44, log entry 80). -/
def conBase (s : State) (e : Live) (new : Bool) (k : Nat) : Con :=
  let gs := conGraphs e k
  let ins := portsOf (e.get (pidBoundContractIngressPorts k))
  let imgs := gs.filterMap fun g => sget none e.images g
  { k := k, new := new, half := ins.head?.elim 0 fun p => hIdx (portHalf p), graphs := gs
    ports := portsOf (e.get (pidBoundContractEgressPorts k)), rate := e.get (pidBoundContractRate k)
    burst := e.get (pidBoundContractBurst k), len := e.get (pidBoundContractMaxLen k), queue := e.get (pidBoundContractQueue k)
    maxBound := e.get (pidBoundContractMaxBound k), slots := (gs.map fun g => sget 0 e.slots g).sum
    width := imgs.foldl (fun m i => max m (graphWidth i)) 0, ops := (imgs.map imgOps).sum
    owners := (ins.map fun p => pget s (pidBufMap p 0)).eraseDups.mergeSort (· ≤ ·), rules := contractRules e k
    tGraph := (gs.map fun g => e.graphBound g * 8).sum }

/-- Order wait of one pass in 0.1 ns (R39, R100): over the new edition and every live one. Where no graph of the domains is as large as the pass's
own, the wait is 0 (DEDUCED, log entry 80). -/
def passOrder (eds : List Live) (e : Live) (half k g : Nat) : Nat :=
  let own := e.graphBound g
  let mine := passRules e k g
  let top := eds.foldl (fun m x => (validRules x).foldl (fun m ir =>
    let b := x.graphBound (ruleGraph ir.2)
    if b ≤ m then m
    else if (List.range 65536).any fun d => (mine.any fun r => ruleSends e r half d) && ruleSends x ir.2 half d then b
    else m) m) own
  (top - own) * 8

/-- Fixed terms in 0.1 ns (R32, R38). -/
def cIn : Nat := 960
def cDispatch : Nat := 320
def cRelease : Nat := 160
def cReentry : Nat := 864
def cEgress : Nat := 640

/-- J of R41. -/
def conJ (n tGraph tOrder : Nat) : Nat := cIn + cDispatch * n + tGraph + tOrder + cRelease * n + cReentry * (n - 1)

/-- A contract of the candidate. -/
def conNew (s : State) (eds : List Live) (e : Live) (k : Nat) : Con :=
  let c := conBase s e true k
  let o := (c.graphs.map fun g => passOrder eds e c.half k g).sum
  { c with tOrder := o, j := conJ c.graphs.length c.tGraph o }

/-- A contract of a live edition keeps the figures of its commit (R55, R100). -/
def conLive (s : State) (e : Live) (kf : Nat × Figs) : Con :=
  let c := conBase s e false kf.1
  let f := kf.2
  { c with tGraph := f.tGraph, tOrder := f.tOrder, j := f.tIn + f.tDispatch + f.tGraph + f.tOrder + f.tRelease + f.tReentry
           bound := some f.bound }

/-- σ′ of R41. -/
def Con.sigma (c : Con) : Nat := c.burst + c.rate * c.j / tenths

/-- L of a port: the counted max_len. -/
def Con.counted (s : State) (c : Con) (p : Nat) : Nat := countedLen s p c.len

/-! ### Queue wait (R41, R42) -/

/-- Rate of a port in bit/s with its shaper in the place of a faster line (R41). -/
def rateOf (s : State) (p : Nat) : Nat :=
  let x := getShaper s (shaperKey p 16)
  let line := portRate p * 10 ^ 6
  if x.enable then min line (x.rate * 1000) else line

/-- The port's longest frame, counted. -/
def portFrame (s : State) (p : Nat) : Nat := countedLen s p (pget s (pidMacPortMaxFrame p))

/-- Transmission time of counted bytes at a rate in 0.1 ns. -/
def txTime (bytes rate : Nat) : Rat := (bytes * 8 * tenths : Nat) / (rate : Rat)

/-- The contracts that stand in H (strict queues above) or E (the queue itself) of a queue, from either half, H marked (R41). -/
def members (s : State) (cs : List Con) (p q : Nat) : List (Con × Bool) :=
  cs.filterMap fun c =>
    if !c.ports.contains p then none
    else if c.queue = q then some (c, false)
    else if q < c.queue && isStrict s p c.queue then some (c, true)
    else none

/-- Sum over contract numbers of the largest figure of their versions (R45). -/
def transNat (xs : List (Nat × Nat)) : Nat :=
  ((xs.map (·.1)).eraseDups.map fun k => (xs.filter fun x => x.1 = k).foldl (fun m x => max m x.2) 0).sum

/-- Σ σ′ × L, and Σ λ × L × 8, over members. -/
def burstBytes (s : State) (p : Nat) (ms : List (Con × Bool)) : Nat := transNat (ms.map fun m => (m.1.k, m.1.sigma * m.1.counted s p))
def loadBits (s : State) (p : Nat) (ms : List (Con × Bool)) : Nat := transNat (ms.map fun m => (m.1.k, m.1.rate * m.1.counted s p * 8))

/-- The list that an edition binds to a port, none when its gates are always open (R336). -/
def edGcl (s : State) (e : Live) (p : Nat) : Option GateList :=
  let n := e.get (pidTmPortGcl p)
  if 64 ≤ n then none
  else
    let g := gclOfRecord (pget s (pidTmGcl n))
    if g.ents.isEmpty || g.cycle = 0 then none else some g

/-- The list from entry i on, cyclically. -/
def GateList.from (g : GateList) (i : Nat) : List GateEnt := g.ents.drop i ++ g.ents.take i

/-- Length of the run of entries that satisfy `p` at the front, in ns. -/
def runNs (p : GateEnt → Bool) (es : List GateEnt) : Nat := ((es.takeWhile p).map (·.ns)).sum

/-- Every opening of a queue's gate as (its length, the closed time after it), in ns. -/
def openings (g : GateList) (q : Nat) : List (Nat × Nat) :=
  let n := g.ents.length
  let isOpen i := (g.ents.getD i {}).val / 2 ^ q % 2 = 1
  ((List.range n).filter fun i => isOpen i && !isOpen ((i + n - 1) % n)).map fun i =>
    let es := g.from i
    let rest := es.dropWhile (gateBit · q)
    (runNs (gateBit · q) es, runNs (fun e => !gateBit e q) rest)

/-- How the gate of a queue bears on it: always open, never open, or its openings. -/
inductive GateCase where
  | always
  | never
  | some (os : List (Nat × Nat))
  deriving DecidableEq, Repr

def gateCase (s : State) (e : Live) (p q : Nat) : GateCase :=
  match edGcl s e p with
  | none => .always
  | some g => if g.ents.all (gateBit · q) then .always else if g.ents.any (gateBit · q) then .some (openings g q) else .never

/-- The queue's gate is protected (R41): from every entry that opens it on, the queues below stay closed for the time of the port's longest
frame. -/
def gateProtected (s : State) (e : Live) (p q : Nat) : Bool :=
  match edGcl s e p with
  | none => false
  | some g =>
    let clear (x : GateEnt) := x.val % 2 ^ q = 0
    g.ents.all clear || (List.range g.ents.length).all fun i =>
      !gateBit (g.ents.getD i {}) q || txTime (portFrame s p) (rateOf s p) ≤ (runNs clear (g.from i) * 10 : Nat)

/-- Blocking in counted bytes (R41). -/
def blocking (s : State) (e : Live) (p q : Nat) : Nat :=
  if gateProtected s e p q then 0 else if preemptOn s p then 143 else portFrame s p

/-- Every opening holds the bursts of its queue (R42). -/
def gateFits (gc : GateCase) (need : Rat) : Bool :=
  match gc with
  | .always => true
  | .never => false
  | .some os => os.all fun o => need ≤ (o.1 * 10 : Nat)

/-- G in 0.1 ns: the longest closed time, the last part of the opening before it included (R41). -/
def gateTerm (gc : GateCase) (need : Rat) : Rat :=
  match gc with
  | .some os => os.foldl (fun m o => let x : Rat := need + (o.2 * 10 : Nat); if m ≤ x then x else m) 0
  | _ => 0

/-- What one egress port gives a contract: whether its load and its gate fit, and T_q, none when unbounded (R41, R42). -/
structure PortWait where
  rateOk : Bool := true
  gateOk : Bool := true
  wait : Option Nat := none
  deriving DecidableEq, Repr

def portWait (s : State) (e : Live) (cs : List Con) (c : Con) (p : Nat) : PortWait :=
  let ms := members s cs p c.queue
  let rate := rateOf s p
  let rateOk := loadBits s p ms < rate
  let own := ms.filter fun m => !m.2
  let need := txTime (burstBytes s p own) rate
  let gc := gateCase s e p c.queue
  let gateOk := gateFits gc need
  if rateOk && gateOk then
    let high := loadBits s p (ms.filter (·.2))
    let shaper : Rat := if (getShaper s (shaperKey p 16)).enable then txTime (portFrame s p) (getShaper s (shaperKey p 16)).rate / 1000 else 0
    let bytes := blocking s e p c.queue + burstBytes s p ms - c.counted s p
    { rateOk := true, gateOk := true, wait := some (ceilNat (gateTerm gc need + txTime bytes (rate - high) + shaper)) }
  else { rateOk := rateOk, gateOk := gateOk }

/-- The serialisation on the slowest egress port in 0.1 ns (R56). -/
def serialTime (c : Con) : Nat := c.ports.foldl (fun m p => if portRate p = 0 then m else max m (ceilNat (txTime c.len (portRate p * 10 ^ 6)))) 0

/-- T_q, its port, and D with every term of R38. Of ports with equal T_q the lowest is the queue port of R56 (DESIGN CHOICE, log entry 80). -/
def conFigs (s : State) (e : Live) (cs : List Con) (c : Con) : Con × Figs :=
  let ws := c.ports.map fun p => (p, portWait s e cs c p)
  let known := ws.filterMap fun pw => pw.2.wait.map fun w => (pw.1, w)
  let best := known.foldl (fun (b : Option (Nat × Nat)) pw => match b with
    | none => some pw
    | some x => if x.2 < pw.2 then some pw else some x) none
  let (qp, tq) := best.getD (c.ports.headD 0, 0)
  let n := c.graphs.length
  let sum := c.j + tq + cEgress
  let ta := ceilDiv (sum * pget s pidBoundSlewAllowance) (10 ^ 6)
  let d := ceilDiv (sum + ta) 10
  let c := { c with bound := if known.length = ws.length then some d else none }
  (c, { half := c.half, bound := d, maxBound := c.maxBound, tIn := cIn, tDispatch := cDispatch * n, tGraph := c.tGraph, tOrder := c.tOrder
        tRelease := cRelease * n, tQueue := tq, tEgress := cEgress, tReentry := cReentry * (n - 1), tAllowance := ta
        serialisation := serialTime c, queuePort := qp, queue := c.queue })

/-! ### Terms (R44, R47) -/

/-- One contract's demand on an instance of a term; versions of one number share `key` (R45). -/
structure Item where
  key : Nat := 0
  k : Nat := 0
  new : Bool := true
  half : Nat := 0
  val : Amount := some 0

/-- An instance of a term: its bit of R47, what it holds, the half when it belongs to one, and its items. -/
structure Term where
  bit : Nat := 0
  cap : Rat := 0
  strict : Bool := false
  half : Option Nat := none
  items : List Item := []

/-- The demand with the largest of each contract's versions (R45). -/
def Term.demand (t : Term) : Amount :=
  (t.items.map (·.key)).eraseDups.foldl (fun (a : Amount) k =>
    a.add ((t.items.filter fun i => i.key = k).foldl (fun (m : Amount) i => m.max i.val) (some 0))) (some 0)

/-- The term does not fit. -/
def Term.fails (t : Term) : Bool :=
  match t.demand with
  | none => true
  | some x => if t.strict then t.cap ≤ x else t.cap < x

/-- Bounded-pool threads of a role (R43). -/
def poolThreads (e : Live) (r : Nat) : Nat :=
  ((List.range 12).map fun c => ((List.range 8).filter fun t => e.get (pidStnRoleCorePool r c t) = 1).length).sum

/-- The half's bounded threads without the largest station's (R44). -/
def poolOf (e : Live) (h : Nat) : Nat :=
  let ns := (List.range 8).map fun i => poolThreads e (8 * h + i)
  ns.sum - ns.foldl max 0

/-- Capacity of SLOTS in slots/s (R44). -/
def slotCap (e : Live) (h : Nat) : Rat := (poolOf e h * e.get pidStnMapPoolWeight * 1250000000 : Nat) / (16 : Rat)

/-- ⌈λ × D⌉ + σ packets, none when D is unbounded. -/
def Con.inFlight (c : Con) : Option Nat := c.bound.map fun d => c.burst + ceilDiv (c.rate * d) (10 ^ 9)

/-- Folios of the longest frame. -/
def Con.folios (c : Con) : Nat := ceilDiv c.len 248

/-- Packets that wait for the capture writer, for the enabled capture rule whose queue takes longest (R384). -/
def Con.captured (s : State) (c : Con) : Nat :=
  c.rules.foldl (fun m r =>
    let n := ruleCapture r
    if n < 64 && pget s (pidCapRuleEnable n) = 1 then
      max m (ceilDiv (c.rate * pget s (pidTmQLimit 35 (pget s (pidCapRuleQueue n))) * 8) (800 * 10 ^ 9))
    else m) 0

/-- The folios of a contract at each of its owners (R44, R384). -/
def Con.buffer (s : State) (c : Con) : Amount := c.inFlight.map fun n => ((n + c.captured s) * c.folios : Nat)

def Con.item (c : Con) (v : Amount) : Item := { key := c.k, k := c.k, new := c.new, half := c.half, val := v }

/-- SLOTS, THREADS and TASKS of a half. -/
def halfTerms (e : Live) (cs : List Con) (h : Nat) : List Term :=
  let mine := cs.filter fun c => c.half = h
  let mk (bit : Nat) (cap : Rat) (f : Con → Rat) : Term :=
    { bit := bit, cap := cap, half := some h, items := mine.map fun c => c.item (some (f c)) }
  [mk 0 (slotCap e h) fun c => (c.rate * c.slots : Nat),
   mk 1 (poolOf e h : Nat) fun c => (c.rate * (c.tGraph + c.tOrder) : Nat) / (tenths : Rat) + (c.burst * c.width : Nat),
   mk 2 (7 * 4096 : Nat) fun c => ((c.rate * c.j : Nat) / (tenths : Rat) + (c.burst : Nat)) * (c.ops : Nat)]

/-- BUFFER of an owner: its minimum must not lie above its maximum (R44, R323). -/
def ownerTerm (s : State) (cs : List Con) (o : Nat) : Term :=
  { bit := 3, cap := (pget s (pidBufOwnerMax o) : Nat) - (pget s (pidBufOwnerFloor o) : Nat)
    items := (cs.filter fun c => c.owners.contains o).map fun c => c.item (c.buffer s) }

/-- BUFFER as a whole: the sum of all minima. -/
def reserveTerm (s : State) (cs : List Con) : Term :=
  let floors := ((List.range 64).map fun o => pget s (pidBufOwnerFloor o)).sum
  { bit := 3, cap := (pget s pidBufReserveLimit : Nat) - (floors : Nat)
    items := cs.flatMap fun c => c.owners.map fun o => { c.item (c.buffer s) with key := 64 * c.k + o } }

/-- The queues that carry contracts. -/
def usedQueues (cs : List Con) : List (Nat × Nat) := (cs.flatMap fun c => c.ports.map fun p => (p, c.queue)).eraseDups

/-- QUEUE of a queue for each half, whose sum runs over the contracts of that half, and PORT_RATE and GATE_WINDOW over both (R42, R44). -/
def queueTerms (s : State) (e : Live) (cs : List Con) (p q : Nat) : List Term :=
  let ms := members s cs p q
  let own := ms.filter fun m => !m.2
  let depth (h : Nat) : Term :=
    { bit := 4, cap := (pget s (pidTmQLimit p q) : Nat), half := some h
      items := (own.filter fun m => m.1.half = h).map fun m => m.1.item (some (m.1.sigma * m.1.counted s p : Nat)) }
  let gate : List Term := match gateCase s e p q with
    | .always => []
    | .never => [{ bit := 7, cap := -1, items := own.map fun m => m.1.item (some 0) }]
    | .some os => os.map fun o =>
      { bit := 7, cap := (o.1 * 10 : Nat), items := own.map fun m => m.1.item (some (txTime (m.1.sigma * m.1.counted s p) (rateOf s p))) }
  [depth 0, depth 1,
   { bit := 6, cap := (rateOf s p : Nat), strict := true
     items := ms.map fun m => m.1.item (some (m.1.rate * m.1.counted s p * 8 : Nat)) }] ++ gate

/-- A contract uses a domain under its own edition, one of `eds` in the order of the evaluation (R39, R44). -/
def Con.uses (eds : List Live) (c : Con) (d : Nat) : Bool :=
  (eds[c.ed]?).any fun e => c.graphs.any fun g => (passRules e c.k g).any fun r => ruleSends e r c.half d

/-- DOMAIN of one domain in a half. -/
def domainTerm (eds : List Live) (cs : List Con) (h d : Nat) : Term :=
  { bit := 5, cap := 32768, half := some h
    items := (cs.filter fun c => c.half = h && c.uses eds d).map fun c => c.item (c.inFlight.map fun (n : Nat) => (n : Rat)) }

/-- MAX_BOUND of a contract of the candidate, with D of its live versions beside it (R40, R45). -/
def maxTerm (cs : List Con) (c : Con) : Term :=
  { bit := 8, cap := (c.maxBound : Nat)
    items := (cs.filter fun x => x.k = c.k).map fun x => x.item (x.bound.map fun (d : Nat) => (d : Rat)) }

/-! ### The evaluation (R44 to R47, R100) -/

/-- Slots that a map gives a thread (R123). -/
def threadSlots (e : Live) (r c t : Nat) : Nat :=
  (List.range 16).foldl (fun n x =>
    let v := e.get (pidStnRoleCoreCal r c x)
    n + b2n (bitOf v 7 && bitsOf v 4 3 = t) + b2n (bitOf v 3 && bitsOf v 0 3 = t)) 0

/-- The roles in which a bounded-pool thread gets fewer slots than a live edition gives it (R100). The new map says which threads those are
(DESIGN CHOICE, log entry 80). -/
def poolShort (live : List Live) (e : Live) : List Nat :=
  (List.range 16).filter fun r => (List.range 12).any fun c => (List.range 8).any fun t =>
    e.get (pidStnRoleCorePool r c t) = 1 && live.any fun x => threadSlots e r c t < threadSlots x r c t

/-- The result of an evaluation: contracts with figures, and terms. -/
structure Eval where
  figs : List (Nat × Figs) := []
  cons : List Con := []
  terms : List Term := []

/-- The terms of the candidate `e` beside the live editions. -/
def evaluate (s : State) (live : List Live) (e : Live) : Eval :=
  let eds := e :: live
  let old := live.zipIdx.flatMap fun xi => (spresent xi.1.figs).map fun kf => { conLive s xi.1 kf with ed := xi.2 + 1 }
  let fresh := (edContracts e).map (conNew s eds e)
  let all := fresh ++ old
  let done := fresh.map (conFigs s e all)
  let news := done.map (·.1)
  let cs := news ++ old
  { figs := done.map fun cf => (cf.1.k, cf.2), cons := cs
    terms := halfTerms e cs 0 ++ halfTerms e cs 1 ++ (List.range 64).map (ownerTerm s cs) ++ [reserveTerm s cs]
      ++ ((usedQueues cs).flatMap fun pq => queueTerms s e cs pq.1 pq.2)
      ++ ((([0, 1].filter fun h => cs.any fun c => c.half = h).flatMap fun h => (List.range 65536).map (domainTerm eds cs h)).filter fun t => !t.items.isEmpty)
      ++ (news.filter fun c => c.maxBound != 0).map (maxTerm cs) }

/-- The term mask of R47 without the two terms of R100 and R207. -/
def Eval.mask (v : Eval) : Nat :=
  (List.range 9).foldl (fun m b => m + b2n (v.terms.any fun t => t.bit = b && t.fails) * 2 ^ b) 0

/-- A contract contributes with a demand that no live edition holds, or a larger one (R47). -/
def Term.grows (t : Term) (i : Item) : Bool :=
  i.new && (t.items.filter fun x => !x.new && x.key = i.key).all fun x => Amount.above i.val x.val

/-- The contract and half of a refused commit (R47). -/
def Eval.culprit (v : Eval) (roles : List Nat) : Nat × Nat :=
  let bad := v.terms.filter (·.fails)
  let hits (p : Term → Item → Bool) : List (Nat × Nat) :=
    bad.flatMap fun t => (t.items.filter (p t)).map fun i => (i.k, t.half.getD i.half)
  let first (l : List (Nat × Nat)) : Option (Nat × Nat) := argMin (fun x => x.1) l
  match first (hits Term.grows), first (hits fun _ _ => true) with
  | some x, _ => x
  | none, some x => x
  | none, none => (0xFFFF, roles.foldl min 16 / 8)

/-- The BUFFER demand of an owner (R319). -/
def Eval.minimum (s : State) (v : Eval) (o : Nat) : Nat := ((ownerTerm s v.cons o).demand.getD 0 |> ceilNat)

/-- The demand of a half's term. -/
def Eval.demandOf (v : Eval) (bit h : Nat) : Rat :=
  match v.terms.find? fun t => t.bit = bit && t.half = some h with
  | none => 0
  | some t => t.demand.getD 0

/-- The figures that CONTRACT_QUERY answers, with those of the half and of the lowest-numbered owner (R56). -/
def Eval.contractFigs (s : State) (e : Live) (v : Eval) (kf : Nat × Figs) : Nat × Figs :=
  let h := kf.2.half
  let owner := ((v.cons.find? fun c => c.new && c.k = kf.1).map (·.owners)).getD [] |>.head?
  (kf.1, { kf.2 with
    slotDemand := ceilNat (v.demandOf 0 h / (10 ^ 6 : Nat)), slotCapacity := floorNat (slotCap e h / (10 ^ 6 : Nat))
    threadDemand := ceilNat (v.demandOf 1 h * (100 : Nat)), threadCapacity := poolOf e h * 100
    ownerMinimum := owner.elim 0 fun o => v.minimum s o + pget s (pidBufOwnerFloor o) })

end Sys2Proof.Machine
end

