-- ==== Sys2Proof/Machine/Update.lean ====
section
/-! DEFINITION. Firmware update: transfer, activation, trial, confirmation and fallback (R454, R460 to R468). -/

namespace Sys2Proof.Machine

/-! ### The target of an update -/

/-- The slot that is not active (R460). -/
def otherSlot (s : State) : Bool := s.store.journal.active != 1

/-- The bytes received so far, or of the image that has been verified. -/
def targetBytes (s : State) : List Byte := if s.fuses.inPlace then s.fw.staging else fwSlotBytes s (s.store.journal.target = 1)

/-- Writes the target's bytes: the slot, or the staging region of HBM. -/
def setTarget (s : State) (b : List Byte) : State :=
  if s.fuses.inPlace then { s with fw := { s.fw with staging := b } }
  else if s.store.journal.target = 1 then { s with store := { s.store with slotB := b } }
  else { s with store := { s.store with slotA := b } }

/-- Marks the target: the slot of an in-place part changes only when it is overwritten. -/
def markTarget (inPlace : Bool) (x : Nat) (j : Journal) : Journal := if inPlace then j else setSlot j (j.target = 1) x

/-- The transfer is given up: target EMPTY, staging released, journal IDLE (R460). -/
def dropTransfer (s : State) : State :=
  let s := setTarget s []
  writeJournal s fun j => { markTarget s.fuses.inPlace slEmpty { j with state := jIdle } with target := 0xFF }

/-! ### Transfer (R460) -/

/-- IMAGE_BEGIN. A resend after an interrupted overwrite keeps the journal's digest and next_block, against which it is compared (R461). -/
def execImageBegin (h : CmdHdr) (ps : List Byte) (s : State) : Result :=
  hostCmdN s h 0x0800 0 ps 8 fun s =>
    let len := leAt ps 0 4
    let j := s.store.journal
    if !zeros ps 4 4 || fwImgLimit s.fuses.inPlace < len then refuse s stBadParam
    else if j.state = jReceiving || j.state = jVerified || j.state = jActivating || j.state = jTrial then refuse s stBusy
    else
      let again := j.state = jInterrupted
      let code := slotCode s.fuses.inPlace (otherSlot s)
      let s := writeJournal s fun j => { j with
        state := jReceiving, target := code, length := len, nextBlock := if again then j.nextBlock else 0
        digest := if again then j.digest else [] }
      let s := writeJournal s (markTarget s.fuses.inPlace slIncomplete)
      answer (setTarget s []) []

/-- IMAGE_DATA. -/
def execImageData (h : CmdHdr) (ps : List Byte) (s : State) : Result :=
  hostCmd s h 0x0801 0 fun s =>
    let data := ps.drop 4
    let got := targetBytes s
    if ps.length < 5 || 1028 < ps.length then refuse s stBadParam
    else if s.store.journal.state != jReceiving then refuse s stEditionState
    else if leAt ps 0 4 != got.length || s.store.journal.length < got.length + data.length then refuse s stBadParam
    else answer (setTarget s (got ++ data)) []

/-- Activation of an image will be an update reset (R462, R463). -/
def needsReset (s : State) (b : List Byte) : Bool :=
  s.fuses.inPlace || s.fw.recovery || fwImgRestart b || fwImgState b != s.fw.stateFmt || fwImgSettings b != s.fw.settingsFmt

/-- The SerDes microcode differs from the running one (R460). -/
def lineSide (s : State) (b : List Byte) : Bool := compDigest b 1 != s.fw.serdes

/-- The reply payload of IMAGE_END (R460). -/
def endPayload (s : State) (b : List Byte) : List Byte :=
  let reset := needsReset s b
  let flags := b2n reset + 2 * b2n (lineSide s b) + 4 * b2n (fwImgSettings b != s.fw.settingsFmt)
    + 8 * b2n (s.fuses.rollback < fwImgLevel b)
  let pause := if reset then 0 else if lineSide s b then 40 else 2
  leBytes 4 (fwImgVersion b) ++ leBytes 1 (fwImgLevel b) ++ leBytes 1 flags ++ leBytes 2 pause ++ leBytes 8 0

/-- The journal of a verified image: an overwrite that it resumes keeps its block (R461). -/
def verifiedJournal (inPlace : Bool) (b : List Byte) (j : Journal) : Journal :=
  let d := sha384 b
  { markTarget inPlace slVerified j with
    state := jVerified, level := fwImgLevel b, version := fwImgVersion b, digest := d
    nextBlock := if d == j.digest then j.nextBlock else 0 }

/-- IMAGE_END (R459, R460). -/
def execImageEnd (h : CmdHdr) (ps : List Byte) (s : State) : Result :=
  hostCmdN s h 0x0802 0 ps 0 fun s =>
    let b := targetBytes s
    if s.store.journal.state != jReceiving then refuse s stEditionState
    else if b.length != s.store.journal.length then (dropTransfer s, some (stImageInvalid, []))
    else
      match checkFw s.fuses b with
      | .invalid => (dropTransfer s, some (stImageInvalid, []))
      | .rollback => (dropTransfer s, some (stImageRollback, []))
      | .good => answer (writeJournal s (verifiedJournal s.fuses.inPlace b)) (endPayload s b)

/-! ### Activation (R462 to R464) -/

/-- Every line port is taken down (R463). -/
def portsOff (s : State) : State :=
  let s := { s with fw := { s.fw with portsDown := true } }
  (List.range 32).foldl (fun s p => if (getPort s p).link then linkDown s p else s) s

/-- An overwrite starts, or resumes at next_block (R461, R463). -/
def startOverwrite (s : State) : State :=
  let s := portsOff { s with fw := { s.fw with busy := true, ready := false, overwrite := true } }
  writeJournal s fun j => { j with state := jActivating, slotA := slIncomplete, slotB := 0 }

/-- The journal names the target, and an update reset is asked for (R462). -/
def startReset (s : State) : State :=
  let s := writeJournal s fun j => { j with state := jActivating }
  { s with fw := { s.fw with resetAsked := some .activation } }

/-- An activation pause begins at P with BUSY high (R464). -/
def startPause (s : State) : State :=
  let s := writeJournal s fun j => markTarget s.fuses.inPlace slTrial { j with state := jTrial }
  { s with fw := { s.fw with busy := true, ready := false, pause := true, trialAt := s.clk } }

/-- A verified image may be activated, or an interrupted overwrite continued with the same image (R460). -/
def activatable (s : State) : Bool :=
  let j := s.store.journal
  j.state = jVerified || (j.state = jInterrupted && !s.fw.staging.isEmpty && sha384 s.fw.staging == j.digest)

/-- IMAGE_ACTIVATE (R460, R462). -/
def execImageActivate (h : CmdHdr) (ps : List Byte) (s : State) : Result :=
  hostCmdN s h 0x0803 0 ps 0 fun s =>
    if !activatable s then refuse s stEditionState
    else if s.ed.wait.isSome || s.prep.isSome then refuse s stBusy
    else if s.fuses.inPlace then answer (startOverwrite s) []
    else if needsReset s (targetBytes s) then answer (startReset s) []
    else answer (startPause s) []

/-- A packet of a bounded class is left in the device (R464). -/
def boundedLeft (s : State) : Bool := (spresent s.pkts).any fun ip => bounded (ip.2.get fClass)

/-- ACTIVATION_PAUSE_RESUME: when the bounded packets have gone, or their largest bound has passed, the image's parts are switched, the
parsers accept again, BUSY falls and the trial starts (R464, R466). Before that nothing happens. -/
def execActivationPauseResume (s : State) : Result :=
  if !s.fw.pause || (boundedLeft s && s.clk ≤ s.fw.trialAt + largestBound s) then .next s
  else
    let s := adoptImage s (targetBytes s)
    .next (checkRings { s with fw := { s.fw with pause := false, busy := s.flt.fatal, ready := !s.flt.fatal, trial := true, trialAt := s.clk } })

/-- Bytes of one block of the staged image. -/
def blockBytes (s : State) (n : Nat) : List Byte := (s.fw.staging.drop (262144 * n)).take 262144

/-- OVERWRITE_BLOCK: the block at next_block is written and journalled; after the last an update reset follows (R463). -/
def execOverwriteBlock (s : State) : Result :=
  let n := s.store.journal.nextBlock
  let blocks := fwImgBlocks s.store.journal.length
  if !s.fw.overwrite || blocks ≤ n then .next s
  else
    let head := fitBytes s.store.slotA (262144 * n)
    let b := blockBytes s n
    let tail := if n + 1 = blocks then [] else s.store.slotA.drop (262144 * n + b.length)
    let s := writeJournal { s with store := { s.store with slotA := head ++ b ++ tail } } fun j => { j with nextBlock := n + 1 }
    .next (if n + 1 = blocks then { s with fw := { s.fw with resetAsked := some .activation } } else s)

/-! ### Trial (R466 to R468) -/

/-- The device is on trial and no fallback has begun. -/
def onTrial (s : State) : Bool := s.fw.trial && s.fw.resetAsked.isNone

/-- The end of the health window (R467). -/
def windowEnd (s : State) : Nat := s.fw.trialAt + pget s pidFwHealthWindowS * secCycles

/-- TRIAL_CONFIRM (R467). -/
def confirmJournal (inPlace : Bool) (j : Journal) : Journal :=
  if inPlace then { j with state := jIdle, slotA := slConfirmed }
  else
    let t := j.target = 1
    { setSlot (setSlot { j with state := jIdle } (!t) slPrevious) t slConfirmed with active := b2n t, target := 0xFF }

def execTrialConfirm (s : State) : Result :=
  if !onTrial s || s.flt.fatal || windowEnd s < s.clk then .next s
  else
    let s := writeJournal s (confirmJournal s.fuses.inPlace)
    .next { s with fw := { s.fw with trial := false, stepping := s.fuses.rollback < s.fw.level } }

/-- A fallback: target REJECTED, and an update reset is asked for (R468). -/
def fallBack (s : State) (c : UpdCause) : State :=
  let s := writeJournal s fun j => setSlot j (!s.fuses.inPlace && j.target = 1) slRejected
  { s with fw := { s.fw with resetAsked := some c } }

def execTrialSelfCheckFail (s : State) : Result := if onTrial s then .next (fallBack s .fallback) else .next s

/-- HEALTH_WINDOW_EXPIRY; before the window's end nothing happens (R468). -/
def execHealthWindowExpiry (s : State) : Result :=
  if onTrial s && windowEnd s ≤ s.clk then .next (fallBack s .expiry) else .next s

/-- ROLLBACK_STEP: one more fuse, until c = L (R454). -/
def execRollbackStep (s : State) : Result :=
  if !s.fw.stepping then .next s
  else
    let c := s.fuses.rollback + 1
    let s := pset { s with fuses := { s.fuses with rollback := c } } pidFwRollbackStep c
    .next { s with fw := { s.fw with stepping := c < s.fw.level } }

/-- IMAGE_ABORT (R460, R468). -/
def execImageAbort (h : CmdHdr) (ps : List Byte) (s : State) : Result :=
  hostCmdN s h 0x0804 0 ps 0 fun s =>
    let j := s.store.journal
    if j.state = jReceiving || j.state = jVerified then answer (dropTransfer s) []
    else if onTrial s then answer (fallBack s .fallback) []
    else answer s []

/-! ### IMAGE_STATUS (R460, R461) -/

/-- Version in the slot that does not hold the running image, 0 for none. -/
def otherVersion (s : State) : Nat :=
  let j := s.store.journal
  let b := if s.fw.trial then j.target != 1 else otherSlot s
  let x := fwSlotState j b
  if s.fuses.inPlace || x = slEmpty || x = slIncomplete then 0 else fwImgVersion (fwSlotBytes s b)

/-- Seconds left in the health window, rounded down. -/
def trialLeft (s : State) : Nat := if s.fw.trial then (windowEnd s - s.clk) / secCycles else 0

/-- IMAGE_STATUS. -/
def execImageStatus (h : CmdHdr) (ps : List Byte) (s : State) : Result :=
  hostCmdN s h 0x0805 0 ps 0 fun s =>
    let j := s.store.journal
    let st := if j.state = jInterrupted then stUpdateInterrupted else stOk
    let active := if s.fuses.inPlace then 0xFF else j.active
    let got := if j.state = jReceiving then (targetBytes s).length else j.length
    (s, some (st, leBytes 1 j.state ++ leBytes 1 (b2n s.fuses.inPlace) ++ leBytes 1 active ++ leBytes 1 j.target ++ leBytes 1 j.slotA
      ++ leBytes 1 j.slotB ++ leBytes 1 s.fuses.rollback ++ leBytes 1 0 ++ leBytes 4 got ++ leBytes 2 j.nextBlock
      ++ leBytes 2 (fwImgBlocks j.length) ++ leBytes 4 (trialLeft s) ++ leBytes 4 s.fw.version ++ leBytes 4 (otherVersion s)
      ++ leBytes 4 0))

end Sys2Proof.Machine
end

