-- ==== Sys2Proof/Machine/Editions.lean ====
section
/-! DEFINITION. Editions: staging, commit, activation, retirement and their commands (R88 to R110, R323). -/

namespace Sys2Proof.Machine

/-! ### Staging (R89 to R92) -/

/-- The commands of an edition that answer ST_EDITION_STATE without a staged edition of the interface (R90). -/
def withStaged (s : State) (i : Iface) (body : Staged → Answer) : Answer :=
  match s.ed.staged with
  | none => refuse s stEditionState
  | some x => if x.owner = i then body x else refuse s stEditionState

def setStaged (s : State) (x : Option Staged) : State := { s with ed := { s.ed with staged := x } }

/-- EDITION_OPEN (R90): a copy of the newest live edition, or empty. -/
def execEditionOpen (h : CmdHdr) (ps : List Byte) (s : State) : Result :=
  hostCmdN s h 0x0300 1 ps 0 fun s =>
    if s.ed.staged.isSome then refuse s stEditionState
    else
      let x : Staged := match newestEd s with
        | some e => if h.flags.getLsbD 0 then { owner := h.iface } else { owner := h.iface, vals := e.vals, images := e.images }
        | none => { owner := h.iface }
      answer (setStaged (writeArea s 0 editionArea) (some x)) []

/-- Set entries (R411): ID and value bytes; none when the bytes are no list of entries. -/
def setEntries (ps : List Byte) (fuel : Nat) : Option (List (Nat × List Byte)) :=
  match fuel with
  | 0 => if ps.isEmpty then some [] else none
  | f + 1 =>
    if ps.isEmpty then some []
    else
      let n := leAt ps 4 2
      let size := 8 + ceilDiv n 4 * 4
      if ps.length < size || leAt ps 6 2 != 0 || !zeroArea ps (8 + n) (size - 8 - n) then none
      else (setEntries (ps.drop size) f).map fun l => (leAt ps 0 4, bytesAt ps 8 n) :: l

/-- The reply of PARAM_SET and EDITION_STAGE (R410). -/
def setReply (applied failed : Nat) : List Byte := leBytes 2 applied ++ leBytes 2 failed

/-- Applies entries in order up to the first failure (R411): the state, the entries applied, and the status. -/
def applyEntries (set1 : State → Nat → List Byte → Answer) (s : State) (es : List (Nat × List Byte)) (n : Nat) : State × Nat × Nat :=
  match es with
  | [] => (s, n, stOk)
  | e :: rest =>
    match set1 s e.1 e.2 with
    | (s1, none) => applyEntries set1 s1 rest (n + 1)
    | (s1, some (st, _)) => if st = stOk then applyEntries set1 s1 rest (n + 1) else (s1, n, st)

/-- PARAM_SET and EDITION_STAGE over 1 to 64 entries (R410, R411). -/
def setCommand (set1 : State → Nat → List Byte → Answer) (s : State) (ps : List Byte) : Answer :=
  match setEntries ps ps.length with
  | none => refuse s stBadParam
  | some es =>
    if es.isEmpty || 64 < es.length then refuse s stBadParam
    else
      let r := applyEntries set1 s es 0
      (r.1, some (r.2.2, setReply r.2.1 (if r.2.2 = stOk then 0xFFFF else r.2.1)))

/-- The value of a parameter as an integer, from its bytes. -/
def valueInt (p : PSpec) (bs : List Byte) : Int := if p.signed then toSigned (8 * p.len) (leNat bs) else (leNat bs : Nat)

/-- Length and range of a fixed-length parameter (R5, R411). -/
def inForm (p : PSpec) (bs : List Byte) : Bool := bs.length = p.len && p.lo ≤ valueInt p bs && valueInt p bs ≤ p.hi

/-- The fields of a rule record lie in their ranges, domain_arg in that of its mode (R78, R496). -/
def ruleRecordOk (r : Nat) : Bool :=
  bitsOf r 7 1 = 0 && bitsOf r 16 8 ≤ 3 && orIn 8191 0xFFFF (bitsOf r 48 16) && orIn 8191 0xFFFF (bitsOf r 64 16)
    && (bitsOf r 16 8 != 1 || bitsOf r 24 8 ≤ 16) && (bitsOf r 16 8 != 2 || bitsOf r 24 8 ≤ 19)
    && orIn 63 0xFF (bitsOf r 80 8) && bitsOf r 88 8 ≤ 15 && bitsOf r 192 64 = 0
    && (List.range 4).all fun t => bitsOf r (128 + 16 * t + 10) 4 = 0
where
  /-- A number up to `m`, or the code for none. -/
  orIn (m none x : Nat) : Bool := x ≤ m || x = none

/-- A range comparator record (R497). -/
def rangeRecordOk (r : Nat) : Bool := (r % 256 < 20 || r % 256 = 0xFF) && bitsOf r 8 8 = 0 && bitsOf r 48 16 = 0

/-- A profile-select record (R498). -/
def selRecordOk (r : Nat) : Bool := bitsOf r 1 7 = 0 && bitsOf r 8 8 < 8 && bitsOf r 54 2 = 0 && bitsOf r 62 2 = 0

/-- An extractor record (R499). -/
def extRecordOk (r : Nat) : Bool :=
  let kind := r % 256
  let sel := bitsOf r 8 8
  let off := bitsOf r 16 8
  kind ≤ 4 && (if kind = 1 then sel < 32 && off < 64 else if kind = 2 then sel < 4 && off = 0 else sel = 0 && off = 0)
    && bitsOf r 24 8 = 0 && bitsOf r 48 16 = 0 && (kind != 0 || bitsOf r 32 16 = 0)

/-- The fields of an edition record, by class and field number; other parameters have only a range. -/
def recordOk (id r : Nat) : Bool :=
  let key := id / 2 ^ 24 * 256 + id % 256
  if key = 0x0600 + pidClsRule 0 % 256 then ruleRecordOk r
  else if key = 0x0600 + pidClsRange 0 % 256 then rangeRecordOk r
  else if key = 0x0600 + pidClsProfileSel 0 % 256 then selRecordOk r
  else if key = 0x0600 + pidClsProfileWord 0 0 % 256 then extRecordOk r
  else if key = 0x0A00 + pidDispGraphOpArrivalCh 0 0 % 256 then r < 256 || r = 0xFFFF
  else if key = 0x0E00 + pidTblBind 0 0 % 256 then r < 64 || r = 0xFF
  else if key = 0x1100 + pidTmPortGcl 0 % 256 then r < 64 || r = 0xFF
  else true

/-- One entry of EDITION_STAGE (R91, R411). -/
def stageOne (s : State) (id : Nat) (bs : List Byte) : Answer :=
  match pinfo id, s.ed.staged with
  | some (p, _), some x =>
    if p.scope = .ed && inForm p bs && recordOk id (leNat bs) then
      (setStaged s (some { x with vals := sset (preset id) x.vals id (leNat bs) }), none)
    else refuse s stBadParam
  | _, _ => refuse s stBadParam

/-- EDITION_STAGE (R90, R91, R411). -/
def execEditionStage (h : CmdHdr) (ps : List Byte) (s : State) : Result :=
  hostCmd s h 0x0301 0 fun s => withStaged s h.iface fun _ =>
    if s.ed.wait.isSome then refuse s stBusy else setCommand stageOne s ps

/-- PROGRAM_LOAD (R90, R92, R214). -/
def execProgramLoad (h : CmdHdr) (ps : List Byte) (s : State) : Result :=
  hostCmd s h 0x0302 0 fun s => withStaged s h.iface fun x =>
    let img := ps.drop 4
    if s.ed.wait.isSome then refuse s stBusy
    else if ps.length < 4 || leAt ps 1 3 != 0 then refuse s stBadParam
    else if !imageOk img then refuse s stImageInvalid
    else answer (setStaged s (some { x with images := sset none x.images (leAt ps 0 1) (some img) })) []

/-- EDITION_ABORT (R90). From another interface without FORCE while a commit is in progress, where R90 names both statuses, it answers
ST_EDITION_STATE (DESIGN CHOICE, log entry 81). -/
def execEditionAbort (h : CmdHdr) (ps : List Byte) (s : State) : Result :=
  hostCmdN s h 0x0304 1 ps 0 fun s =>
    match s.ed.staged with
    | none => refuse s stEditionState
    | some x =>
      if x.owner != h.iface && !h.flags.getLsbD 0 then refuse s stEditionState
      else if s.ed.wait.isSome then refuse s stBusy
      else answer (setStaged s none) []

/-! ### Step 1: structural checks (R20, R35, R36, R43, R75, R78, R124, R204, R215, R228, R233, R277, R326, R335) -/

/-- Every parameter of a defined contract has a value in its range (R5, R34). -/
def contractOk (e : Live) (k : Nat) : Bool :=
  let fits (id : Nat) : Bool := match pinfo id with
    | none => false
    | some (p, _) => p.lo ≤ (e.get id : Nat) && ((e.get id : Nat) : Int) ≤ p.hi
  [pidBoundContractClass k, pidBoundContractPasses k, pidBoundContractRate k, pidBoundContractBurst k, pidBoundContractMaxLen k,
   pidBoundContractEgressPorts k].all fits

/-- The contract's policer enforces it (R36). -/
def policerFits (s : State) (e : Live) (k : Nat) : Bool :=
  let p := getPol s (e.get (pidBoundContractPolicer k))
  p.enable && p.mode = 0 && p.rate ≤ e.get (pidBoundContractRate k) && p.burst ≤ e.get (pidBoundContractBurst k) && p.action = 0

/-- The ports that fanout and partners can add for a queue, its own among them (R326). -/
def reachedPorts (s : State) (p q : Nat) : List Nat := copyPorts s {} p q

/-- The conditions of R36, R326, R335 and R340 on an egress port of a contract. -/
def egressFits (s : State) (e : Live) (k p : Nat) : Bool :=
  let q := e.get (pidBoundContractQueue k)
  let out := e.get (pidBoundContractEgressPorts k)
  isStrict s p q && (!preemptOn s p || isExpress s p q) && !(getShaper s (shaperKey p q)).enable
    && pget s (pidTmQDeep p q) = 0
    && (reachedPorts s p q).all fun x => bitOf out x

/-- The conditions of R36 on a contract. -/
def contractFits (s : State) (e : Live) (k : Nat) : Bool :=
  let ins := portsOf (e.get (pidBoundContractIngressPorts k))
  let h := ins.head?.map portHalf
  (ins.all fun p => some (portHalf p) = h) && policerFits s e k
    && (portsOf (e.get (pidBoundContractEgressPorts k))).all (egressFits s e k)

/-- Every graph of a contract has an image in the edition (R36). -/
def contractImages (e : Live) (k : Nat) : Bool := (conGraphs e k).all fun g => (sget none e.images g).isSome

/-- A contract of an edition makes queue q of port p a protected queue (R36). -/
def protects (s : State) (e : Live) (p q : Nat) : Bool :=
  (edContracts e).any fun k => bitOf (e.get (pidBoundContractEgressPorts k)) p
    && (e.get (pidBoundContractQueue k) = q || (e.get (pidBoundContractQueue k) < q && isStrict s p q))

/-- No standard or control rule hints at a protected queue (R36). -/
def hintsOk (s : State) (eds : List Live) (e : Live) : Bool :=
  (validRules e).all fun ir => bounded (ruleClass ir.2) || (List.range 32).all fun p => eds.all fun x => !protects s x p (ruleQueue ir.2)

/-- The result fields of a rule (R20, R35, R78). -/
def ruleOk (e : Live) (r : Nat) : Bool :=
  let c := ruleContract r
  let cls := ruleClass r
  (sget none e.images (ruleGraph r)).isSome
    && (ruleOrderMode r != 1 || ruleDomainArg r ≤ 16) && (ruleOrderMode r != 2 || ruleDomainArg r ≤ 19)
    && (if bounded cls then (edContracts e).contains c && e.get (pidBoundContractClass c) = cls else c = 0xFFFF)
    && (cls != clsControl || (rulePorts e r).all fun p => p = 32 || p = 34)

/-- No standard or control rule can send into an ordered domain of a contract's rule (R228). -/
def domainsApart (e : Live) : Bool :=
  let rs := (validRules e).map (·.2)
  rs.all fun a => bounded (ruleClass a) || rs.all fun b => !bounded (ruleClass b)
    || [0, 1].all fun h => (List.range 65536).all fun d => !(ruleSends e a h d && ruleSends e b h d)

/-- Cycles of the round in which a thread owns a slot, in order; a cycle with both slots stands twice (R123). -/
def ownCycles (cal : List Nat) (t : Nat) : List Nat :=
  (List.range 16).flatMap fun x =>
    let v := cal.getD x 0
    (if bitOf v 7 && bitsOf v 4 3 = t then [x] else []) ++ (if bitOf v 3 && bitsOf v 0 3 = t then [x] else [])

/-- Cyclic distances from each owned slot to the next; one slot is 16 cycles from itself. -/
def slotGaps (cs : List Nat) : List Nat :=
  (List.range cs.length).map fun i =>
    let d := (cs.getD ((i + 1) % cs.length) 0 + 16 - cs.getD i 0) % 16
    if cs.length = 1 then 16 else d

/-- A calendar keeps the conditions of R124 and R215 for its threads, `pool` marking the bounded ones. -/
def calendarOk (cal : List Nat) (pool : Nat → Bool) (w : Nat) : Bool :=
  (List.range 8).all fun t =>
    let cs := ownCycles cal t
    (slotGaps cs).all (fun d => 2 ≤ d)
      && (!pool t || (w ≤ cs.length && (slotGaps cs).all (fun d => d ≤ ceilDiv 16 w) && cs.all fun x => cs.contains ((x + 16 / w) % 16)))

/-- The calendar of a core in a role. -/
def edCal (e : Live) (r c : Nat) : List Nat := (List.range 16).map fun x => e.get (pidStnRoleCoreCal r c x)

def poolMark (e : Live) (r c t : Nat) : Bool := e.get (pidStnRoleCorePool r c t) = 1

/-- The station map (R43, R124, R215). -/
def mapOk (e : Live) : Bool :=
  let w := e.get pidStnMapPoolWeight
  [1, 2, 4, 8].contains w
    && ((List.range 16).all fun r => (List.range 12).all fun c => calendarOk (edCal e r c) (poolMark e r c) w)
    && [0, 1].all fun h => !((validRules e).any fun ir => ruleClass ir.2 = clsControl && ruleHalf e ir.2 h)
      || (List.range 8).all fun i => (List.range 12).any fun c => (List.range 8).any fun t => !poolMark e (8 * h + i) c t

/-- Marked lock users of a role (R204, R207). -/
def lockUserCount (e : Live) (r : Nat) : Nat := popcount (e.get (pidHlpRoleLockUsers r)) 96

/-- An image has an operation that contains HLOCK. -/
def imageLocks (img : List Byte) : Bool := (List.range (imgOps img)).any fun i => hasHlock (opCode img i)

/-- Every role that runs an operation with HLOCK has a marked thread (R204). -/
def lockUsersOk (e : Live) : Bool :=
  (spresent e.images).all fun gi => !imageLocks gi.2 || (List.range 16).all fun r =>
    0 < lockUserCount e r || !((validRules e).any fun ir => ruleGraph ir.2 = gi.1 && ruleHalf e ir.2 (r / 8))

/-- The flags of an operation's timer and arrival channel (R233). -/
def opFlagsOk (e : Live) (g : Nat) (img : List Byte) (i : Nat) : Bool :=
  let tf := e.get (pidDispGraphOpTimerFlag g i)
  let af := e.get (pidDispGraphOpArrivalFlag g i)
  let m := dispatchMask img i
  !m.getLsbD tf && !m.getLsbD af
    && (e.get (pidDispGraphOpTimer g i) = 0 || e.get (pidDispGraphOpArrivalCh g i) = 0xFFFF || tf != af)

/-- Range comparators in use have low up to high (R75, R497). -/
def rangesOk (e : Live) : Bool :=
  (List.range 1024).all fun n =>
    let c := e.get (pidClsRange n)
    20 ≤ c % 256 || bitsOf c 16 16 ≤ bitsOf c 32 16

/-- No binding to a partition of kind NONE (R277). -/
def bindsOk (s : State) (e : Live) : Bool :=
  (List.range 256).all fun g => (List.range 16).all fun t =>
    let b := e.get (pidTblBind g t)
    64 ≤ b || (partInfo s b).kind != .none

/-- The checks that a device parameter can break as well (R36, R313, R326, R335), over an edition and the editions beside it. -/
def deviceFits (s : State) (eds : List Live) (e : Live) : Bool := (edContracts e).all (contractFits s e) && hintsOk s eds e

/-- Step 1 of the commit. -/
def structureOk (s : State) (live : List Live) (e : Live) : Bool :=
  (edContracts e).all (fun k => contractOk e k && contractImages e k) && deviceFits s (e :: live) e && mapOk e && rangesOk e
    && ((validRules e).all fun ir => ruleOk e ir.2) && domainsApart e && lockUsersOk e && bindsOk s e
    && (spresent e.images).all fun gi => (List.range (imgOps gi.2)).all (opFlagsOk e gi.1 gi.2)

/-! ### Step 2: verification (R216 to R218, R227) -/

/-- The figures of an identical image verified at the same pool weight in a live edition: slot count and span (R96, R216). -/
def verifiedAs (live : List Live) (w : Nat) (img : List Byte) : Option (Nat × Nat) :=
  live.findSome? fun x =>
    if x.get pidStnMapPoolWeight != w then none
    else ((spresent x.images).find? fun gi => gi.2 == img).map fun gi => (sget 0 x.slots gi.1, sget 0 x.spans gi.1)

/-- The classes that the rules of an edition give a graph (R218). -/
def graphClasses (e : Live) (g : Nat) : List Nat := (((validRules e).filter fun ir => ruleGraph ir.2 = g).map fun ir => ruleClass ir.2).eraseDups

/-- The partitions of a graph's logical tables. -/
def graphBinds (s : State) (e : Live) (g : Nat) : List Part := (List.range 16).map fun t => partInfo s (e.get (pidTblBind g t))

/-- One image verified under the staged edition. -/
def verifyGraph (s : State) (e : Live) (grant g : Nat) (img : List Byte) : VGraph :=
  verifyImage img (e.get pidStnMapPoolWeight) grant (graphClasses e g) (graphBinds s e g) (s.fuses.crypto = false)

/-- Stations of a half run a graph under an edition. -/
def graphRuns (e : Live) (g h : Nat) : Bool := (validRules e).any fun ir => ruleGraph ir.2 = g && ruleHalf e ir.2 h

/-- S_max of a role (R207): the largest span of the graphs that its half runs, over the new edition and every live one. -/
def spanMax (eds : List Live) (r : Nat) : Nat :=
  eds.foldl (fun m x => x.spans.foldl (fun m gs => if graphRuns x gs.1 (r / 8) then max m gs.2 else m) m) 0

/-- U × (S_max + 8), the largest of the roles that run a graph (R207, R221). -/
def lockCharge (e : Live) (eds : List Live) (g : Nat) : Nat :=
  (List.range 16).foldl (fun m r => if graphRuns e g (r / 8) then max m (lockUserCount e r * (spanMax eds r + 8)) else m) 8

/-- A role runs an operation with HLOCK. -/
def roleLocks (e : Live) (r : Nat) : Bool := (spresent e.images).any fun gi => imageLocks gi.2 && graphRuns e gi.1 (r / 8)

/-- The payload of R217. -/
def verifyPayload (e : Live) (g : Nat) (img : List Byte) (r : VReason) (computed : Nat) : List Byte :=
  let w := e.get pidStnMapPoolWeight
  leBytes 1 g ++ leBytes 1 r.1 ++ leBytes 1 r.2.2 ++ leBytes 1 w ++ leBytes 4 r.2.1 ++ leBytes 4 computed ++ leBytes 4 (imgBound img w)

/-- The verification of the graphs in ascending number: the payload of the first refusal, or the edition with its figures. -/
def verifyGraphs (s : State) (live : List Live) (grant : Nat → Nat) (gs : List (Nat × List Byte)) (parcels : Nat) (e : Live) :
    Except (List Byte) Live :=
  match gs with
  | [] => .ok e
  | (g, img) :: rest =>
    match verifiedAs live (e.get pidStnMapPoolWeight) img with
    | some f => verifyGraphs s live grant rest parcels { e with slots := sset 0 e.slots g f.1, spans := sset 0 e.spans g f.2 }
    | none =>
      let v := verifyGraph s e (grant g) g img
      let parcels := parcels + imageParcels img
      let limit : List VReason := if 262144 < parcels then [(wholeGraph, noOffset, vrLimit)] else []
      match argMin reasonRank (v.reason.toList ++ limit) with
      | some r => .error (verifyPayload e g img r (if 262144 < parcels && r = (wholeGraph, noOffset, vrLimit) then 0 else v.computed))
      | none => verifyGraphs s live grant rest parcels { e with slots := sset 0 e.slots g v.slots, spans := sset 0 e.spans g v.span }

/-- The spans of the new images, measured with a lock that is free (R205, R206). -/
def measureSpans (s : State) (live : List Live) (e : Live) : Live :=
  (spresent e.images).foldl (fun x gi =>
    let span := match verifiedAs live (e.get pidStnMapPoolWeight) gi.2 with
      | some f => f.2
      | none => (verifyGraph s e 8 gi.1 gi.2).span
    { x with spans := sset 0 x.spans gi.1 span }) e

/-- Step 2: every span first, then every image with the charge that they give (R207, R216). -/
def verifyEdition (s : State) (live : List Live) (e : Live) : Except (List Byte) Live :=
  let m := measureSpans s live e
  match verifyGraphs s live (lockCharge e (m :: live)) (spresent e.images) 0 e with
  | .error p => .error p
  | .ok x =>
    .ok { x with
      spans := m.spans
      lockUse := ((List.range 16).filter (roleLocks e)).map fun r => (r, lockUserCount e r * 2 ^ 32 + spanMax (m :: live) r) }

/-! ### Steps 3 to 5 (R95 to R97, R100, R323) -/

/-- The serial that follows the last one (R93, R94). -/
def nextSerial (s : State) : Nat := if s.store.serial = 0xFFFFFFFF then 4 else s.store.serial + 1

/-- The roles for which the commit would exceed the lock wait of a live edition (R207). -/
def lockShort (live : List Live) (e : Live) : List Nat :=
  (List.range 16).filter fun r => live.any fun x => (x.lockUse.find? fun ru => ru.1 = r).any fun ru =>
    ru.2 / 2 ^ 32 < lockUserCount e r || ru.2 % 2 ^ 32 < spanMax (e :: live) r

/-- Payload of a refusal of step 4 (R47, R410). -/
def termPayload (mask : Nat) (c : Nat × Nat) : List Byte := leBytes 2 mask ++ leBytes 2 c.1 ++ leBytes 1 c.2 ++ leBytes 3 0

/-- Step 4: the figures, or status and payload of the refusal (R46, R47, R100, R207). -/
def admitEdition (s : State) (live : List Live) (e : Live) : Except (Nat × List Byte) Live :=
  let v := evaluate s live e
  let short := poolShort live e
  let locks := lockShort live e
  let mask := v.mask + b2n (!short.isEmpty) * 2 ^ 9 + b2n (!locks.isEmpty) * 2 ^ 10
  if mask = 0 then .ok { e with figs := (v.figs.map (v.contractFigs s e)).foldl (fun m kf => sset none m kf.1 (some kf.2)) [] }
  else
    let alone := (evaluate s [] e).mask != 0 || ((List.range 64).any fun o => (ownerTerm s v.cons o).fails)
    .error (if alone then stBoundExceeded else stBusy, termPayload mask (v.culprit (short ++ locks)))

/-- Rule slots and program memory of editions: distinct rules by place, distinct images (R97). -/
def roomFits (eds : List Live) : Bool :=
  let rules := (eds.flatMap validRules).eraseDups
  let imgs := (eds.flatMap fun x => (spresent x.images).map (·.2)).eraseDups
  rules.length ≤ 32768 && (imgs.map (·.length)).sum ≤ 262144

/-- The space check of step 5: none when it passes (R97). -/
def spaceStatus (live : List Live) (newest : Option Live) (e : Live) : Option Nat :=
  if roomFits (e :: live) then none
  else match newest with
    | none => some stNoResource
    | some n => if roomFits [e, n] then some stBusy else some stNoResource

/-- The BUFFER demand of each owner under live editions (R44, R45, R104, R319). -/
def minimaOf (s : State) (eds : List Live) : Sparse Nat :=
  let cs := eds.flatMap fun x => (spresent x.figs).map (conLive s x)
  (List.range 64).foldl (fun m o => sset 0 m o (ceilNat ((ownerTerm s cs o).demand.getD 0))) []

/-- Δ: the sum of the increases of the raised minima, those of the settings among them (R323). -/
def raiseOf (s : State) (m : Sparse Nat) : Nat := ((List.range 65).map fun a => sget 0 m a + acctFloor s a - acctMin s a).sum

/-- The minima in force: demands, and the settings as they stand (R319, R323). -/
def setMinima (s : State) (m : Sparse Nat) : State :=
  { s with buf := { s.buf with
    minima := m, floors := (List.range 65).foldl (fun f a => sset 0 f a (acctFloor s a)) s.buf.floors } }

/-- The minima after a retirement: the demands fall; a raised setting takes effect when S − C covers what it adds (R323; log entry 64). -/
def lowerMinima (s : State) (m : Sparse Nat) : State :=
  if (raiseOf s m : Int) ≤ sharedFolios s - s.buf.claim then setMinima s m else { s with buf := { s.buf with minima := m } }

/-- A claim with its hold time (R323). -/
def setClaim (s : State) (n : Nat) : State :=
  { s with buf := { s.buf with claim := n, claimUntil := s.clk + pget s pidBufClaimHoldMs * msCycles } }

/-! ### Step 6: activation (R93 to R98, R102) -/

/-- The first instant at or after now at which a cycle of a list starts (R337). -/
def nextCycle (g : GateList) (u : Nat) : Nat :=
  let pos := gclPos g u
  if pos = 0 then u else u + (g.cycle * 2 ^ 32 - pos)

/-- A port takes the binding of the edition: at the next cycle start of the new list, at once when it has none (R337). -/
def bindGcl (s : State) (e : Live) (p : Nat) : State :=
  let n := let x := e.get (pidTmPortGcl p); if x < 64 then x else 0xFF
  let cur := portGcl s p
  if cur = n then modPort s p fun x => { x with gcl := cur, gclNext := none }
  else match edGcl s e p with
    | none => modPort s p fun x => { x with gcl := n, gclNext := none }
    | some g => modPort s p fun x => { x with gcl := cur, gclNext := some n, gclAt := nextCycle g (now s) }

/-- The newest edition is superseded (R102, R103). -/
def supersede (s : State) : State :=
  match s.ed.newest, newestEd s with
  | some t, some e =>
    { s with ed := { s.ed with live := sset none s.ed.live t (some { e with superAt := some s.clk, limAtSuper := residencyLimit s }) } }
  | _, _ => s

/-- Longest total of a commit in µs (R96). -/
def commitLimit (prog : Bool) : Nat := if prog then 40000 else 5000

/-- The comparator copies of a tag, and the rule slots that only retired editions used, are written anew (R82, R97). -/
def freshCopies (s : State) (tag : Nat) : State :=
  let kept (ir : Nat × Nat) : Bool := (liveEds s).any fun te => te.2.get (pidClsRule ir.1) = ir.2
  let clean (h : HalfState) : HalfState := { h with badRules := h.badRules.filter kept, badComps := h.badComps.filter (·.2 != tag) }
  modHalf (modHalf s .west clean) .east clean

/-- Activation: the serial is stored, the edition becomes the newest, the minima and gate bindings change (R93, R94, R98, R337, R465). -/
def activate (s : State) (cand : Live) : State :=
  let serial := nextSerial s
  let e := { cand with serial := serial, actAt := s.clk, slew := pget s pidBoundSlewAllowance }
  let s := supersede { s with store := { s.store with serial := serial } }
  let s := { s with ed := { s.ed with live := sset none s.ed.live (serial % 4) (some e), newest := some (serial % 4), staged := none, wait := none } }
  let s := freshCopies s (serial % 4)
  let s := writeArea (modProgs s (fun st => st.st = ssInService || st.st = ssDraining) (loadEdition e)) editionArea imageArea
  let s := (List.range 32).foldl (fun s p => bindGcl s e p) s
  let s := { s with fw := { s.fw with portsDown := s.fw.portsDown && s.fw.recovery } }
  pset (pinc s pidEditionCommits) pidEditionLastCommitUs ((Config.commitUs serial).toNat % (commitLimit e.prog + 1))

/-- The reply of a commit (R410). -/
def commitReply (s : State) : List Byte := leBytes 4 s.store.serial ++ leBytes 4 0 ++ timeRecord (now s)

/-- A refused commit is counted by status; the edition stays staged (R96, R110). -/
def commitRefused (s : State) (st : Nat) (payload : List Byte) : Answer := (pinc s (pidEditionRefused st), some (st, payload))

/-- Applies the minima of a commit and activates (R98, R323). -/
def applyCommit (s : State) (e : Live) (m : Sparse Nat) : State :=
  activate (setMinima { s with buf := { s.buf with claim := 0, claimUntil := 0 } } m) e

/-- The kind of a commit: rule-only when nothing is new in images and station map (R96). -/
def programCommit (s : State) (live : List Live) (e : Live) : Bool :=
  let station (x : Live) := x.vals.filter fun kv => kv.1 / 2 ^ 24 = 8
  match newestEd s with
  | none => true
  | some n => station e != station n || (spresent e.images).any fun gi => (verifiedAs live (e.get pidStnMapPoolWeight) gi.2).isNone

/-- The claim of step 5 (R323). -/
def claimStep (s : State) (h : CmdHdr) (e : Live) : Answer :=
  let m := minimaOf s (e :: (liveEds s).map (·.2))
  let d := raiseOf s m
  let room := if s.buf.claim = 0 || s.buf.claim < d then sharedFolios s - s.buf.claim else sharedFolios s
  if (d : Int) ≤ room then
    let s := applyCommit s e m
    answer s (commitReply s)
  else if s.buf.claim = 0 || s.buf.claim < d then commitRefused (setClaim s d) stBusy []
  else
    ({ s with ed := { s.ed with wait := some { hdr := h, cand := e, deadline := s.clk + (if e.prog then 8 else 3) * msCycles } } }, none)

/-- Steps 1 to 6 of EDITION_COMMIT (R96). An uncorrectable error in the staging area ends it, and the staged edition is gone (R379). -/
def commitSteps (s : State) (h : CmdHdr) (x : Staged) : Answer :=
  if areaPoisoned s 0 editionArea then commitRefused (setStaged s none) stHwFault [] else
  let live := (liveEds s).map (·.2)
  let e : Live := { vals := x.vals, images := x.images }
  let e := { e with prog := programCommit s live e }
  if !structureOk s live e then commitRefused s stBadParam []
  else match verifyEdition s live e with
    | .error p => commitRefused s stVerifyFailed p
    | .ok e =>
      if (liveEd s (nextSerial s % 4)).isSome then commitRefused s stEditionLimit []
      else match admitEdition s live e with
        | .error r => commitRefused s r.1 r.2
        | .ok e => match spaceStatus live (newestEd s) e with
          | some st => commitRefused s st []
          | none => claimStep s h e

/-- EDITION_COMMIT (R90, R96, R106, R137). -/
def execEditionCommit (h : CmdHdr) (ps : List Byte) (s : State) : Result :=
  hostCmdN s h 0x0303 0 ps 0 fun s =>
    match s.ed.staged with
    | none => commitRefused s stEditionState []
    | some x =>
      if x.owner != h.iface then commitRefused s stEditionState []
      else if s.prep.isSome || s.ed.wait.isSome then commitRefused s stBusy []
      else commitSteps { s with ed := { s.ed with committed := true } } h x

/-- COMMIT_CLAIM_APPLY: the waiting commit applies its minima once S reaches their increase, or is refused when the longest time of step 5
has passed; before that nothing happens (R323). -/
def execCommitClaimApply (s : State) : Result :=
  match s.ed.wait with
  | none => .next s
  | some w =>
    let m := minimaOf s (w.cand :: (liveEds s).map (·.2))
    if (raiseOf s m : Int) ≤ sharedFolios s then
      let s := applyCommit s w.cand m
      .next (sendReply s w.hdr 0x0303 stOk (commitReply s))
    else if w.deadline ≤ s.clk then .next (dropCommit s)
    else .next s

/-- CLAIM_HOLD_EXPIRY (R323). -/
def execClaimHoldExpiry (s : State) : Result :=
  if s.buf.claim != 0 && s.buf.claimUntil ≤ s.clk then .next { s with buf := { s.buf with claim := 0, claimUntil := 0 } } else .next s

/-! ### Retirement (R102 to R104) -/

/-- The tag count of a half. -/
def tagCount (s : State) (h tag : Nat) : Nat := sget 0 s.ed.tagCount (4 * h + tag)

/-- Removes a live edition: its program memory is freed but in a station that is being prepared (R138), the minima fall, and EDITION_RETIRED is
logged (R104, R323). -/
def retire (s : State) (tag : Nat) (e : Live) : State :=
  let s := { s with ed := { s.ed with live := sset none s.ed.live tag none } }
  let s := modProgs s (fun st => st.st != ssPreparing) (unloadEdition e.serial)
  let s := lowerMinima s (minimaOf s ((liveEds s).map (·.2)))
  let s := freshCopies s tag
  logEvent s 0x0020 clsInfo (leBytes 4 e.serial ++ leBytes 8 (nowStamp s) ++ leBytes 4 0)

/-- EDITION_RETIRE: a superseded edition whose counts are zero (R102); one that is stuck in the critical class keeps its tag until reset
(R103). -/
def execEditionRetire (tf : Fin 4) (s : State) : Result :=
  let t := tf.val
  match liveEd s t with
  | none => .next s
  | some e => if e.superAt.isNone || tagCount s 0 t != 0 || tagCount s 1 t != 0 || e.stuck = 2 then .next s else .next (retire s t e)

/-- T_ret in CORE cycles (R33, R103). -/
def retireTime (s : State) (e : Live) : Nat :=
  let top := (spresent e.figs).foldl (fun m kf => max m kf.2.bound) 0
  max (residencyInterval s e.limAtSuper) (ceilDiv (top * 5) 4) + 100 * usCycles

/-- Notes in an edition that it is stuck. -/
def markStuck (s : State) (t n : Nat) (e : Live) : State :=
  { s with ed := { s.ed with live := sset none s.ed.live t (some { e with stuck := n, stuckAt := s.clk }) } }

/-- EDITION_RETIRE_STUCK (R103). -/
def reportStuck (s : State) (t cls : Nat) : State := report s 0x85 0x13 cls 0x0FFE t (tagCount s 0 t) (tagCount s 1 t)

/-- Purges the queued copies of a tag with disposition RESIDENCY (R103). -/
def purgeTag (s : State) (t : Nat) : State :=
  s.tm.queues.foldl (fun s kq =>
    let (out, kept) := kq.2.partition fun c => c.tag = t
    out.foldl (fun s c => discardCopy (countDisp (modPkt s c.pkt fun k => k.put fDisp dResidency) c.half dResidency) c) (setQueue s kq.1 kept)) s

/-- RETIRE_STUCK_TIMEOUT: 2 × T_ret after the supersession (R103). -/
def execRetireStuckTimeout (tf : Fin 4) (s : State) : Result :=
  let t := tf.val
  match liveEd s t with
  | none => .next s
  | some e =>
    match e.superAt with
    | none => .next s
    | some a =>
      if e.stuck != 0 || s.clk < a + 2 * retireTime s e then .next s
      else .next (purgeTag (reportStuck (markStuck s t 1 e) t clsMajor) t)

/-- RETIRE_STUCK_CRITICAL: a further T_ret later (R103). -/
def execRetireStuckCritical (tf : Fin 4) (s : State) : Result :=
  let t := tf.val
  match liveEd s t with
  | none => .next s
  | some e => if e.stuck != 1 || s.clk < e.stuckAt + retireTime s e then .next s else .next (reportStuck (markStuck s t 2 e) t clsCritical)

/-! ### Status (R55, R56, R109) -/

/-- One record of EDITION_STATUS (R109). -/
def editionRecord (s : State) (t : Nat) : List Byte :=
  match liveEd s t with
  | none => leBytes 16 0
  | some e =>
    let st := if e.superAt.isNone then 1 else if e.stuck = 0 then 2 else 3
    leBytes 4 e.serial ++ leBytes 1 st ++ leBytes 1 (b2n e.prog) ++ leBytes 2 0 ++ leBytes 4 (tagCount s 0 t + tagCount s 1 t)
      ++ leBytes 4 (min ((s.clk - e.actAt) / usCycles) 0xFFFFFFFF)

/-- EDITION_STATUS (R109). -/
def execEditionStatus (h : CmdHdr) (ps : List Byte) (s : State) : Result :=
  hostCmdN s h 0x0305 0 ps 0 fun s => answer s ((List.range 4).flatMap (editionRecord s))

/-- The payload of CONTRACT_QUERY (R56). -/
def contractPayload (s : State) (e : Live) (k : Nat) (f : Figs) : List Byte :=
  let h := hfOf f.half
  leBytes 4 e.serial ++ leBytes 2 k ++ leBytes 1 f.half ++ leBytes 1 (boundState s h + 2 * (boundReason s h % 16))
    ++ ([f.bound, f.maxBound, f.tIn, f.tDispatch, f.tGraph, f.tOrder, f.tRelease, f.tQueue, f.tEgress, f.tReentry, f.tAllowance,
         f.serialisation].flatMap (leBytes 4))
    ++ leBytes 1 f.queuePort ++ leBytes 1 f.queue ++ leBytes 2 0
    ++ [f.slotDemand, f.slotCapacity, f.threadDemand, f.threadCapacity, f.ownerMinimum].flatMap (leBytes 4)

/-- CONTRACT_QUERY (R55). -/
def execContractQuery (h : CmdHdr) (ps : List Byte) (s : State) : Result :=
  hostCmdN s h 0x0306 0 ps 8 fun s =>
    let serial := leAt ps 0 4
    let k := leAt ps 4 2
    let ed := if serial = 0 then newestEd s else ((liveEds s).map (·.2)).find? fun e => e.serial = serial
    if leAt ps 6 2 != 0 then refuse s stBadParam
    else match ed with
      | none => refuse s stEditionState
      | some e => match sget none e.figs k with
        | none => refuse s stBadParam
        | some f => answer s (contractPayload s e k f)

end Sys2Proof.Machine
end

