-- ==== Sys2Proof/Machine/LoadStore.lean ====
section
/-! DEFINITION. Loads, stores, CPY and ATOM (R158, R164 to R166), and the accesses of threads to their control registers and to the lock
bank (R148, R256). -/

namespace Sys2Proof.Machine

/-- The short form has a 4-bit offset and no post-increment (R158). -/
def shortOffBad (f : Form) (off : BitVec 12) (pi : Bool) : Bool := f = .short && (pi || 16 ≤ off.toNat)

/-- A load of `w` bytes into rd, with post-increment of rs (R164). -/
def loadOp (s : State) (t : Tid) (p : Guard) (f : Form) (rd rs : BitVec 4) (off : BitVec 12) (pi : Bool) (w : Nat)
    (ext : Nat → Word) : Result :=
  let k := t.stn.val
  issue s t p (shortBad f p [rd, rs] || shortOffBad f off pi || (pi && rd = rs)) (formBytes f) fun s =>
    let base := (getThr s k (tlane t)).reg rs
    let a := effAddr f w base off
    match tload (orderStores s k (tlane t) a) k (tlane t) a w with
    | .error i => .error i
    | .ok (v, s) => .ok (modThr (noteAccess s k (tlane t) (rangeLatency a)) k (tlane t) fun th =>
        let th := th.setReg rd (ext v)
        if pi then th.setReg rs (postInc base w) else th)

/-- A store of the low `w` bytes of rd, with post-increment of rs (R164). -/
def storeOp (s : State) (t : Tid) (p : Guard) (f : Form) (rd rs : BitVec 4) (off : BitVec 12) (pi : Bool) (w : Nat) : Result :=
  let k := t.stn.val
  issue s t p (shortBad f p [rd, rs] || shortOffBad f off pi) (formBytes f) fun s =>
    let th := getThr s k (tlane t)
    let a := effAddr f w (th.reg rs) off
    match tstore (orderStores s k (tlane t) a) k (tlane t) a w (th.reg rd).toNat with
    | .error i => .error i
    | .ok s =>
      let s := noteAccess s k (tlane t) (rangeLatency a)
      .ok (if pi then modThr s k (tlane t) fun x => x.setReg rs (postInc (th.reg rs) w) else s)

/-- Zero extension of a loaded value. -/
def zextLoad (v : Nat) : Word := BitVec.ofNat 32 v

/-- Sign extension of a loaded value of `w` bytes. -/
def sextLoad (w v : Nat) : Word := (BitVec.ofNat (8 * w) v).signExtend 32

/-- LDB (R158, R164). -/
def execLdb (t : Tid) (p : Guard) (f : Form) (rd rs : BitVec 4) (off : BitVec 12) (pi : Bool) (s : State) : Result :=
  loadOp s t p f rd rs off pi 1 zextLoad

/-- LDH. -/
def execLdh (t : Tid) (p : Guard) (rd rs : BitVec 4) (off : BitVec 12) (pi : Bool) (s : State) : Result :=
  loadOp s t p .long rd rs off pi 2 zextLoad

/-- LDW. -/
def execLdw (t : Tid) (p : Guard) (f : Form) (rd rs : BitVec 4) (off : BitVec 12) (pi : Bool) (s : State) : Result :=
  loadOp s t p f rd rs off pi 4 zextLoad

/-- LDBS. -/
def execLdbs (t : Tid) (p : Guard) (rd rs : BitVec 4) (off : BitVec 12) (pi : Bool) (s : State) : Result :=
  loadOp s t p .long rd rs off pi 1 (sextLoad 1)

/-- LDHS. -/
def execLdhs (t : Tid) (p : Guard) (rd rs : BitVec 4) (off : BitVec 12) (pi : Bool) (s : State) : Result :=
  loadOp s t p .long rd rs off pi 2 (sextLoad 2)

/-- STB. -/
def execStb (t : Tid) (p : Guard) (f : Form) (rd rs : BitVec 4) (off : BitVec 12) (pi : Bool) (s : State) : Result :=
  storeOp s t p f rd rs off pi 1

/-- STH. -/
def execSth (t : Tid) (p : Guard) (rd rs : BitVec 4) (off : BitVec 12) (pi : Bool) (s : State) : Result :=
  storeOp s t p .long rd rs off pi 2

/-- STW. -/
def execStw (t : Tid) (p : Guard) (f : Form) (rd rs : BitVec 4) (off : BitVec 12) (pi : Bool) (s : State) : Result :=
  storeOp s t p f rd rs off pi 4

/-- Adds a width to a register (R165); one register named twice is added to twice (DEDUCED, log entry 14). -/
def addReg (th : Thread) (r : BitVec 4) (w : Nat) : Thread := th.setReg r (th.reg r + BitVec.ofNat 32 w)

/-- A store may act later than its commit: station memory, lock words and table memory (R165). -/
def storesLater (a : Nat) : Bool :=
  match rangeOf a with
  | .scratch | .flow | .shared | .locks | .aperture => true
  | _ => false

/-- The copy of one datum (R165): the load, and the store at the source range's latency after issue. -/
def cpyBody (s : State) (k lane : Nat) (gD gS : BitVec 4) (w : Nat) : Effects :=
  let th := getThr s k lane
  let src := (th.reg gS).toNat % 2 ^ 16
  let dst := (th.reg gD).toNat % 2 ^ 16
  let n := rangeLatency src - commitCycles
  match tload (orderStores s k lane src) k lane src w with
  | .error i => .error i
  | .ok (v, s) =>
    let s := orderStores s k lane dst
    match tstore s k lane dst w v with
    | .error i => .error i
    | .ok now =>
      let s := if storesLater dst && 0 < n then laterStore s k lane dst w v n else now
      let s := noteAccess s k lane (rangeLatency src)
      .ok (modThr s k lane fun x => addReg (addReg x gD w) gS w)

/-- CPY (R165). -/
def execCpy (t : Tid) (p : Guard) (gD gS : BitVec 4) (size : BitVec 2) (s : State) : Result :=
  issue s t p (sizeBytes size).isNone 4 fun s => cpyBody s t.stn.val (tlane t) gD gS ((sizeBytes size).getD 1)

/-- ATOM on a word of shared data or of the table aperture: rd receives the old value, and `f` the new one, none when memory is left
(R166, R263). -/
def atomOp (s : State) (t : Tid) (p : Guard) (rd ra : BitVec 4) (f : Thread → Word → Option Word) : Result :=
  let k := t.stn.val
  let lane := tlane t
  issue s t p false 4 fun s =>
    let th := getThr s k lane
    let a := (th.reg ra).toNat % 2 ^ 16
    if (rangeOf a != .shared && rangeOf a != .aperture) || a % 4 != 0 then .error (trapAddress a)
    else if rangeOf a = .aperture && regionOf (apertureAddr th a) != .general then .error (trapAddress a)
    else
      match tload (orderStores s k lane a) k lane a 4 with
      | .error i => .error i
      | .ok (old, s) =>
        let s := noteAccess s k lane (if rangeOf a = .shared then 10 else 16)
        let set (s : State) : State := modThr s k lane fun x => x.setReg rd (BitVec.ofNat 32 old)
        match f th (BitVec.ofNat 32 old) with
        | none => .ok (set s)
        | some v =>
          match tstore s k lane a 4 v.toNat with
          | .error i => .error i
          | .ok s => .ok (set s)

/-- ATOM.FADD. -/
def execAtomFadd (t : Tid) (p : Guard) (rd ra rt : BitVec 4) (s : State) : Result :=
  atomOp s t p rd ra fun th old => some (old + th.reg rt)

/-- ATOM.SWAP. -/
def execAtomSwap (t : Tid) (p : Guard) (rd ra rt : BitVec 4) (s : State) : Result :=
  atomOp s t p rd ra fun th _ => some (th.reg rt)

/-- ATOM.CAS. -/
def execAtomCas (t : Tid) (p : Guard) (rd ra rt : BitVec 4) (s : State) : Result :=
  atomOp s t p rd ra fun th old => if old = th.reg rd then some (th.reg rt) else none

/-! ### Register accesses of threads (R148) -/

/-- A store of FCLR by the running thread: writing 1 to bit n clears event flag n (R148). -/
def execFclrWrite (t : Tid) (v : BitVec 16) (s : State) : Result :=
  if runsOn (getStn s t.stn.val) (tlane t) then .next (ctlWrite s t.stn.val (tlane t) 0x0E v) else .next s

/-- A read of NOW_LO into rd latches NOW_HI (R148). -/
def execNowLoRead (t : Tid) (rd : BitVec 4) (s : State) : Result :=
  let k := t.stn.val
  if runsOn (getStn s k) (tlane t) then
    let v := BitVec.ofNat 32 (nowStamp s)
    .next (modThr (latchNow s k (tlane t)) k (tlane t) fun th => th.setReg rd v)
  else .next s

/-- A 16-bit store to a thread control register; one that R148 does not allow raises ADDRESS. -/
def execThreadRegWrite (t : Tid) (off : BitVec 8) (v : BitVec 16) (s : State) : Result :=
  let k := t.stn.val
  if runsOn (getStn s k) (tlane t) then
    if ctlWritable off.toNat then .next (ctlWrite s k (tlane t) off.toNat v)
    else .next (takeTrap s k (tlane t) (trapAddress (0xF000 + off.toNat)))
  else .next s

/-! ### Accesses to the lock bank by any master (R255, R256) -/

/-- A write of a lock word by a master: a thread that is refused by the mask raises ADDRESS, one that breaks the protocol LOCK; another
master's refusal is the status of its command, and here nothing changes. -/
def lockAccess (s : State) (m : BitVec 12) (group word : Fin 64) (v : Nat) : State :=
  let m := m.toNat
  let w := group.val * 64 + word.val
  let k := m / 128
  let lane := m % 128
  let thread := m < 0x880 && lane < 96
  let allowed := lockPermitted s m group.val || lockAlways s m w v
  if thread && !runsOn (getStn s k) lane then s
  else if !allowed then
    if thread then takeTrap s k lane (trapAddress (0xE000 + 2 * word.val)) else s
  else
    let refused := thread && lockRefused s k lane w v
    match lockWrite s m w v (getThr s k lane).task refused with
    | (s', .done) => s'
    | (_, .bad) => if thread then takeTrap s k lane trapLock else s

/-- Acquire: the master writes its identity (R256). -/
def execLockAcquire (m : BitVec 12) (group word : Fin 64) (s : State) : Result := .next (lockAccess s m group word m.toNat)

/-- Clear ABANDONED: the master writes 0x4000 | m (R256). -/
def execLockClearAbandoned (m : BitVec 12) (group word : Fin 64) (s : State) : Result :=
  .next (lockAccess s m group word (0x4000 ||| m.toNat))

/-- Release: the master writes 0x0000 (R256). -/
def execLockRelease (m : BitVec 12) (group word : Fin 64) (s : State) : Result := .next (lockAccess s m group word 0)

end Sys2Proof.Machine
end

