-- ==== Sys2Proof/Machine/ParamCmds.lean ====
section
/-! DEFINITION. PARAM_GET and PARAM_SET (R89, R101, R411): what each parameter reads as, what its setting does, and when a setting is
refused. -/

namespace Sys2Proof.Machine

/-- The parameter ID names the same parameter as `base`, which has instance 0. -/
def isParam (base id : Nat) : Bool := id / 2 ^ 24 = base / 2 ^ 24 && id % 256 = base % 256

/-! ### Reading (R411) -/

/-- Length of a gate list's record (R311, R336; log entry 16). -/
def listLen (r : Nat) : Nat := 16 + 8 * bitsOf r 112 16

/-- `hbm.layout`: sizes in force in MiB, and the map of healthy channels (R371; log entry 43). -/
def hbmLayout (s : State) : Nat :=
  s.hbm.deep * 512 + s.hbm.capture * 512 * 2 ^ 32 + s.hbm.host * 512 * 2 ^ 64 + s.hbm.healthy.toNat * 2 ^ 96

/-- Read-only parameters that show state of the device, with the index list of the name; none for those kept as parameters. -/
def shownValue (s : State) (id : Nat) (ix : List Nat) : Option Nat :=
  let a := ix.headD 0
  let b := ix.getD 1 0
  if isParam pidHostGpioIn id then some (gpioIn s)
  else if isParam (pidBoundHalfState 0) id then some (boundState s (hfOf a))
  else if isParam (pidBoundHalfReason 0) id then some (boundReason s (hfOf a))
  else if isParam (pidEditionHalfTagCount 0 0) id then some (tagCount s a b)
  else if isParam (pidStnSRole 0) id then some (getStn s a).role
  else if isParam (pidStnSState 0) id then some (getStn s a).st
  else if isParam (pidStnSHalted 0) id then some (b2n (getStn s a).halted)
  else if isParam (pidHlpEmuCost 0) id then some (Config.emuCost a).toNat
  else if isParam (pidOrdWestNext 0) id then some (sget 0 s.west.next a)
  else if isParam (pidOrdEastNext 0) id then some (sget 0 s.east.next a)
  else if isParam (pidChanHalfChDepth 0 0) id then some (getChan s a b).pub.length
  else if isParam (pidTblPartKind 0) id then some (pget s (pidTblPart a) % 256)
  else if isParam (pidTblPartKeyLen 0) id then some (bitsOf (pget s (pidTblPart a)) 8 8)
  else if isParam (pidTblPartBase 0) id then some (bitsOf (pget s (pidTblPart a)) 32 32)
  else if isParam (pidTblPartSize 0) id then some (bitsOf (pget s (pidTblPart a)) 64 32)
  else if isParam pidLpmRoutes4 id then some (routeCount s 4)
  else if isParam pidLpmRoutes6 id then some (routeCount s 6)
  else if isParam (pidBufOwnerMin 0) id then some (acctMin s a)
  else if isParam (pidBufOwnerUsed 0) id then some (acctUsed s a)
  else if isParam pidBufInternalUsed id then some (acctUsed s 64)
  else if isParam pidBufFree id then some (freeFolios s)
  else if isParam pidBufShared id then some (ofSigned 32 (sharedFolios s))
  else if isParam (pidTimePortRxLatency 0) id then some (rxLat a)
  else if isParam (pidTimePortTxLatency 0) id then some (txLat a)
  else if id = pidPtpDomain then some (ptpDomain s)
  else if isParam pidTimeState id then some s.datum.st
  else if isParam pidTimeValid id then some (b2n s.datum.valid)
  else if isParam pidTimePpsInLast id then some (leNat (timeRecord s.datum.ppsInLast))
  else if isParam pidHbmLayout id then some (hbmLayout s)
  else if isParam pidIntegLogHead id then some s.store.logHead
  else if isParam pidIntegLogSeq id then some s.store.logSeq
  else none

/-- Fields of a policer (R312, R313). -/
def polField (p : Policer) (id : Nat) : Option Nat :=
  if isParam (pidPolPEnable 0) id then some (b2n p.enable)
  else if isParam (pidPolPMode 0) id then some p.mode
  else if isParam (pidPolPRate 0) id then some p.rate
  else if isParam (pidPolPBurst 0) id then some p.burst
  else if isParam (pidPolPAction 0) id then some p.action
  else if isParam (pidPolPConform 0) id then some p.conform
  else if isParam (pidPolPExceed 0) id then some p.exceed
  else none

/-- The value of a device parameter or counter as PARAM_GET gives it. -/
def paramBytes (s : State) (id : Nat) (p : PSpec) (ix : List Nat) : List Byte :=
  if isParam (pidCryptoKey 0) id then leBytes 1 (pget s id)
  else if isParam (pidTmQShaper 0 0) id then shaperBytes s (shaperKey (ix.headD 0) (ix.getD 1 0))
  else if isParam (pidTmPortShaper 0) id then shaperBytes s (shaperKey (ix.headD 0) 16)
  else if p.len = 0 then leBytes (listLen (pget s id)) (pget s id)
  else if persistentIds.contains id then leBytes p.len (bankGet s id)
  else match shownValue s id ix, polField (getPol s (ix.headD 0)) id with
    | some v, _ => leBytes p.len v
    | none, some v => leBytes p.len v
    | none, none => leBytes p.len (pget s id)

/-- A read of an RC parameter clears it (R10, R313, R411). -/
def clearParam (s : State) (id : Nat) (ix : List Nat) : State :=
  if isParam (pidPolPConform 0) id then modPol s (ix.headD 0) fun p => { p with conform := 0 }
  else if isParam (pidPolPExceed 0) id then modPol s (ix.headD 0) fun p => { p with exceed := 0 }
  else pset s id (preset id)

/-- One entry of PARAM_GET: the state after it, its status and its value (R89, R411). -/
def getOne (s : State) (id : Nat) : State × Nat × List Byte :=
  match pinfo id with
  | none => (s, stBadParam, [])
  | some (p, ix) =>
    match p.scope with
    | .ed => match newestEd s with
      | none => (s, stEditionState, [])
      | some e => (s, stOk, leBytes p.len (e.get id))
    | .rc => (clearParam s id ix, stOk, paramBytes s id p ix)
    | _ => (s, stOk, paramBytes s id p ix)

/-- A Get reply entry (R411). -/
def getEntry (id st : Nat) (v : List Byte) : List Byte := leBytes 4 id ++ leBytes 2 st ++ leBytes 2 v.length ++ padTo v 4

/-- Every entry of PARAM_GET in order: the state, the first failure, the reply. -/
def getAll (s : State) (ids : List Nat) : State × Nat × List Byte :=
  match ids with
  | [] => (s, stOk, [])
  | id :: rest =>
    let a := getOne s id
    let b := getAll a.1 rest
    (b.1, if a.2.1 = stOk then b.2.1 else a.2.1, getEntry id a.2.1 a.2.2 ++ b.2.2)

/-- PARAM_GET (R411). -/
def execParamGet (h : CmdHdr) (ps : List Byte) (s : State) : Result :=
  hostCmd s h 0x0200 0 fun s =>
    let n := ps.length / 4
    if ps.length % 4 != 0 || n = 0 || 64 < n then refuse s stBadParam
    else
      let r := getAll s ((List.range n).map fun i => leAt ps (4 * i) 4)
      (r.1, some (r.2.1, r.2.2))

/-! ### The form of a setting (R5, R9, R411) -/

def powerOfTwo (n : Nat) : Bool := n != 0 && 2 ^ Nat.log2 n = n

/-- A key record (R200). -/
def keyRecordOk (r : Nat) : Bool :=
  let n := bitsOf r 8 8
  (match r % 256 with
   | 0 => n = 0
   | 1 => n = 16
   | 2 => n = 32
   | 3 => 1 ≤ n && n ≤ 64
   | _ => false) && bitsOf r (16 + 8 * n) (8 * (64 - n)) = 0

/-- A shaper record (R333). -/
def shaperRecordOk (r : Nat) : Bool :=
  bitsOf r 0 32 ≤ 800000000 && 64 ≤ bitsOf r 32 32 && bitsOf r 32 32 ≤ 16777215 && r / 2 ^ 66 = 0

/-- A partition record (R277): its own limits. -/
def partRecordOk (r : Nat) : Bool :=
  let k := r % 256
  let key := bitsOf r 8 8
  let base := bitsOf r 32 32
  let size := bitsOf r 64 32
  bitsOf r 16 16 = 0 && bitsOf r 96 32 = 0
    && (match k with
        | 0 => key = 0
        | 1 => 4 ≤ key && key ≤ 32 && powerOfTwo size && 1024 ≤ size && size ≤ 131072 && base % size = 0 && base + size ≤ 131072
        | 2 => key = 0 && 1 ≤ size && base + size ≤ 196608
        | _ => false)

/-- A stream-gate record (R311; log entry 16). -/
def sgateRecordOk (r n : Nat) : Bool :=
  let g := gateOfRecord r
  n = listLen r && 1 ≤ g.ents.length && g.ents.length ≤ 64 && 0 < g.cycle && bitsOf r 80 32 < 10 ^ 9 && gateSums g
    && g.ents.all fun e => e.val % 256 ≤ 1 && e.val < 2 ^ 12

/-- A gate-control list (R336). -/
def gclRecordOk (r n : Nat) : Bool :=
  let g := gclOfRecord r
  n = listLen r && 1 ≤ g.ents.length && g.ents.length ≤ 256 && 1000 ≤ g.cycle && g.cycle ≤ 10 ^ 9 && bitsOf r 48 32 < 10 ^ 9 && gateSums g
    && g.ents.all fun e => 64 ≤ e.ns && e.val < 2 ^ 18 && gateOp e != 3

/-- Length, range and fields of a device parameter's value; preemption settings exist for ports 16 to 31 (R4, R338). -/
def deviceForm (id : Nat) (p : PSpec) (ix : List Nat) (bs : List Byte) : Bool :=
  let v := leNat bs
  if isParam (pidTblSgate 0) id then sgateRecordOk v bs.length
  else if isParam (pidTmGcl 0) id then gclRecordOk v bs.length
  else inForm p bs &&
    (if isParam (pidCryptoKey 0) id then keyRecordOk v
     else if isParam (pidTmQShaper 0 0) id || isParam (pidTmPortShaper 0) id then shaperRecordOk v
     else if isParam (pidTblPart 0) id then partRecordOk v
     else if isParam (pidLockGroupMask 0) id then bitsOf v 21 10 = 0
     else if isParam pidParseTpidExtra id then v = 0 || 0x600 ≤ v
     else if isParam (pidExcReasonCapture 0) id then v < 64 || v = 0xFF
     else if isParam (pidCapRuleTrunc 0) id then v = 0 || 64 ≤ v
     else if isParam (pidMacPortPreempt 0) id || isParam (pidMacPortPreemptVerify 0) id || isParam (pidMacPortVerifyMs 0) id then 16 ≤ ix.headD 0
     else if isParam pidTblPeerPort id then v < 32 || v = 0x3F
     else if isParam (pidTimeSynceLane 0) id then v < 32 || v = 0xFF
     else if isParam (pidHostTxringBase 0) id || isParam (pidHostRxringBase 0) id then v % 4096 = 0
     else if isParam (pidHostTxringEntries 0) id || isParam (pidHostRxringEntries 0) id then powerOfTwo v
     else if isParam (pidHostRxringBufLen 0) id then v % 64 = 0
     else true)

/-! ### The effect of a setting -/

/-- Now in ns, as a stamp has it. -/
def nowNs (s : State) : Nat := stampNs (nowStamp s)

/-- A policer after a setting: enabling it, or a change of mode while it is enabled, fills it; tokens are clipped to a new burst; the
remainder is cleared by enabling and by any change of mode, rate or burst (R312, R313). -/
def setPolicer (s : State) (id v : Nat) (p : Policer) : Policer :=
  let q : Policer :=
    if isParam (pidPolPEnable 0) id then { p with enable := v = 1 }
    else if isParam (pidPolPMode 0) id then { p with mode := v }
    else if isParam (pidPolPRate 0) id then { p with rate := v }
    else if isParam (pidPolPBurst 0) id then { p with burst := v }
    else { p with action := v }
  let fresh := q.enable && (!p.enable || p.mode != q.mode)
  let moved := p.mode != q.mode || p.rate != q.rate || p.burst != q.burst
  let q := if fresh then { q with tokens := q.burst * 65536, last := nowStamp s } else { q with tokens := min q.tokens (q.burst * 65536) }
  if fresh || moved then { q with remainder := 0 } else q

/-- The exception bucket is brought to the present before its rate or burst changes, and clipped to a new burst (R84, R86). -/
def setBucket (s : State) (id v r : Nat) : State :=
  let t := excTokensNow s r
  let cap := if isParam (pidExcReasonBurst 0) id then v * oneToken else t
  pset (setExcTokens s r (min t cap)) id v

/-- A change of a sweep time keeps the time of the next visit (R292, R310). -/
def rebase (at' : Int) (i old new entries : Nat) : Int :=
  at' + (i * (old * msCycles) / entries : Nat) - (i * (new * msCycles) / entries : Nat)

def setMacSweep (s : State) (v : Nat) : State :=
  let old := pget s pidTblMacSweepMs
  pset { s with tbl := { s.tbl with macSweepAt := rebase s.tbl.macSweepAt s.tbl.macSweep old v 524288 } } pidTblMacSweepMs v

def setStreamSweep (s : State) (v : Nat) : State :=
  let old := pget s pidTblStreamSweepMs
  let move (m : Sparse Int) (k : Nat) : Sparse Int := sset 0 m k (rebase (sget 0 m k) (sget 0 s.tbl.strSweep k) old v 65536)
  pset { s with tbl := { s.tbl with strSweepAt := move (move s.tbl.strSweepAt 0) 1 } } pidTblStreamSweepMs v

/-- A new stream-gate list takes effect at its first cycle start after now (R311). -/
def setSgate (s : State) (id v i : Nat) : State :=
  let t := nowNs s
  let old := if t < sget 0 s.tbl.sgateAt i then sget 0 s.tbl.sgateOld i else pget s id
  pset { s with tbl := { s.tbl with
    sgateOld := sset 0 s.tbl.sgateOld i old, sgateAt := sset 0 s.tbl.sgateAt i (nextCycleStart (gateOfRecord v) t) } } id v

/-- A packet ring that becomes enabled starts at index 0 (R416, R417). -/
def enableTx (s : State) (id v n : Nat) : State :=
  let s := if v = 1 && pget s id = 0 then { s with host := { s.host with txRings := sset {} s.host.txRings n {} } } else s
  pset s id v

def enableRx (s : State) (id v n : Nat) : State :=
  let s := if v = 1 && pget s id = 0 then { s with host := { s.host with rxRings := sset {} s.host.rxRings n {} } } else s
  settleAttn (pset s id v)

/-- Preemption of a port is switched on, or its verification: verification is pending (R338, R339). -/
def setPreempt (s : State) (id v p : Nat) : State := modPort (pset s id v) p fun x => { x with verify := 0 }

/-- A SyncE output takes a lane: off, or without a link, it is squelched; when the lane has its lock, a squelched output starts its hold-off
(R363). -/
def setLane (s : State) (id v k : Nat) : State :=
  let s := pset s id v
  if v < 32 && (getPort s (lanePort v)).link then synceReturn s v else squelchOut s k

/-- Sets a device parameter. -/
def applyParam (s : State) (id : Nat) (ix : List Nat) (v : Nat) : State :=
  let a := ix.headD 0
  if isParam (pidTmQShaper 0 0) id then setShaper s (shaperKey a (ix.getD 1 0)) (bitsOf v 0 32) (bitsOf v 32 32) (bitOf v 64) (bitOf v 65)
  else if isParam (pidTmPortShaper 0) id then setShaper s (shaperKey a 16) (bitsOf v 0 32) (bitsOf v 32 32) (bitOf v 64) (bitOf v 65)
  else if (polField {} id).isSome then modPol s a (setPolicer s id v)
  else if isParam (pidExcReasonRate 0) id || isParam (pidExcReasonBurst 0) id then setBucket s id v a
  else if isParam pidTblMacSweepMs id then setMacSweep s v
  else if isParam pidTblStreamSweepMs id then setStreamSweep s v
  else if isParam (pidTblSgate 0) id then setSgate s id v a
  else if isParam (pidHostTxringEnable 0) id then enableTx s id v a
  else if isParam (pidHostRxringEnable 0) id then enableRx s id v a
  else if isParam (pidMacPortPreempt 0) id || isParam (pidMacPortPreemptVerify 0) id then setPreempt s id v a
  else if isParam (pidTimeSynceLane 0) id then setLane s id v a
  else if id = pidBoundSlewAllowance then recheckSlew (pset s id v)
  else if id = pidPtpDomain then { s with datum := { s.datum with domain := some v } }
  else if isParam (pidLockGroupMask 0) id then pset s id (putBits v 19 1 1)
  else if id = pidFwHealthWindowS || id = pidSvcMac then pset (bankSet s id v) id v
  else if persistentIds.contains id then bankSet s id v
  else if isParam (pidBufOwnerFloor 0) id then lowerFloor (pset s id v) a
  else if id = pidBufInternalMin then lowerFloor (pset s id v) 64
  else pset s id v

/-! ### What a setting is refused for -/

/-- A device parameter that an admission or bound term, or a structural condition of a contract, reads (R36, R101, R313, R326, R335,
R384). -/
def boundReads (id : Nat) : Bool :=
  (polField {} id).isSome || [pidTmQMode 0 0, pidTmQLimit 0 0, pidTmQShaper 0 0, pidTmPortShaper 0, pidTmQFanout 0 0, pidTmQExpress 0 0, pidTmQDeep 0 0,
    pidMacPortMaxFrame 0, pidMacPortPreempt 0, pidTmPortOverhead 0, pidTmGcl 0, pidBufMap 0 0, pidBufOwnerFloor 0, pidBufOwnerMax 0,
    pidBufReserveLimit, pidBufInternalMin, pidEgrPortRedMode 0, pidEgrPortRedPartner 0, pidCapRuleEnable 0, pidCapRuleQueue 0,
    pidBoundSlewAllowance, pidTblPart 0].any fun b => isParam b id

/-- The bound of a contract in an evaluation, none when unbounded. -/
def Eval.boundOf (v : Eval) (k : Nat) : Option Nat := (v.cons.find? fun c => c.new && c.k = k).bind (·.bound)

/-- A contract's bound after the setting is larger than its bound of the commit and than its bound before the setting (R101). -/
def boundGrows (v0 v1 : Eval) (kf : Nat × Figs) : Bool :=
  match v0.boundOf kf.1, v1.boundOf kf.1 with
  | some a, some b => max a kf.2.bound < b
  | some _, none => true
  | none, _ => false

/-- A live edition that a setting breaks: a structural condition, a term, or a bound (R101, R313, R326, R335). -/
def breaksEdition (s0 s1 : State) (eds : List (Nat × Live)) (te : Nat × Live) : Bool :=
  let others := (eds.filter fun x => x.1 != te.1).map (·.2)
  let v0 := evaluate s0 others te.2
  let v1 := evaluate s1 others te.2
  (deviceFits s0 (te.2 :: others) te.2 && !deviceFits s1 (te.2 :: others) te.2)
    || ((v0.terms.zip v1.terms).any fun t => !t.1.fails && t.2.fails)
    || (spresent te.2.figs).any (boundGrows v0 v1)

/-- The sum of the owner minima would lie above the reserve limit (R323). -/
def minimaOver (s : State) : Bool := pget s pidBufReserveLimit < ((List.range 64).map (acctWant s)).sum

/-- A setting that R101 refuses. -/
def breaksBounds (s0 s1 : State) : Bool :=
  let eds := liveEds s0
  (!minimaOver s0 && minimaOver s1) || eds.any (breaksEdition s0 s1 eds)

/-- Two partitions of one kind overlap (R277). -/
def partsOverlap (s : State) : Bool :=
  let parts := (List.range 64).filterMap fun n => if 5 ≤ n && (partInfo s n).kind != .none then some (partInfo s n) else none
  (List.range parts.length).any fun i => (List.range i).any fun j =>
    let x := parts.getD i {}
    let y := parts.getD j {}
    x.kind = y.kind && x.base < y.base + y.size && y.base < x.base + x.size

/-- A live edition binds a partition (R277). -/
def partBound (s : State) (n : Nat) : Bool :=
  (liveEds s).any fun te => (List.range 256).any fun g => (List.range 16).any fun t => te.2.get (pidTblBind g t) = n

/-- A live edition binds a gate list to a port (R336). -/
def gclBound (s : State) (n : Nat) : Bool := (liveEds s).any fun te => (List.range 32).any fun p => te.2.get (pidTmPortGcl p) = n

/-- The rates and bursts of an enabled policer (R312). -/
def policerOk (p : Policer) : Bool :=
  !p.enable || (if p.mode = 0 then p.rate ≤ 1490000000 && p.burst ≤ 4096 else p.rate ≤ 800000000 && 64 ≤ p.burst)

/-- Redundancy partners (R343): a port with a mode and its partner name each other; the partner has the other letter of the protocol, or no
mode yet (log entry 44). -/
def partnersOk (s : State) : Bool :=
  (List.range 32).all fun p =>
    let m := redMode s p
    let q := pget s (pidEgrPortRedPartner p)
    m = 0 || (q != p && pget s (pidEgrPortRedPartner q) = p && (redMode s q = 0 || redMode s q = if m % 2 = 1 then m + 1 else m - 1))

/-- The edges of the histogram ascend (R347). -/
def edgesOk (s : State) : Bool := (List.range 14).all fun b => pget s (pidTmHistEdge b) < pget s (pidTmHistEdge (b + 1))

/-- A receive ring can hold the longest frame (R417). -/
def rxRingOk (s : State) (n : Nat) : Bool := ceilDiv 9212 (pget s (pidHostRxringBufLen n)) + 1 ≤ pget s (pidHostRxringEntries n)

/-- Every quantum of a line port holds the counted length of the port's `max_frame` (R330). -/
def quantaOk (s : State) (p : Nat) : Bool :=
  32 ≤ p || (List.range 16).all fun q => countedLen s p (pget s (pidMacPortMaxFrame p)) ≤ pget s (pidTmQQuantum p q)

/-- No logical learning port has more than two members (R288). -/
def groupsOk (s : State) : Bool :=
  (List.range 32).all fun g => ((List.range 32).filter fun p => pget s (pidTblLearnPortLogical p) = g).length ≤ 2

/-- What a setting may not leave behind: the conditions on several parameters together. -/
def togetherOk (s : State) (id : Nat) (ix : List Nat) : Bool :=
  let a := ix.headD 0
  if isParam (pidTblPart 0) id then !partsOverlap s
  else if (polField {} id).isSome then policerOk (getPol s a)
  else if isParam pidTblMacAgeLimit id || isParam pidTblAgeTickMs id || isParam pidTblMacSweepMs id then
    pget s pidTblMacAgeLimit + ceilDiv (pget s pidTblMacSweepMs) (pget s pidTblAgeTickMs) ≤ 4095
  else if isParam (pidTmQMode 0 0) id then ((List.range 16).filter (isStrict s a)).length ≤ 4
  else if isParam (pidTmQQuantum 0 0) id || isParam (pidMacPortMaxFrame 0) id || isParam (pidTmPortOverhead 0) id then quantaOk s a
  else if isParam (pidTblLearnPortLogical 0) id then groupsOk s
  else if isParam (pidEgrPortRedMode 0) id || isParam (pidEgrPortRedPartner 0) id then partnersOk s
  else if isParam (pidTmHistEdge 0) id then edgesOk s
  else if isParam (pidHostRxringEntries 0) id || isParam (pidHostRxringBufLen 0) id || isParam (pidHostRxringEnable 0) id then rxRingOk s a
  else if isParam (pidBufOwnerFloor 0) id || isParam (pidBufOwnerMax 0) id then acctWant s a ≤ acctMax s a
  else if isParam pidBufReserveLimit id || isParam pidBufInternalMin id then
    pget s pidBufReserveLimit + pget s pidBufInternalMin ≤ 389120
  else if id = pidHbmDeepGib || id = pidHbmCaptureGib then bankGet s pidHbmDeepGib + bankGet s pidHbmCaptureGib ≤ 23
  else true

/-- A setting that is answered ST_BUSY (R101, R277, R280, R336). -/
def settingBusy (s : State) (id : Nat) (ix : List Nat) : Bool :=
  let a := ix.headD 0
  (s.ed.wait.isSome && boundReads id) || (isParam (pidTblPart 0) id && partBound s a) || (isParam (pidTmGcl 0) id && gclBound s a)
    || (isParam (pidTblWayKey 0) id && s.ed.committed)

/-- The allowance may not exceed the one of a live edition's commit (R57); other parameters are evaluated anew (R101). -/
def settingBreaks (s0 s1 : State) (id v : Nat) : Bool :=
  if id = pidBoundSlewAllowance then (liveEds s0).any fun te => te.2.slew < v
  else boundReads id && breaksBounds s0 s1

/-- One entry of PARAM_SET (R411). -/
def setOne (s : State) (id : Nat) (bs : List Byte) : Answer :=
  match pinfo id with
  | none => refuse s stBadParam
  | some (p, ix) =>
    if p.scope != .dev || !deviceForm id p ix bs then refuse s stBadParam
    else
      let v := leNat bs
      let s1 := applyParam s id ix v
      if !togetherOk s1 id ix then refuse s stBadParam
      else if settingBusy s id ix then refuse s stBusy
      else if settingBreaks s s1 id v then refuse s stBoundExceeded
      else (s1, none)

/-- PARAM_SET (R411). -/
def execParamSet (h : CmdHdr) (ps : List Byte) (s : State) : Result := hostCmd s h 0x0201 0 fun s => setCommand setOne s ps

end Sys2Proof.Machine
end

