-- ==== Sys2Proof/Machine/Window.lean ====
section
/-! DEFINITION. The table window and its lock protocol (R296 to R299), the repairs of the Registrar (R82, R281), and the commands of group
0x04 (R295, R301, R410). -/

namespace Sys2Proof.Machine

/-! ### A write of four bytes through the window (R276, R296, R297) -/

/-- What the window allows at an address (R276). -/
inductive Access where
  | direct
  | locked
  | readOnly
  | nothing
  deriving DecidableEq, Repr

/-- The access of a region (R276). -/
def windowAccess (r : Region) : Access :=
  match r with
  | .mac h => if h = 0 then .locked else .readOnly
  | .lpm _ => .readOnly
  | .stream _ => .locked
  | .exact h => if h = 0 then .locked else .readOnly
  | .general => .direct
  | .policer => .readOnly
  | .sgate => .readOnly
  | .reserved => .nothing
  | .beyond => .nothing

/-- LOCK, bit 31 of a final word (R282, R303, R305). -/
def lockBit (v : BitVec 32) : Bool := v.getLsbD 31

/-- The lowest free staging slot (R296). -/
def freeSlot (s : State) : Option Nat := (List.range 256).find? fun k => (sget none s.tbl.slots k).isNone

/-- Sets or frees a staging slot. -/
def putSlot (s : State) (k : Nat) (x : Option LockSlot) : State :=
  { s with tbl := { s.tbl with slots := sset none s.tbl.slots k x } }

/-- Step 1 of R297 for the entry at `a` of `n` bytes: the copy carries LOCK; for a MAC entry a lock event sets the live bit. -/
def lockEntry (s : State) (a n : Nat) : State :=
  match slotOf s a with
  | some _ => s
  | none =>
    match freeSlot s with
    | none => pinc s pidTblWindowLockRefused
    | some k =>
      let bs := tblBytes s a n
      let copy := putBytes bs (n - 4) (leBytes 4 (putBits (leAt bs (n - 4) 4) 31 1 1))
      let s := putSlot s k (some { addr := a, len := n, copy := copy, since := s.clk })
      if a < macBase 1 then issueEv s 0 (bs.take 8) (.lockEntry (a / 12)) else s

/-- The bits of the word at offset `off` of an entry that are not reserved (R9, R303, R305). -/
def fieldBits (a off : Nat) : BitVec 32 :=
  match regionOf a with
  | .stream _ => if off = 52 then 0x007FFFFF else if off = 56 then 0 else if off = 60 then 0xFF800000 else 0xFFFFFFFF
  | _ => 0xFFFFFFFF

/-- The bits of an entry's final word that are not reserved: of an exact entry LOCK and VALID (R9, R303, R305). -/
def finalBits (a len : Nat) : BitVec 32 :=
  match regionOf a with
  | .exact _ => 0xC0000000
  | _ => fieldBits a (len - 4)

/-- Step 2 of R297: a word of the staged copy. A value written to a reserved field is ignored (R9). -/
def stageWord (s : State) (k : Nat) (l : LockSlot) (off : Nat) (v : BitVec 32) : State :=
  putSlot s k (some { l with copy := putBytes l.copy off (leBytes 4 (v &&& fieldBits l.addr off).toNat) })

/-- Step 3 of R297: the staged copy with its new final word becomes live, an exact entry in both halves; a MAC entry's becomes an event. -/
def commitEntry (s : State) (k : Nat) (l : LockSlot) (v : BitVec 32) : State :=
  let bs := putBytes l.copy (l.len - 4) (leBytes 4 (v &&& finalBits l.addr l.len).toNat)
  let s := putSlot s k none
  match regionOf l.addr with
  | .mac _ => issueEv s 0 (bs.take 8) (.commitEntry (l.addr / 12) bs)
  | .exact _ => tblWrite (tblWrite s l.addr bs) (l.addr + 0x400000) bs
  | _ => tblWrite s l.addr bs

/-- The words of a stream entry that hold its counters: ACCEPTED, DISCARDED, and ROGUE with RESETS (R305). -/
def streamCounterWord (a : Nat) : Bool :=
  match regionOf a with
  | .stream h => let w := (a - streamBase h) % 64 / 4; w = 4 || w = 5 || w = 6
  | _ => false

/-- A write to a word of a region under the lock protocol (R297). -/
def writeLocked (s : State) (a : Nat) (v : BitVec 32) : State :=
  match entryAt s a with
  | none => pinc s pidTblWindowUnlockedWrite
  | some (e, n) =>
    let final := a = e + n - 4
    if final && lockBit v then lockEntry s e n
    else
      match slotOf s e with
      | some (k, l) => if final then commitEntry s k l v else stageWord s k l (a - e) v
      | none =>
        if streamCounterWord a then tblWrite s a (leBytes 4 v.toNat)
        else pinc s pidTblWindowUnlockedWrite

/-- A host write of four bytes through BAR4 (R276, R296, R297, R397); without a link there is none, and one that is not aligned is counted. -/
def windowWrite (s : State) (a : Nat) (v : BitVec 32) : State :=
  if !s.host.link then s
  else if a % 4 != 0 then pinc s pidHostWindowBad
  else
    match windowAccess (regionOf a) with
    | .direct => tblWrite s a (leBytes 4 v.toNat)
    | .locked => writeLocked s a v
    | .readOnly => pinc s pidTblWindowRoWrite
    | .nothing => s

/-- A host write through BAR4 of any width: an aligned one of eight bytes acts as two of four in ascending order, and any other width is counted
(R397). -/
def windowStore (s : State) (a : Nat) (data : List Byte) : State :=
  let word (i : Nat) : BitVec 32 := BitVec.ofNat 32 (leAt data i 4)
  if data.length = 4 then windowWrite s a (word 0)
  else if data.length = 8 && a % 8 = 0 then windowWrite (windowWrite s a (word 0)) (a + 4) (word 4)
  else if s.host.link then pinc s pidHostWindowBad
  else s

/-- A host read of four bytes through BAR4 (R276, R281, R297, R397, R495): the staged copy of a locked entry; otherwise the live word, a bad
one reported by the host interface and returned as stored. The table of commands has no row for a read. -/
def windowRead (s : State) (a : Nat) : State × Nat :=
  if a % 4 != 0 then (pinc s pidHostWindowBad, 0)
  else
    match windowAccess (regionOf a) with
    | .nothing => (s, 0)
    | _ =>
      match (entryAt s a).bind fun e => slotOf s e.1 with
      | some (_, l) => (s, leAt l.copy (a - l.addr) 4)
      | none => (if wordBad s a then reportParity s a 0x1081 else s, tblWord s a)

/-- A host read through BAR4 of any width (R397): the state after it and what it returns. -/
def windowLoad (s : State) (a n : Nat) : State × List Byte :=
  if n = 4 then let r := windowRead s a; (r.1, leBytes 4 r.2)
  else if n = 8 && a % 8 = 0 then
    let r := windowRead s a
    let q := windowRead r.1 (a + 4)
    (q.1, leBytes 4 r.2 ++ leBytes 4 q.2)
  else (pinc s pidHostWindowBad, leBytes n 0)

/-- TABLE_WINDOW_WRITE, of any width (R397). What a write through the window does follows from its address and data alone, so the four rows of
the window are four names of one access. -/
def execTableWindowWrite (addr : BitVec 26) (data : List Byte) (s : State) : Result := .next (windowStore s addr.toNat data)

/-- TABLE_ENTRY_LOCK (R297 step 1). -/
def execTableEntryLock (addr : BitVec 26) (v : BitVec 32) (s : State) : Result := .next (windowWrite s addr.toNat v)

/-- TABLE_ENTRY_STAGE (R297 step 2). -/
def execTableEntryStage (addr : BitVec 26) (v : BitVec 32) (s : State) : Result := .next (windowWrite s addr.toNat v)

/-- TABLE_ENTRY_COMMIT (R297 step 3). -/
def execTableEntryCommit (addr : BitVec 26) (v : BitVec 32) (s : State) : Result := .next (windowWrite s addr.toNat v)

/-- A lock held for longer than `tbl.window.lock_timeout_ms` is discarded (R298, R495); before that nothing happens. -/
def execTableLockTimeout (slot : Fin 256) (s : State) : Result :=
  match sget none s.tbl.slots slot.val with
  | none => .next s
  | some l =>
    if s.clk ≤ l.since + pget s pidTblWindowLockTimeoutMs * msCycles then .next s
    else
      let s := putSlot s slot.val none
      let s := if l.addr < macBase 1 then issueEv s 0 (l.copy.take 8) (.unlockEntry (l.addr / 12)) else s
      .next (report (pinc s pidTblWindowLockTimeout) 0x63 0x0F clsWarning 0x1063 l.addr 0 0)

/-! ### Repairs (R82, R281) -/

/-- Parity marks of a range are cleared. -/
def clearBad (s : State) (a n : Nat) : State :=
  { s with tbl := { s.tbl with
      bad := (List.range (ceilDiv n 4)).foldl (fun b i => sset false b (a / 4 + i) false) s.tbl.bad } }

/-- A MAC or exact entry is copied from the other half's copy when that reads clean (R281). -/
def repairFromTwin (s : State) (a twin n : Nat) : State :=
  if entryBad s twin n then s else tblWrite s a (tblBytes s twin n)

/-- The repair of the entry that holds an address (R281); a clean entry is left. -/
def repairAt (s : State) (a : Nat) : State :=
  match regionOf a with
  | .mac h =>
    let i := (a - macBase h) / 12
    if entryBad s (macBase h + 12 * i) 12 then repairFromTwin s (macBase h + 12 * i) (macBase (1 - h) + 12 * i) 12 else s
  | .exact h =>
    match partAt s a with
    | some (n, i) =>
      let p := partInfo s n
      if entryBad s (entryAddr p h i) (entrySize p) then repairFromTwin s (entryAddr p h i) (entryAddr p (1 - h) i) (entrySize p) else s
    | none => s
  | .lpm h =>
    { s with tbl := { s.tbl with badRoutes := sset false s.tbl.badRoutes (routeCopy h (routeAt s a)) false } }
  | .stream h =>
    let i := (a - streamBase h) / 64
    if entryBad s (streamBase h + 64 * i) 64 then strPut s h i ((strGet s h i).set sValid 0) else s
  | .policer =>
    let i := (a - policerBase) / 32
    if entryBad s (policerBase + 32 * i) 32 then
      modPol (clearBad s (policerBase + 32 * i) 32) i fun p => { p with tokens := p.burst * 65536 }
    else s
  | .sgate => clearBad s ((a - sgateBase) / 512 * 512 + sgateBase) 512
  | _ => s

/-- TABLE_REPAIR (R281). -/
def execTableRepair (addr : BitVec 26) (s : State) : Result := .next (repairAt s addr.toNat)

/-- CLS_REPAIR: the rule or comparator is rewritten from the live edition (R82). -/
def execClsRepair (h : Hf) (idx : Fin 16384) (comparator : Bool) (s : State) : Result :=
  .next (modHalf s h fun x =>
    if comparator then { x with badComps := x.badComps.filter (·.1 != idx.val) }
    else { x with badRules := x.badRules.filter (·.1 != idx.val) })

/-! ### MAC_FLUSH and LEARN_STATUS (R295, R410) -/

/-- An event is a flush by command. -/
def isFlushCmd (k : LearnKind) : Bool :=
  match k with
  | .flushCmd _ _ _ _ _ _ => true
  | _ => false

/-- MAC_FLUSH: the reply follows the application (R295). -/
def execMacFlush (h : CmdHdr) (ps : List Byte) (s : State) : Result :=
  hostCmdN s h 0x0400 1 ps 12 fun s =>
    let sel := leAt ps 0 1
    let fid := leAt ps 2 2
    if 3 < sel || 63 < leAt ps 1 1 || !zeros ps 10 2 then refuse s stBadParam
    else if s.tbl.learnQ.any fun e => isFlushCmd e.kind then refuse s stBusy
    else
      let key := beBytes 2 fid ++ beBytes 6 (leAt ps 4 6)
      (issueEv s 0 key (.flushCmd sel (leAt ps 1 1) fid key (h.flags.getLsbD 0) h), none)

/-- LEARN_STATUS (R410). -/
def execLearnStatus (h : CmdHdr) (ps : List Byte) (s : State) : Result :=
  hostCmdN s h 0x0403 0 ps 0 fun s =>
    answer s ((List.range 2).flatMap fun k => leBytes 2 (heldEvents s k) ++ leBytes 6 0)

/-! ### Routes (R301) -/

/-- A route from its family, length and 16 prefix bytes; none for a family that is not 4 or 6, a length beyond the family's, or prefix bits
beyond the length (R301). -/
def routeOf (family len : Nat) (pfx : List Byte) (result : Nat) : Option Route :=
  let n := beAt pfx 0 16
  if (family = 4 || family = 6) && len ≤ familyBits family && n % 2 ^ (128 - len) = 0 then
    some { family := family, len := len, pfx := n / 2 ^ (128 - familyBits family), result := result }
  else none

/-- What LPM_ROUTE_ADD does with its records from number `i` on: the state, the handles, and the failure (R301). -/
def addRoutes (s : State) (recs : List (List Byte)) (i : Nat) (handles : List Byte) : State × Nat × List Byte :=
  match recs with
  | [] => (s, stOk, handles ++ leBytes 2 0xFFFF)
  | r :: rest =>
    match routeOf (leAt r 0 1) (leAt r 1 1) (bytesAt r 8 16) (leAt r 4 4) with
    | none => (s, stBadParam, handles ++ leBytes 2 i)
    | some x =>
      if !zeros r 2 2 then (s, stBadParam, handles ++ leBytes 2 i)
      else
        let n := routeCount s 4 + 4 * routeCount s 6 + (if x.family = 4 then 1 else 4)
        if (findRoute s x.family x.len x.pfx).isNone && 1048576 < n then (s, stNoResource, handles ++ leBytes 2 i)
        else
          let a := addRoute s x
          addRoutes a.1 rest (i + 1) (handles ++ leBytes 4 a.2)

/-- The same for LPM_ROUTE_DELETE, one byte per record (R301, R410). -/
def deleteRoutes (s : State) (recs : List (List Byte)) (out : List Byte) : State × Nat × List Byte :=
  match recs with
  | [] => (s, stOk, out)
  | r :: rest =>
    match routeOf (leAt r 0 1) (leAt r 1 1) (bytesAt r 2 16) 0 with
    | none => (s, stBadParam, out)
    | some x =>
      match findRoute s x.family x.len x.pfx with
      | none => deleteRoutes s rest (out ++ [1])
      | some h => deleteRoutes (dropRoute s h) rest (out ++ [0])

/-- Parameters as records of `n` bytes; none unless there are 1 to 64. -/
def recordsOf (ps : List Byte) (n : Nat) : Option (List (List Byte)) :=
  let k := ps.length / n
  if ps.length % n = 0 && 1 ≤ k && k ≤ 64 then some ((List.range k).map fun i => bytesAt ps (n * i) n) else none

/-- LPM_ROUTE_ADD (R301). -/
def execLpmRouteAdd (h : CmdHdr) (ps : List Byte) (s : State) : Result :=
  hostCmd s h 0x0401 0 fun s =>
    match recordsOf ps 24 with
    | none => refuse s stBadParam
    | some recs =>
      let r := addRoutes s recs 0 []
      (r.1, some r.2)

/-- LPM_ROUTE_DELETE: records of family, length and prefix, 18 bytes (R301; log entry 36). -/
def execLpmRouteDelete (h : CmdHdr) (ps : List Byte) (s : State) : Result :=
  hostCmd s h 0x0402 0 fun s =>
    match recordsOf ps 18 with
    | none => refuse s stBadParam
    | some recs =>
      let r := deleteRoutes s recs []
      (r.1, some r.2)

end Sys2Proof.Machine
end

