-- ==== Sys2Proof/Machine/Dispatch.lean ====
section
/-! DEFINITION. One arm per command: the call of its meaning. -/

namespace Sys2Proof.Machine

/-- The effect of a command on everything but the queue. -/
def exec (i : Instr) (s : State) : Host.Outcome State Fault Refusal :=
  match i with
  | .nop h ps => Sys2Proof.Machine.execNop h ps s
  | .deviceInfo h ps => Sys2Proof.Machine.execDeviceInfo h ps s
  | .deviceStatus h ps => Sys2Proof.Machine.execDeviceStatus h ps s
  | .ringControl h ps => Sys2Proof.Machine.execRingControl h ps s
  | .paramGet h ps => Sys2Proof.Machine.execParamGet h ps s
  | .paramSet h ps => Sys2Proof.Machine.execParamSet h ps s
  | .editionOpen h ps => Sys2Proof.Machine.execEditionOpen h ps s
  | .editionStage h ps => Sys2Proof.Machine.execEditionStage h ps s
  | .programLoad h ps => Sys2Proof.Machine.execProgramLoad h ps s
  | .editionCommit h ps => Sys2Proof.Machine.execEditionCommit h ps s
  | .editionAbort h ps => Sys2Proof.Machine.execEditionAbort h ps s
  | .editionStatus h ps => Sys2Proof.Machine.execEditionStatus h ps s
  | .contractQuery h ps => Sys2Proof.Machine.execContractQuery h ps s
  | .macFlush h ps => Sys2Proof.Machine.execMacFlush h ps s
  | .lpmRouteAdd h ps => Sys2Proof.Machine.execLpmRouteAdd h ps s
  | .lpmRouteDelete h ps => Sys2Proof.Machine.execLpmRouteDelete h ps s
  | .learnStatus h ps => Sys2Proof.Machine.execLearnStatus h ps s
  | .timeGet h ps => Sys2Proof.Machine.execTimeGet h ps s
  | .timeSet h ps => Sys2Proof.Machine.execTimeSet h ps s
  | .timeStep h ps => Sys2Proof.Machine.execTimeStep h ps s
  | .timeAdjust h ps => Sys2Proof.Machine.execTimeAdjust h ps s
  | .timeFreq h ps => Sys2Proof.Machine.execTimeFreq h ps s
  | .timeTxstampRead h ps => Sys2Proof.Machine.execTimeTxstampRead h ps s
  | .timeStatus h ps => Sys2Proof.Machine.execTimeStatus h ps s
  | .captureTrigger h ps => Sys2Proof.Machine.execCaptureTrigger h ps s
  | .captureRelease h ps => Sys2Proof.Machine.execCaptureRelease h ps s
  | .captureStatus h ps => Sys2Proof.Machine.execCaptureStatus h ps s
  | .stationRetire h ps => Sys2Proof.Machine.execStationRetire h ps s
  | .stationReadmit h ps => Sys2Proof.Machine.execStationReadmit h ps s
  | .stationStatus h ps => Sys2Proof.Machine.execStationStatus h ps s
  | .taskRead h ps => Sys2Proof.Machine.execTaskRead h ps s
  | .threadHalt h ps => Sys2Proof.Machine.execThreadHalt h ps s
  | .threadResume h ps => Sys2Proof.Machine.execThreadResume h ps s
  | .contextRead h ps => Sys2Proof.Machine.execContextRead h ps s
  | .lockRead h ps => Sys2Proof.Machine.execLockRead h ps s
  | .lockWrite h ps => Sys2Proof.Machine.execLockWrite h ps s
  | .channelFlush h ps => Sys2Proof.Machine.execChannelFlush h ps s
  | .imageBegin h ps => Sys2Proof.Machine.execImageBegin h ps s
  | .imageData h ps => Sys2Proof.Machine.execImageData h ps s
  | .imageEnd h ps => Sys2Proof.Machine.execImageEnd h ps s
  | .imageActivate h ps => Sys2Proof.Machine.execImageActivate h ps s
  | .imageAbort h ps => Sys2Proof.Machine.execImageAbort h ps s
  | .imageStatus h ps => Sys2Proof.Machine.execImageStatus h ps s
  | .logRead h ps => Sys2Proof.Machine.execLogRead h ps s
  | .faultStatus h ps => Sys2Proof.Machine.execFaultStatus h ps s
  | .faultClear h ps => Sys2Proof.Machine.execFaultClear h ps s
  | .nopInsn t p => Sys2Proof.Machine.execNopInsn t p s
  | .mov t p rd rs => Sys2Proof.Machine.execMov t p rd rs s
  | .add t p f rd rs rt => Sys2Proof.Machine.execAdd t p f rd rs rt s
  | .sub t p f rd rs rt => Sys2Proof.Machine.execSub t p f rd rs rt s
  | .and t p f rd rs rt => Sys2Proof.Machine.execAnd t p f rd rs rt s
  | .or t p f rd rs rt => Sys2Proof.Machine.execOr t p f rd rs rt s
  | .xor t p f rd rs rt => Sys2Proof.Machine.execXor t p f rd rs rt s
  | .andn t p f rd rs rt => Sys2Proof.Machine.execAndn t p f rd rs rt s
  | .shl t p rd rs rt => Sys2Proof.Machine.execShl t p rd rs rt s
  | .shr t p rd rs rt => Sys2Proof.Machine.execShr t p rd rs rt s
  | .sar t p rd rs rt => Sys2Proof.Machine.execSar t p rd rs rt s
  | .rol t p rd rs rt => Sys2Proof.Machine.execRol t p rd rs rt s
  | .min t p rd rs rt => Sys2Proof.Machine.execMin t p rd rs rt s
  | .max t p rd rs rt => Sys2Proof.Machine.execMax t p rd rs rt s
  | .minu t p rd rs rt => Sys2Proof.Machine.execMinu t p rd rs rt s
  | .maxu t p rd rs rt => Sys2Proof.Machine.execMaxu t p rd rs rt s
  | .mul t p rd rs rt => Sys2Proof.Machine.execMul t p rd rs rt s
  | .mulhu t p rd rs rt => Sys2Proof.Machine.execMulhu t p rd rs rt s
  | .sxb t p rd rs rt => Sys2Proof.Machine.execSxb t p rd rs rt s
  | .sxh t p rd rs rt => Sys2Proof.Machine.execSxh t p rd rs rt s
  | .zxb t p rd rs rt => Sys2Proof.Machine.execZxb t p rd rs rt s
  | .zxh t p rd rs rt => Sys2Proof.Machine.execZxh t p rd rs rt s
  | .clz t p rd rs rt => Sys2Proof.Machine.execClz t p rd rs rt s
  | .popc t p rd rs rt => Sys2Proof.Machine.execPopc t p rd rs rt s
  | .addi t p f rd rs imm => Sys2Proof.Machine.execAddi t p f rd rs imm s
  | .andi t p rd rs imm => Sys2Proof.Machine.execAndi t p rd rs imm s
  | .ori t p rd rs imm => Sys2Proof.Machine.execOri t p rd rs imm s
  | .xori t p rd rs imm => Sys2Proof.Machine.execXori t p rd rs imm s
  | .shi t p f rd rs kind n => Sys2Proof.Machine.execShi t p f rd rs kind n s
  | .movi t p f rd imm => Sys2Proof.Machine.execMovi t p f rd imm s
  | .movhi t p rd imm => Sys2Proof.Machine.execMovhi t p rd imm s
  | .sel t p rd rs rt pa => Sys2Proof.Machine.execSel t p rd rs rt pa s
  | .cmp t p f pd rs rt cond comb => Sys2Proof.Machine.execCmp t p f pd rs rt cond comb s
  | .cmpi t p f pd rs imm cond comb => Sys2Proof.Machine.execCmpi t p f pd rs imm cond comb s
  | .pand t p pd pa pb => Sys2Proof.Machine.execPand t p pd pa pb s
  | .por t p pd pa pb => Sys2Proof.Machine.execPor t p pd pa pb s
  | .pxor t p pd pa pb => Sys2Proof.Machine.execPxor t p pd pa pb s
  | .pandn t p pd pa pb => Sys2Proof.Machine.execPandn t p pd pa pb s
  | .pnot t p pd pa pb => Sys2Proof.Machine.execPnot t p pd pa pb s
  | .pset t p pd pa pb => Sys2Proof.Machine.execPset t p pd pa pb s
  | .pclr t p pd pa pb => Sys2Proof.Machine.execPclr t p pd pa pb s
  | .ext t p rd rs pos len1 => Sys2Proof.Machine.execExt t p rd rs pos len1 s
  | .exts t p rd rs pos len1 => Sys2Proof.Machine.execExts t p rd rs pos len1 s
  | .ins t p rd rs pos len1 => Sys2Proof.Machine.execIns t p rd rs pos len1 s
  | .ldb t p f rd rs off pi => Sys2Proof.Machine.execLdb t p f rd rs off pi s
  | .ldh t p rd rs off pi => Sys2Proof.Machine.execLdh t p rd rs off pi s
  | .ldw t p f rd rs off pi => Sys2Proof.Machine.execLdw t p f rd rs off pi s
  | .ldbs t p rd rs off pi => Sys2Proof.Machine.execLdbs t p rd rs off pi s
  | .ldhs t p rd rs off pi => Sys2Proof.Machine.execLdhs t p rd rs off pi s
  | .stb t p f rd rs off pi => Sys2Proof.Machine.execStb t p f rd rs off pi s
  | .sth t p rd rs off pi => Sys2Proof.Machine.execSth t p rd rs off pi s
  | .stw t p f rd rs off pi => Sys2Proof.Machine.execStw t p f rd rs off pi s
  | .cpy t p gD gS size => Sys2Proof.Machine.execCpy t p gD gS size s
  | .atomFadd t p rd ra rt => Sys2Proof.Machine.execAtomFadd t p rd ra rt s
  | .atomSwap t p rd ra rt => Sys2Proof.Machine.execAtomSwap t p rd ra rt s
  | .atomCas t p rd ra rt => Sys2Proof.Machine.execAtomCas t p rd ra rt s
  | .br t p off => Sys2Proof.Machine.execBr t p off s
  | .brs t p off => Sys2Proof.Machine.execBrs t p off s
  | .rep t gN cap target tf => Sys2Proof.Machine.execRep t gN cap target tf s
  | .wait t p mask tsel => Sys2Proof.Machine.execWait t p mask tsel s
  | .signal t p gT f => Sys2Proof.Machine.execSignal t p gT f s
  | .endInsn t p f => Sys2Proof.Machine.execEndInsn t p f s
  | .trap t p code => Sys2Proof.Machine.execTrap t p code s
  | .hlock t p f => Sys2Proof.Machine.execHlock t p f s
  | .hfree t p f => Sys2Proof.Machine.execHfree t p f s
  | .chw t p gS ch w => Sys2Proof.Machine.execChw t p gS ch w s
  | .che t p gS ch w => Sys2Proof.Machine.execChe t p gS ch w s
  | .chp t p gS ch w => Sys2Proof.Machine.execChp t p gS ch w s
  | .crc t p rd gA poly size pi => Sys2Proof.Machine.execCrc t p rd gA poly size pi s
  | .csadd t p rd rs rt => Sys2Proof.Machine.execCsadd t p rd rs rt s
  | .csupd t p rd rs rt => Sys2Proof.Machine.execCsupd t p rd rs rt s
  | .csupd32 t p rd rs rt => Sys2Proof.Machine.execCsupd32 t p rd rs rt s
  | .csnot t p rd rs rt => Sys2Proof.Machine.execCsnot t p rd rs rt s
  | .bswap32 t p rd rs => Sys2Proof.Machine.execBswap32 t p rd rs s
  | .bswap16 t p rd rs => Sys2Proof.Machine.execBswap16 t p rd rs s
  | .bswapH t p rd rs => Sys2Proof.Machine.execBswapH t p rd rs s
  | .fcmp t p pd gA gB n1 cond => Sys2Proof.Machine.execFcmp t p pd gA gB n1 cond s
  | .hash t p rd rs rt ksel => Sys2Proof.Machine.execHash t p rd rs rt ksel s
  | .hfin t p rd rs => Sys2Proof.Machine.execHfin t p rd rs s
  | .lkupMac t p gS tbl r f => Sys2Proof.Machine.execLkupMac t p gS tbl r f s
  | .lkupLpm4 t p gS tbl r f => Sys2Proof.Machine.execLkupLpm4 t p gS tbl r f s
  | .lkupLpm6 t p gS tbl r f => Sys2Proof.Machine.execLkupLpm6 t p gS tbl r f s
  | .lkupStream t p gS tbl r f => Sys2Proof.Machine.execLkupStream t p gS tbl r f s
  | .lkupExact t p gS tbl r f => Sys2Proof.Machine.execLkupExact t p gS tbl r f s
  | .lread t p gI tbl r f => Sys2Proof.Machine.execLread t p gI tbl r f s
  | .learn t p gS tbl => Sys2Proof.Machine.execLearn t p gS tbl s
  | .cnt t p gI tbl gB => Sys2Proof.Machine.execCnt t p gI tbl gB s
  | .gcm t p gP r f lim => Sys2Proof.Machine.execGcm t p gP r f lim s
  | .hmac t p gP r f lim => Sys2Proof.Machine.execHmac t p gP r f lim s
  | .fclrWrite t v => Sys2Proof.Machine.execFclrWrite t v s
  | .nowLoRead t rd => Sys2Proof.Machine.execNowLoRead t rd s
  | .threadRegWrite t off v => Sys2Proof.Machine.execThreadRegWrite t off v s
  | .lockAcquire m group word => Sys2Proof.Machine.execLockAcquire m group word s
  | .lockClearAbandoned m group word => Sys2Proof.Machine.execLockClearAbandoned m group word s
  | .lockRelease m group word => Sys2Proof.Machine.execLockRelease m group word s
  | .cmdCfgEnable n v => Sys2Proof.Machine.execCmdCfgEnable n v s
  | .cmdSqTailWrite n v => Sys2Proof.Machine.execCmdSqTailWrite n v s
  | .cmdCqHeadWrite n v => Sys2Proof.Machine.execCmdCqHeadWrite n v s
  | .eventDoorbellWrite v => Sys2Proof.Machine.execEventDoorbellWrite v s
  | .txDoorbellWrite n v => Sys2Proof.Machine.execTxDoorbellWrite n v s
  | .rxDoorbellPosted n v => Sys2Proof.Machine.execRxDoorbellPosted n v s
  | .rxDoorbellConsumed n v => Sys2Proof.Machine.execRxDoorbellConsumed n v s
  | .attnMaskWrite v => Sys2Proof.Machine.execAttnMaskWrite v s
  | .registerWrite off v => Sys2Proof.Machine.execRegisterWrite off v s
  | .tableWindowWrite addr data => Sys2Proof.Machine.execTableWindowWrite addr data s
  | .tableEntryLock addr v => Sys2Proof.Machine.execTableEntryLock addr v s
  | .tableEntryStage addr v => Sys2Proof.Machine.execTableEntryStage addr v s
  | .tableEntryCommit addr v => Sys2Proof.Machine.execTableEntryCommit addr v s
  | .hostMemoryAccess off len a => Sys2Proof.Machine.execHostMemoryAccess off len a s
  | .commandAccept f => Sys2Proof.Machine.execCommandAccept f s
  | .commandComplete f w => Sys2Proof.Machine.execCommandComplete f w s
  | .serviceFrameReceived bytes => Sys2Proof.Machine.execServiceFrameReceived bytes s
  | .serviceReassemblyTimeout => Sys2Proof.Machine.execServiceReassemblyTimeout s
  | .servicePendingReply => Sys2Proof.Machine.execServicePendingReply s
  | .serviceLinkDownTimeout => Sys2Proof.Machine.execServiceLinkDownTimeout s
  | .smbusCommand code => Sys2Proof.Machine.execSmbusCommand code s
  | .powerOn => Sys2Proof.Machine.execPowerOn s
  | .resetNAssert => Sys2Proof.Machine.execResetNAssert s
  | .resetNRelease e => Sys2Proof.Machine.execResetNRelease e s
  | .bootComplete => Sys2Proof.Machine.execBootComplete s
  | .updateReset c => Sys2Proof.Machine.execUpdateReset c s
  | .perstNAssert => Sys2Proof.Machine.execPerstNAssert s
  | .hostLinkLoss => Sys2Proof.Machine.execHostLinkLoss s
  | .vddCoreBrownout => Sys2Proof.Machine.execVddCoreBrownout s
  | .supplyRangeEnter v mv => Sys2Proof.Machine.execSupplyRangeEnter v mv s
  | .supplyRangeExit v mv => Sys2Proof.Machine.execSupplyRangeExit v mv s
  | .tempSample t => Sys2Proof.Machine.execTempSample t s
  | .refclkLineLoss k => Sys2Proof.Machine.execRefclkLineLoss k s
  | .coreRefclkLoss => Sys2Proof.Machine.execCoreRefclkLoss s
  | .linkDown p => Sys2Proof.Machine.execLinkDown p s
  | .linkUp p => Sys2Proof.Machine.execLinkUp p s
  | .frameReceived p f latch interp => Sys2Proof.Machine.execFrameReceived p f latch interp s
  | .parse h => Sys2Proof.Machine.execParse h s
  | .classify h => Sys2Proof.Machine.execClassify h s
  | .admissionCheck h => Sys2Proof.Machine.execAdmissionCheck h s
  | .dispatch f => Sys2Proof.Machine.execDispatch f s
  | .residencyScan f => Sys2Proof.Machine.execResidencyScan f s
  | .taskComplete t => Sys2Proof.Machine.execTaskComplete t s
  | .waitTimeout t => Sys2Proof.Machine.execWaitTimeout t s
  | .operationTimer f idx => Sys2Proof.Machine.execOperationTimer f idx s
  | .lookupServe f port => Sys2Proof.Machine.execLookupServe f port s
  | .lookupResult f => Sys2Proof.Machine.execLookupResult f s
  | .cryptoComplete f => Sys2Proof.Machine.execCryptoComplete f s
  | .stationStall f => Sys2Proof.Machine.execStationStall f s
  | .stationStallLong f => Sys2Proof.Machine.execStationStallLong f s
  | .passComplete h => Sys2Proof.Machine.execPassComplete h s
  | .release h => Sys2Proof.Machine.execRelease h s
  | .recirculate h => Sys2Proof.Machine.execRecirculate h s
  | .spill => Sys2Proof.Machine.execSpill s
  | .deepRead p q err => Sys2Proof.Machine.execDeepRead p q err s
  | .dequeueSelect p h => Sys2Proof.Machine.execDequeueSelect p h s
  | .egressEdit p => Sys2Proof.Machine.execEgressEdit p s
  | .transmitComplete p => Sys2Proof.Machine.execTransmitComplete p s
  | .hostRxDeliver => Sys2Proof.Machine.execHostRxDeliver s
  | .registrarRxDeliver => Sys2Proof.Machine.execRegistrarRxDeliver s
  | .hostTxFetch n desc data => Sys2Proof.Machine.execHostTxFetch n desc data s
  | .captureWrite => Sys2Proof.Machine.execCaptureWrite s
  | .captureWindowFreeze w => Sys2Proof.Machine.execCaptureWindowFreeze w s
  | .trigInEdge k rising stamp => Sys2Proof.Machine.execTrigInEdge k rising stamp s
  | .trigOutPulseEnd k => Sys2Proof.Machine.execTrigOutPulseEnd k s
  | .faultAbort f e addr => Sys2Proof.Machine.execFaultAbort f e addr s
  | .ceRateDrain f => Sys2Proof.Machine.execCeRateDrain f s
  | .drainEnd f => Sys2Proof.Machine.execDrainEnd f s
  | .preparationStart => Sys2Proof.Machine.execPreparationStart s
  | .stationAdmit c => Sys2Proof.Machine.execStationAdmit c s
  | .spareCheck f c => Sys2Proof.Machine.execSpareCheck f c s
  | .learnEventApply => Sys2Proof.Machine.execLearnEventApply s
  | .peerBatchSend => Sys2Proof.Machine.execPeerBatchSend s
  | .ageClockTick => Sys2Proof.Machine.execAgeClockTick s
  | .dampingClockTick => Sys2Proof.Machine.execDampingClockTick s
  | .macSweepVisit => Sys2Proof.Machine.execMacSweepVisit s
  | .streamSweepVisit h => Sys2Proof.Machine.execStreamSweepVisit h s
  | .tableLockTimeout slot => Sys2Proof.Machine.execTableLockTimeout slot s
  | .tableRepair addr => Sys2Proof.Machine.execTableRepair addr s
  | .clsRepair h idx comparator => Sys2Proof.Machine.execClsRepair h idx comparator s
  | .gateEntryChange p => Sys2Proof.Machine.execGateEntryChange p s
  | .preemptVerifyResult p ok => Sys2Proof.Machine.execPreemptVerifyResult p ok s
  | .queueSample => Sys2Proof.Machine.execQueueSample s
  | .editionRetire tag => Sys2Proof.Machine.execEditionRetire tag s
  | .retireStuckTimeout tag => Sys2Proof.Machine.execRetireStuckTimeout tag s
  | .retireStuckCritical tag => Sys2Proof.Machine.execRetireStuckCritical tag s
  | .commitClaimApply => Sys2Proof.Machine.execCommitClaimApply s
  | .claimHoldExpiry => Sys2Proof.Machine.execClaimHoldExpiry s
  | .timeStepClear => Sys2Proof.Machine.execTimeStepClear s
  | .slewEnd => Sys2Proof.Machine.execSlewEnd s
  | .ptpServoCorrection offset => Sys2Proof.Machine.execPtpServoCorrection offset s
  | .laneCalibration lane ok => Sys2Proof.Machine.execLaneCalibration lane ok s
  | .ppsInEdge interp => Sys2Proof.Machine.execPpsInEdge interp s
  | .ppsInLost => Sys2Proof.Machine.execPpsInLost s
  | .ppsOutPulse => Sys2Proof.Machine.execPpsOutPulse s
  | .holdOffsetUpdate ppb => Sys2Proof.Machine.execHoldOffsetUpdate ppb s
  | .oscHoldLost => Sys2Proof.Machine.execOscHoldLost s
  | .synceSquelch k => Sys2Proof.Machine.execSynceSquelch k s
  | .synceHoldoffExpiry k => Sys2Proof.Machine.execSynceHoldoffExpiry k s
  | .hbmRefresh pc => Sys2Proof.Machine.execHbmRefresh pc s
  | .hbmSelfRefreshEntry c => Sys2Proof.Machine.execHbmSelfRefreshEntry c s
  | .hbmPatrolScrub err => Sys2Proof.Machine.execHbmPatrolScrub err s
  | .hbmTempRead t => Sys2Proof.Machine.execHbmTempRead t s
  | .faultReport src ty cls reporter a0 a1 a2 => Sys2Proof.Machine.execFaultReport src ty cls reporter a0 a1 a2 s
  | .coalesceWindowClose src ty => Sys2Proof.Machine.execCoalesceWindowClose src ty s
  | .logWrite => Sys2Proof.Machine.execLogWrite s
  | .activationPauseResume => Sys2Proof.Machine.execActivationPauseResume s
  | .overwriteBlock => Sys2Proof.Machine.execOverwriteBlock s
  | .trialConfirm => Sys2Proof.Machine.execTrialConfirm s
  | .trialSelfCheckFail => Sys2Proof.Machine.execTrialSelfCheckFail s
  | .healthWindowExpiry => Sys2Proof.Machine.execHealthWindowExpiry s
  | .rollbackStep => Sys2Proof.Machine.execRollbackStep s
  | .forcedHalt t => Sys2Proof.Machine.execForcedHalt t s
  | .ppsOutPulseEnd => Sys2Proof.Machine.execPpsOutPulseEnd s
  | .ptpMessageInterval p m h frame => Sys2Proof.Machine.execPtpMessageInterval p m h frame s
  | .ptpReferenceLost => Sys2Proof.Machine.execPtpReferenceLost s
  | .folioCacheRefill b => Sys2Proof.Machine.execFolioCacheRefill b s
  | .perstNRelease => Sys2Proof.Machine.execPerstNRelease s
  | .hostLinkTrained cxl ide width rate => Sys2Proof.Machine.execHostLinkTrained cxl ide width rate s
  | .servicePortLinkDown => Sys2Proof.Machine.execServicePortLinkDown s
  | .servicePortLinkUp => Sys2Proof.Machine.execServicePortLinkUp s
  | .jtagAccess op => Sys2Proof.Machine.execJtagAccess op s

end Sys2Proof.Machine
end

