-- ==== Sys2Proof/Machine/Tick.lean ====
section
/-! DEFINITION. The passing of one CORE cycle: Datum, the effects that fall due, and the emulation handlers. -/

namespace Sys2Proof.Machine

/-- An effect that has fallen due. -/
def applyEffect (s : State) (e : Effect) : State :=
  match e with
  | .setFlag k i gen f src => deliverFlag s k i gen f src
  | .threadReg k lane off v => ctlApply s k lane off v
  | .arrival half ch => channelArrival s half ch
  | .trapEnd k lane => endTrap s k lane
  | .memStore .. | .lockStore .. | .tblStore .. => applyStore s e

/-- The passing of one CORE cycle: every second one is a TIME cycle (R11), effects that fall due happen, and handlers use their slots (R210). -/
def tick (s : State) : State :=
  let clk := s.clk + 1
  let due := s.delayed.filter fun de => de.1 ≤ clk
  let s := { s with
    clk := clk
    datum := if clk % 2 = 0 then timeTick s.datum else s.datum
    delayed := s.delayed.filter fun de => !(de.1 ≤ clk) }
  stepEmus (due.foldl (fun s de => applyEffect s de.2) s)

end Sys2Proof.Machine
end

