-- ==== Sys2Proof/WellFormed.lean ====
section
/-! DEFINITION. Which commands are well formed: the operand values for which the manual has an encoding. A core instruction that is not well
formed is an undefined encoding (R157, R169), or cannot be written at all (a register above g7 in a short form). -/

namespace Sys2Proof

/-- PRED = p0 with N = 1 is undefined (R157). -/
def guardWf (p : Guard) : Bool := !(p.pred == 0 && p.neg)

/-- A short form is guarded by p0 or p1, never inverted (R154). -/
def shortGuard (p : Guard) : Bool := p.pred.toNat < 2 && !p.neg

/-- A short form names g0 to g7 (R154). -/
def shortWf (f : Form) (p : Guard) (rs : List (BitVec 4)) : Bool :=
  match f with
  | .short => shortGuard p && rs.all fun r => r.toNat < 8
  | .long => true

/-- The 7-bit signed immediate of the short ADDI (R158). -/
def simmFits (i : BitVec 13) : Bool := (i.setWidth 7).signExtend 13 == i

/-- A short load or store has a 4-bit offset and no post-increment (R158). -/
def shortMemWf (f : Form) (p : Guard) (rd rs : BitVec 4) (off : BitVec 12) (pi : Bool) : Bool :=
  shortWf f p [rd, rs] && (f == .long || (!pi && off.toNat < 16))

/-- The parameters of a command packet have a length of 32 bits (R406). -/
def paramsWf (ps : List Byte) : Bool := ps.length < 2 ^ 32

/-- A write through HDM or BAR2 carries as many bytes as it says (R381). -/
def accessWf (len : Nat) (a : MemAccess) : Bool :=
  match a with
  | .read _ => true
  | .write data => data.length == len

/-- Only a field port reassembles frames (R338). -/
def asmWf (p : Nat) (asm : RxAsm) : Bool := 16 ≤ p || asm == .whole

/-- A submission entry has 32 bytes (R401). -/
def fetchedWf (f : Fetched) : Bool :=
  match f with
  | .packetTimeout entry => entry.length == 32
  | .packetPoison entry => entry.length == 32
  | .packet entry _ => entry.length == 32
  | .entryFailed => true
  | .fromService => true

/-- The command has an encoding. -/
def Instr.wellFormed (i : Instr) : Bool :=
  match i with
  | .nop _ ps => paramsWf ps
  | .deviceInfo _ ps => paramsWf ps
  | .deviceStatus _ ps => paramsWf ps
  | .ringControl _ ps => paramsWf ps
  | .paramGet _ ps => paramsWf ps
  | .paramSet _ ps => paramsWf ps
  | .editionOpen _ ps => paramsWf ps
  | .editionStage _ ps => paramsWf ps
  | .programLoad _ ps => paramsWf ps
  | .editionCommit _ ps => paramsWf ps
  | .editionAbort _ ps => paramsWf ps
  | .editionStatus _ ps => paramsWf ps
  | .contractQuery _ ps => paramsWf ps
  | .macFlush _ ps => paramsWf ps
  | .lpmRouteAdd _ ps => paramsWf ps
  | .lpmRouteDelete _ ps => paramsWf ps
  | .learnStatus _ ps => paramsWf ps
  | .timeGet _ ps => paramsWf ps
  | .timeSet _ ps => paramsWf ps
  | .timeStep _ ps => paramsWf ps
  | .timeAdjust _ ps => paramsWf ps
  | .timeFreq _ ps => paramsWf ps
  | .timeTxstampRead _ ps => paramsWf ps
  | .timeStatus _ ps => paramsWf ps
  | .captureTrigger _ ps => paramsWf ps
  | .captureRelease _ ps => paramsWf ps
  | .captureStatus _ ps => paramsWf ps
  | .stationRetire _ ps => paramsWf ps
  | .stationReadmit _ ps => paramsWf ps
  | .stationStatus _ ps => paramsWf ps
  | .taskRead _ ps => paramsWf ps
  | .threadHalt _ ps => paramsWf ps
  | .threadResume _ ps => paramsWf ps
  | .contextRead _ ps => paramsWf ps
  | .lockRead _ ps => paramsWf ps
  | .lockWrite _ ps => paramsWf ps
  | .channelFlush _ ps => paramsWf ps
  | .imageBegin _ ps => paramsWf ps
  | .imageData _ ps => paramsWf ps
  | .imageEnd _ ps => paramsWf ps
  | .imageActivate _ ps => paramsWf ps
  | .imageAbort _ ps => paramsWf ps
  | .imageStatus _ ps => paramsWf ps
  | .logRead _ ps => paramsWf ps
  | .faultStatus _ ps => paramsWf ps
  | .faultClear _ ps => paramsWf ps
  | .nopInsn _ p => shortGuard p
  | .mov _ p rd rs => shortWf .short p [rd, rs]
  | .add _ p f rd rs rt => guardWf p && shortWf f p [rd, rs, rt]
  | .sub _ p f rd rs rt => guardWf p && shortWf f p [rd, rs, rt]
  | .and _ p f rd rs rt => guardWf p && shortWf f p [rd, rs, rt]
  | .or _ p f rd rs rt => guardWf p && shortWf f p [rd, rs, rt]
  | .xor _ p f rd rs rt => guardWf p && shortWf f p [rd, rs, rt]
  | .andn _ p f rd rs rt => guardWf p && shortWf f p [rd, rs, rt]
  | .shl _ p _ _ _ => guardWf p
  | .shr _ p _ _ _ => guardWf p
  | .sar _ p _ _ _ => guardWf p
  | .rol _ p _ _ _ => guardWf p
  | .min _ p _ _ _ => guardWf p
  | .max _ p _ _ _ => guardWf p
  | .minu _ p _ _ _ => guardWf p
  | .maxu _ p _ _ _ => guardWf p
  | .mul _ p _ _ _ => guardWf p
  | .mulhu _ p _ _ _ => guardWf p
  | .sxb _ p _ _ rt => guardWf p && rt == 0
  | .sxh _ p _ _ rt => guardWf p && rt == 0
  | .zxb _ p _ _ rt => guardWf p && rt == 0
  | .zxh _ p _ _ rt => guardWf p && rt == 0
  | .clz _ p _ _ rt => guardWf p && rt == 0
  | .popc _ p _ _ rt => guardWf p && rt == 0
  | .addi _ p f rd rs imm => guardWf p && shortWf f p [rd] && (f == .long || (rs == rd && simmFits imm))
  | .andi _ p _ _ _ => guardWf p
  | .ori _ p _ _ _ => guardWf p
  | .xori _ p _ _ _ => guardWf p
  | .shi _ p f rd rs _ _ => guardWf p && shortWf f p [rd] && (f == .long || rs == rd)
  | .movi _ p f rd imm => guardWf p && shortWf f p [rd] && (f == .long || imm.toNat < 128)
  | .movhi _ p _ _ => guardWf p
  | .sel _ p _ _ _ _ => guardWf p
  | .cmp _ p f pd rs rt cond comb => guardWf p && shortWf f p [rs, rt] && cond.toNat < 12 && comb.toNat < 3 && (f == .long || (pd == 1 && cond.toNat < 8 && comb.toNat < 2))
  | .cmpi _ p f pd rs imm cond comb => guardWf p && shortWf f p [rs] && cond.toNat < 12 && comb.toNat < 3 && (f == .long || (pd == 1 && cond.toNat < 8 && comb == 0 && imm.toNat < 16))
  | .pand _ p _ _ _ => guardWf p
  | .por _ p _ _ _ => guardWf p
  | .pxor _ p _ _ _ => guardWf p
  | .pandn _ p _ _ _ => guardWf p
  | .pnot _ p _ _ pb => guardWf p && pb == 0
  | .pset _ p _ pa pb => guardWf p && pa == 0 && pb == 0
  | .pclr _ p _ pa pb => guardWf p && pa == 0 && pb == 0
  | .ext _ p _ _ pos len1 => guardWf p && pos.toNat + len1.toNat < 32
  | .exts _ p _ _ pos len1 => guardWf p && pos.toNat + len1.toNat < 32
  | .ins _ p _ _ pos len1 => guardWf p && pos.toNat + len1.toNat < 32
  | .ldb _ p f rd rs off pi => guardWf p && shortMemWf f p rd rs off pi && !(pi && rd == rs)
  | .ldh _ p rd rs _ pi => guardWf p && !(pi && rd == rs)
  | .ldw _ p f rd rs off pi => guardWf p && shortMemWf f p rd rs off pi && !(pi && rd == rs)
  | .ldbs _ p rd rs _ pi => guardWf p && !(pi && rd == rs)
  | .ldhs _ p rd rs _ pi => guardWf p && !(pi && rd == rs)
  | .stb _ p f rd rs off pi => guardWf p && shortMemWf f p rd rs off pi
  | .sth _ p _ _ _ _ => guardWf p
  | .stw _ p f rd rs off pi => guardWf p && shortMemWf f p rd rs off pi
  | .cpy _ p _ _ size => guardWf p && size != 3
  | .atomFadd _ p _ _ _ => guardWf p
  | .atomSwap _ p _ _ _ => guardWf p
  | .atomCas _ p _ _ _ => guardWf p
  | .br _ p _ => guardWf p
  | .brs _ p _ => shortGuard p
  | .rep _ _ _ target _ => target == .other
  | .wait _ p _ _ => guardWf p
  | .signal _ p _ _ => guardWf p
  | .endInsn _ p f => guardWf p && shortWf f p []
  | .trap _ p _ => guardWf p
  | .hlock _ p _ => guardWf p
  | .hfree _ p f => guardWf p && f == 0
  | .chw _ p _ _ _ => guardWf p
  | .che _ p _ _ _ => guardWf p
  | .chp _ p gS _ w => guardWf p && gS == 0 && w == 0
  | .crc _ p rd gA poly size pi => guardWf p && poly.toNat < 4 && size != 3 && !(pi && rd == gA)
  | .csadd _ p _ _ _ => guardWf p
  | .csupd _ p _ _ _ => guardWf p
  | .csupd32 _ p _ _ _ => guardWf p
  | .csnot _ p _ _ rt => guardWf p && rt == 0
  | .bswap32 _ p _ _ => guardWf p
  | .bswap16 _ p _ _ => guardWf p
  | .bswapH _ p _ _ => guardWf p
  | .fcmp _ p _ _ _ _ cond => guardWf p && cond.toNat < 2
  | .hash _ p _ _ rt ksel => guardWf p && (ksel || rt == 0)
  | .hfin _ p _ _ => guardWf p
  | .lkupMac _ p _ _ _ _ => guardWf p
  | .lkupLpm4 _ p _ _ _ _ => guardWf p
  | .lkupLpm6 _ p _ _ _ _ => guardWf p
  | .lkupStream _ p _ _ _ _ => guardWf p
  | .lkupExact _ p _ _ _ _ => guardWf p
  | .lread _ p _ _ _ _ => guardWf p
  | .learn _ p _ _ => guardWf p
  | .cnt _ p _ _ _ => guardWf p
  | .gcm _ p _ _ _ lim => guardWf p && lim != 0
  | .hmac _ p _ _ _ lim => guardWf p && lim != 0
  | .fclrWrite _ _ => true
  | .nowLoRead _ _ => true
  | .threadRegWrite _ _ _ => true
  | .lockAcquire _ _ _ => true
  | .lockClearAbandoned _ _ _ => true
  | .lockRelease _ _ _ => true
  | .cmdCfgEnable _ _ => true
  | .cmdSqTailWrite _ _ => true
  | .cmdCqHeadWrite _ _ => true
  | .eventDoorbellWrite _ => true
  | .txDoorbellWrite _ _ => true
  | .rxDoorbellPosted _ _ => true
  | .rxDoorbellConsumed _ _ => true
  | .attnMaskWrite _ => true
  | .registerWrite _ _ => true
  | .tableWindowWrite _ _ => true
  | .tableEntryLock _ _ => true
  | .tableEntryStage _ _ => true
  | .tableEntryCommit _ _ => true
  | .hostMemoryAccess _ len a => accessWf len.val a
  | .commandAccept f => fetchedWf f
  | .commandComplete _ _ => true
  | .serviceFrameReceived _ => true
  | .serviceReassemblyTimeout => true
  | .servicePendingReply => true
  | .serviceLinkDownTimeout => true
  | .smbusCommand _ => true
  | .powerOn => true
  | .resetNAssert => true
  | .resetNRelease _ => true
  | .bootComplete => true
  | .updateReset _ => true
  | .perstNAssert => true
  | .hostLinkLoss => true
  | .vddCoreBrownout => true
  | .supplyRangeEnter _ _ => true
  | .supplyRangeExit _ _ => true
  | .tempSample t => t.length == 24
  | .refclkLineLoss _ => true
  | .coreRefclkLoss => true
  | .linkDown _ => true
  | .linkUp _ => true
  | .frameReceived p f _ _ => asmWf p.val f.asm
  | .parse _ => true
  | .classify _ => true
  | .admissionCheck _ => true
  | .dispatch _ => true
  | .residencyScan _ => true
  | .taskComplete _ => true
  | .waitTimeout _ => true
  | .operationTimer _ _ => true
  | .lookupServe _ _ => true
  | .lookupResult _ => true
  | .cryptoComplete _ => true
  | .stationStall _ => true
  | .stationStallLong _ => true
  | .passComplete _ => true
  | .release _ => true
  | .recirculate _ => true
  | .spill => true
  | .deepRead _ _ _ => true
  | .dequeueSelect _ _ => true
  | .egressEdit _ => true
  | .transmitComplete _ => true
  | .hostRxDeliver => true
  | .registrarRxDeliver => true
  | .hostTxFetch _ desc _ => desc.length == 16
  | .captureWrite => true
  | .captureWindowFreeze _ => true
  | .trigInEdge _ _ _ => true
  | .trigOutPulseEnd _ => true
  | .faultAbort _ _ _ => true
  | .ceRateDrain _ => true
  | .drainEnd _ => true
  | .preparationStart => true
  | .stationAdmit _ => true
  | .spareCheck _ _ => true
  | .learnEventApply => true
  | .peerBatchSend => true
  | .ageClockTick => true
  | .dampingClockTick => true
  | .macSweepVisit => true
  | .streamSweepVisit _ => true
  | .tableLockTimeout _ => true
  | .tableRepair _ => true
  | .clsRepair _ _ _ => true
  | .gateEntryChange _ => true
  | .preemptVerifyResult _ _ => true
  | .queueSample => true
  | .editionRetire _ => true
  | .retireStuckTimeout _ => true
  | .retireStuckCritical _ => true
  | .commitClaimApply => true
  | .claimHoldExpiry => true
  | .timeStepClear => true
  | .slewEnd => true
  | .ptpServoCorrection _ => true
  | .laneCalibration _ _ => true
  | .ppsInEdge _ => true
  | .ppsInLost => true
  | .ppsOutPulse => true
  | .holdOffsetUpdate _ => true
  | .oscHoldLost => true
  | .synceSquelch _ => true
  | .synceHoldoffExpiry _ => true
  | .hbmRefresh _ => true
  | .hbmSelfRefreshEntry _ => true
  | .hbmPatrolScrub _ => true
  | .hbmTempRead _ => true
  | .faultReport _ _ _ _ _ _ _ => true
  | .coalesceWindowClose _ _ => true
  | .logWrite => true
  | .activationPauseResume => true
  | .overwriteBlock => true
  | .trialConfirm => true
  | .trialSelfCheckFail => true
  | .healthWindowExpiry => true
  | .rollbackStep => true
  | .forcedHalt _ => true
  | .ppsOutPulseEnd => true
  | .ptpMessageInterval _ _ _ _ => true
  | .ptpReferenceLost => true
  | .folioCacheRefill _ => true
  | .perstNRelease => true
  | .hostLinkTrained _ _ _ _ => true
  | .servicePortLinkDown => true
  | .servicePortLinkUp => true
  | .jtagAccess _ => true

end Sys2Proof
end

