-- ==== Sys2Proof/Safety.lean ====
section
/-! DEFINITION. The terms in which claims are stated: when a thread runs an instruction, when a command passes the checks of R408, what an
instruction leaves alone, the canonical form of memory, and what counts as a safe run. -/

namespace Sys2Proof.Machine

/-! ### Memory -/

/-- An addressed memory is in canonical form: addresses strictly rising, no entry equal to what an unlisted address reads as. -/
def Memory.wf (m : Sparse Byte) : Bool := swf 0 m

/-! ### Issue of an instruction -/

/-- Thread t may issue in this cycle, and no debugger halt is asked of it (R150, R272). -/
def Ready (s : State) (t : Tid) : Prop :=
  canIssue s t.stn.val (tlane t) = true ∧ (getThr s t.stn.val (tlane t)).halt = none

/-- Thread t may issue, and the guard is defined and true (R155, R156). -/
def Runs (s : State) (t : Tid) (p : Guard) : Prop :=
  Ready s t ∧ guardUndef p = false ∧ (getThr s t.stn.val (tlane t)).guard p = true

/-- The context of a thread. -/
def thrOf (s : State) (t : Tid) : Thread := getThr s t.stn.val (tlane t)

/-- The context of a thread that has used an issue slot for an instruction of so many bytes, before its effect: SLOTS counts, and the pc or
the repetition count has moved (R148, R168). -/
def issuedThr (s : State) (t : Tid) (bytes : Nat) : Thread :=
  advance bytes { thrOf s t with slots := (thrOf s t).slots + 1, lastAt := some s.clk }

/-- The state in which thread t has used an issue slot, before the instruction's effect. -/
def issuedState (s : State) (t : Tid) (bytes : Nat) : State :=
  modThr (useSlot s t.stn.val (tlane t)) t.stn.val (tlane t) (advance bytes)

/-- A station but for its threads, the use of its issue slots (R125) and the two figures of its stall episode (R251). -/
def stnRest (st : Station) : Station := { st with threads := [], cores := [], idleSince := 0, stallSeen := 0 }

/-- From s to u only thread t's context has changed, to th; beside it, the use of the core's issue slots, the station's stall figures and the
counters of reclaimed slots and of the longest stall have moved, as every issue moves them (R125, R251). -/
def OnlyThread (s u : State) (t : Tid) (th : Thread) : Prop :=
  thrOf u t = th ∧
  (∀ k l, (k, l) ≠ (t.stn.val, tlane t) → getThr u k l = getThr s k l) ∧
  (∀ k, stnRest (getStn u k) = stnRest (getStn s k)) ∧
  (∀ id, id ≠ pidDispSStallMax t.stn.val → id ≠ pidStnSCoreReclaimed t.stn.val (tlane t / 8) → pget u id = pget s id) ∧
  u = { s with stn := u.stn, par := u.par }

/-- The instruction completes, and its whole effect is that thread t's context becomes th. -/
def Gives (i : Instr) (s : State) (t : Tid) (th : Thread) : Prop := ∃ u, exec i s = .next u ∧ OnlyThread s u t th

/-- The thread, the guard, whether the encoding is undefined (R157), and the bytes of a core instruction; none for the other commands. -/
def issueOf (i : Instr) : Option (Tid × Guard × Bool × Nat) :=
  match i with
  | .nopInsn t p => some (t, p, shortBad .short p [], 2)
  | .mov t p rd rs => some (t, p, shortBad .short p [rd, rs], 2)
  | .add t p f rd rs rt | .sub t p f rd rs rt | .and t p f rd rs rt | .or t p f rd rs rt | .xor t p f rd rs rt
  | .andn t p f rd rs rt => some (t, p, shortBad f p [rd, rs, rt], formBytes f)
  | .shl t p _ _ _ | .shr t p _ _ _ | .sar t p _ _ _ | .rol t p _ _ _ | .min t p _ _ _ | .max t p _ _ _ | .minu t p _ _ _
  | .maxu t p _ _ _ | .mul t p _ _ _ | .mulhu t p _ _ _ => some (t, p, false, 4)
  | .sxb t p _ _ rt | .sxh t p _ _ rt | .zxb t p _ _ rt | .zxh t p _ _ rt | .clz t p _ _ rt | .popc t p _ _ rt =>
    some (t, p, rt != 0, 4)
  | .addi t p f rd rs _ | .shi t p f rd rs _ _ => some (t, p, shortBad f p [rd] || (f = .short && rs != rd), formBytes f)
  | .andi t p _ _ _ | .ori t p _ _ _ | .xori t p _ _ _ | .movhi t p _ _ | .sel t p _ _ _ _ => some (t, p, false, 4)
  | .movi t p f rd _ => some (t, p, shortBad f p [rd], formBytes f)
  | .cmp t p f pd rs rt cond comb => some (t, p, compareBad f p [rs, rt] pd cond comb 2, formBytes f)
  | .cmpi t p f pd rs _ cond comb => some (t, p, compareBad f p [rs] pd cond comb 1, formBytes f)
  | .pand t p _ _ _ | .por t p _ _ _ | .pxor t p _ _ _ | .pandn t p _ _ _ => some (t, p, false, 4)
  | .pnot t p _ _ pb => some (t, p, pb != 0, 4)
  | .pset t p _ pa pb | .pclr t p _ pa pb => some (t, p, pa != 0 || pb != 0, 4)
  | .ext t p _ _ pos len1 | .exts t p _ _ pos len1 | .ins t p _ _ pos len1 => some (t, p, fieldBad pos len1, 4)
  | .ldb t p f rd rs off pi | .ldw t p f rd rs off pi =>
    some (t, p, shortBad f p [rd, rs] || shortOffBad f off pi || (pi && rd = rs), formBytes f)
  | .ldh t p rd rs _ pi | .ldbs t p rd rs _ pi | .ldhs t p rd rs _ pi => some (t, p, pi && rd = rs, 4)
  | .stb t p f rd rs off pi | .stw t p f rd rs off pi => some (t, p, shortBad f p [rd, rs] || shortOffBad f off pi, formBytes f)
  | .sth t p _ _ _ _ => some (t, p, false, 4)
  | .cpy t p _ _ size => some (t, p, (sizeBytes size).isNone, 4)
  | .atomFadd t p _ _ _ | .atomSwap t p _ _ _ | .atomCas t p _ _ _ | .br t p _ | .wait t p _ _ | .signal t p _ _ | .trap t p _
  | .hlock t p _ | .chw t p _ _ _ | .che t p _ _ _ => some (t, p, false, 4)
  | .brs t p _ => some (t, p, shortBad .short p [], 2)
  | .rep t _ _ _ _ => some (t, { pred := 0, neg := false }, false, 2)
  | .endInsn t p f => some (t, p, shortBad f p [], formBytes f)
  | .hfree t p f => some (t, p, f != 0, 4)
  | .chp t p gS _ w => some (t, p, gS != 0 || w != 0, 4)
  | .crc t p rd gA poly size pi => some (t, p, 3 < poly.toNat || (sizeBytes size).isNone || (pi && rd = gA), 4)
  | .csadd t p _ _ _ | .csupd t p _ _ _ | .csupd32 t p _ _ _ => some (t, p, false, 4)
  | .csnot t p _ _ rt => some (t, p, rt != 0, 4)
  | .bswap32 t p _ _ | .bswap16 t p _ _ | .bswapH t p _ _ | .hfin t p _ _ => some (t, p, false, 4)
  | .fcmp t p _ _ _ _ cond => some (t, p, 1 < cond.toNat, 4)
  | .hash t p _ _ rt ksel => some (t, p, !ksel && rt != 0, 4)
  | .lkupMac t p _ _ _ _ | .lkupLpm4 t p _ _ _ _ | .lkupLpm6 t p _ _ _ _ | .lkupStream t p _ _ _ _ | .lkupExact t p _ _ _ _
  | .lread t p _ _ _ _ | .learn t p _ _ | .cnt t p _ _ _ => some (t, p, false, 4)
  | .gcm t p _ _ _ lim | .hmac t p _ _ _ lim => some (t, p, lim = 0, 4)
  | _ => none

/-- The instruction goes to a helper unit (R180): an undefined one is counted as refused before it traps (R208). -/
def helperInsn (i : Instr) : Bool :=
  match i with
  | .crc .. | .csadd .. | .csupd .. | .csupd32 .. | .csnot .. | .bswap32 .. | .bswap16 .. | .bswapH .. | .hfin .. | .fcmp .. | .hash ..
  | .lkupMac .. | .lkupLpm4 .. | .lkupLpm6 .. | .lkupStream .. | .lkupExact .. | .lread .. | .learn .. | .cnt .. | .gcm ..
  | .hmac .. => true
  | _ => false

/-! ### Loads and stores -/

/-- The state in which an instruction of n bytes makes its access at a: its slot is used, and the stores of an earlier CPY of the thread to the
same kind of memory are performed, since accesses of one thread to one range are performed in issue order (R152, R165). -/
def accessState (s : State) (t : Tid) (n a : Nat) : State := orderStores (issuedState s t n) t.stn.val (tlane t) a

/-- No store of an earlier CPY of the thread to the kind of memory at a is still to come (R165). -/
def NoStoreWaits (s : State) (t : Tid) (a : Nat) : Prop := ∀ e ∈ s.delayed, storeOf t.stn.val (tlane t) a e.2 = false

/-- The thread may make an access of w bytes at a, in the direction of a load: the checks of R144, R145 and R255. -/
def LoadAllowed (s : State) (t : Tid) (a w : Nat) : Prop :=
  accessOk s t.stn.val (tlane t) a w = true ∧ (rangeOf a = .locks → lockExcluded s t.stn.val (tlane t) = false)

/-- A read of the range at a has an effect beside its data: it latches NOW_HI, or reports a bad word of table memory. -/
def ReadActs (a : Nat) : Prop := rangeOf a = .regs ∨ rangeOf a = .aperture

/-- The context of thread t after its slot, when its access at address a is under way: the task completes no earlier than the access (R176). -/
def accessedThr (s : State) (t : Tid) (n a : Nat) : Thread :=
  { issuedThr s t n with endAt := max (issuedThr s t n).endAt (s.clk - commitCycles + rangeLatency a) }

/-- Instruction i is a load of w bytes at the address that its base and offset give, extended by ext: an allowed one completes with the value
in rd, and then the base, when post-incremented, is the width further on; one that is not allowed raises ADDRESS. -/
def LoadsAs (i : Instr) (s : State) (t : Tid) (f : Form) (rd rs : BitVec 4) (off : BitVec 12) (pi : Bool) (w : Nat)
    (ext : Nat → Word) : Prop :=
  let k := t.stn.val
  let l := tlane t
  let base := (thrOf s t).reg rs
  let a := effAddr f w base off
  let s1 := accessState s t (formBytes f) a
  let done (th : Thread) : Thread :=
    let th := th.setReg rd (ext (bytesValue a (loadBytes s1 k l a w)))
    if pi then th.setReg rs (postInc base w) else th
  (LoadAllowed s1 t a w → exec i s = .next (modThr (noteAccess (loadEffect s1 k l a w) k l (rangeLatency a)) k l done)) ∧
  (LoadAllowed s1 t a w → ¬ ReadActs a → NoStoreWaits s t a → Gives i s t (done (accessedThr s t (formBytes f) a))) ∧
  (¬ LoadAllowed s1 t a w → exec i s = .next (takeTrap (useSlot s k l) k l (trapAddress a)))

/-- Instruction i is a store of the low w bytes of rd at the address that its base and offset give: where the store is allowed, it completes
with what the store does (StoreEffects says what that is), and the base, when post-incremented, is the width further on; else it traps. -/
def StoresAs (i : Instr) (s : State) (t : Tid) (f : Form) (rd rs : BitVec 4) (off : BitVec 12) (pi : Bool) (w : Nat) : Prop :=
  let k := t.stn.val
  let l := tlane t
  let base := (thrOf s t).reg rs
  let a := effAddr f w base off
  let s1 := accessState s t (formBytes f) a
  let bump (u : State) : State :=
    let u := noteAccess u k l (rangeLatency a)
    if pi then modThr u k l fun th => th.setReg rs (postInc base w) else u
  (∀ u, tstore s1 k l a w ((thrOf s t).reg rd).toNat = .ok u → exec i s = .next (bump u)) ∧
  (∀ e, tstore s1 k l a w ((thrOf s t).reg rd).toNat = .error e → exec i s = .next (takeTrap (useSlot s k l) k l e))

/-! ### Requests to helpers -/

/-- A helper instruction of thread t traps with i: it has used its slot, and its kill tag is counted (R185, R186). -/
def helperTrap (s : State) (t : Tid) (i : TrapInfo) : State :=
  takeTrap (pinc (useSlot s t.stn.val (tlane t)) (pidHlpSKills t.stn.val)) t.stn.val (tlane t) i

/-- Instruction i asks a lookup of a kind with key bytes at the address in gS: with a readable key and a slot that is not pending for the same
task, it completes; the request enters the port of the thread's core, and the slot is pending. With a pending slot it takes the HELPER trap
SLOT_BUSY, and with a key outside the readable ranges ADDRESS (R188, R193, R194, R197). -/
def Looks (i : Instr) (s : State) (t : Tid) (kind : Nat) (gS tbl : BitVec 4) (r : BitVec 3) (f : BitVec 4) : Prop :=
  let k := t.stn.val
  let l := tlane t
  let s1 := issuedState s t 4
  let a := ((thrOf s t).reg gS).toNat % 2 ^ 16
  let part := taskPart s1 (thrTask s1 k l) tbl.toNat
  let n := keyLen s1 kind part
  let req : LookReq := { mkReq s1 k l with
    kind := kind, part := part, key := loadBytes s1 k l a n, index := tbl.toNat, slot := r.toNat, flag := f.toNat }
  (helperOk s1 k l a n = true → slotBusy s1 k l r.toNat = false → ∃ u, exec i s = .next u ∧
    portQueue (getStn u k) (portOf l) = portQueue (getStn s k) (portOf l) ++ [req] ∧ (mySlot u k l r.toNat).st = 1 ∧
    (mySlot u k l r.toNat).kind = kind ∧ (mySlot u k l r.toNat).owner = myHandle s k l ∧ thrOf u t = issuedThr s t 4 ∧ u.tbl = s.tbl ∧
    ∀ j, j ≠ k → getStn u j = getStn s j) ∧
  (helperOk s1 k l a n = true → slotBusy s1 k l r.toNat = true → exec i s = .next (helperTrap s t (trapHelper 0))) ∧
  (helperOk s1 k l a n = false → exec i s = .next (helperTrap s t (trapAddress a)))

/-- Instruction i starts a crypto job of a kind with its parameter block at the address in gP: for the holder of the helper lock, with a block in
scratch and a slot that is not pending for the same task, it completes; the job runs and the slot is pending. A thread that does not hold the
lock takes the HELPER trap NO_LOCK (R197, R201, R202, R211). -/
def StartsJob (i : Instr) (s : State) (t : Tid) (kind : Nat) (gP : BitVec 4) (r : BitVec 3) (f : BitVec 4) : Prop :=
  let k := t.stn.val
  let l := tlane t
  let s1 := issuedState s t 4
  let a := ((thrOf s t).reg gP).toNat % 2 ^ 16
  (holdsHelper (getStn s k) l = true → helperOk s1 k l a 32 = true → rangeOf a = .scratch → a % 4 = 0 → slotBusy s1 k l r.toNat = false →
    ∃ u j, exec i s = .next u ∧ (getStn u k).job = some j ∧ j.lane = l ∧ j.slot = r.toNat ∧ j.flag = f.toNat ∧ j.kind = kind ∧
      j.issued = s.clk - commitCycles ∧ s.clk ≤ j.doneAt ∧ (mySlot u k l r.toNat).st = 1 ∧ (mySlot u k l r.toNat).kind = kind ∧
      thrOf u t = issuedThr s t 4 ∧ u.tbl = s.tbl) ∧
  (holdsHelper (getStn s k) l = false → exec i s = .next (helperTrap s t (trapHelper 1)))

/-! ### Host commands -/

/-- The command passes steps 1, 3 and 4 of R408: the device accepts commands, the reserved field is zero, the interface has the permission,
the device is not in recovery for a group it then refuses, and no flag beyond those of R410 is set. -/
def Accepted (s : State) (h : CmdHdr) (op : Nat) (flags : BitVec 16) : Prop :=
  accepting s = true ∧ h.rsvd = 0 ∧ permitted s h.iface op = true ∧ (s.fw.recovery && 2 ≤ op / 256 && op / 256 ≤ 7) = false ∧
    h.flags &&& ~~~ flags = 0

/-- The header, the opcode and the flags (R410) of a host command; none for the other commands. -/
def opOf (i : Instr) : Option (CmdHdr × Nat × BitVec 16) :=
  match i with
  | .nop h _ => some (h, 0x0100, 0)
  | .deviceInfo h _ => some (h, 0x0101, 0)
  | .deviceStatus h _ => some (h, 0x0102, 0)
  | .ringControl h _ => some (h, 0x0103, 0)
  | .paramGet h _ => some (h, 0x0200, 0)
  | .paramSet h _ => some (h, 0x0201, 0)
  | .editionOpen h _ => some (h, 0x0300, 1)
  | .editionStage h _ => some (h, 0x0301, 0)
  | .programLoad h _ => some (h, 0x0302, 0)
  | .editionCommit h _ => some (h, 0x0303, 0)
  | .editionAbort h _ => some (h, 0x0304, 1)
  | .editionStatus h _ => some (h, 0x0305, 0)
  | .contractQuery h _ => some (h, 0x0306, 0)
  | .macFlush h _ => some (h, 0x0400, 1)
  | .lpmRouteAdd h _ => some (h, 0x0401, 0)
  | .lpmRouteDelete h _ => some (h, 0x0402, 0)
  | .learnStatus h _ => some (h, 0x0403, 0)
  | .timeGet h _ => some (h, 0x0500, 0)
  | .timeSet h _ => some (h, 0x0501, 0)
  | .timeStep h _ => some (h, 0x0502, 0)
  | .timeAdjust h _ => some (h, 0x0503, 0)
  | .timeFreq h _ => some (h, 0x0504, 0)
  | .timeTxstampRead h _ => some (h, 0x0505, 0)
  | .timeStatus h _ => some (h, 0x0506, 0)
  | .captureTrigger h _ => some (h, 0x0600, 0)
  | .captureRelease h _ => some (h, 0x0601, 0)
  | .captureStatus h _ => some (h, 0x0602, 0)
  | .stationRetire h _ => some (h, 0x0700, 1)
  | .stationReadmit h _ => some (h, 0x0701, 0)
  | .stationStatus h _ => some (h, 0x0702, 0)
  | .taskRead h _ => some (h, 0x0703, 0)
  | .threadHalt h _ => some (h, 0x0704, 0)
  | .threadResume h _ => some (h, 0x0705, 0)
  | .contextRead h _ => some (h, 0x0706, 0)
  | .lockRead h _ => some (h, 0x0707, 0)
  | .lockWrite h _ => some (h, 0x0708, 0)
  | .channelFlush h _ => some (h, 0x0709, 0)
  | .imageBegin h _ => some (h, 0x0800, 0)
  | .imageData h _ => some (h, 0x0801, 0)
  | .imageEnd h _ => some (h, 0x0802, 0)
  | .imageActivate h _ => some (h, 0x0803, 0)
  | .imageAbort h _ => some (h, 0x0804, 0)
  | .imageStatus h _ => some (h, 0x0805, 0)
  | .logRead h _ => some (h, 0x0900, 0)
  | .faultStatus h _ => some (h, 0x0901, 0)
  | .faultClear h _ => some (h, 0x0902, 0)
  | _ => none

/-- The command is accepted and checked by R408, completes with ST_OK and a payload, and leaves the state u. -/
def Answers (i : Instr) (s : State) (h : CmdHdr) (op : Nat) (u : State) (payload : List Byte) : Prop :=
  exec i s = .next (sendReply u h op stOk payload)

/-! ### Reports -/

/-- The pair of this source and fault type is latched, as every critical or fatal report latches it (R436). -/
def Latched (s : State) (src ty : Nat) : Prop := ∃ p, getPair s src ty = some p ∧ p.latched = true

/-! ### Safe runs -/

/-- The step answers a next state: no fault, no refusal. -/
def Goes (s : State) : Prop := ∃ u, step s = .next u

/-- A number of steps from s, each answering a next state, leads to u. -/
def Reaches (s u : State) : Nat → Prop
  | 0 => u = s
  | n + 1 => ∃ v, step s = .next v ∧ Reaches v u n

/-- A run is safe as long as no fatal fault is latched (R437). -/
def Safe (s : State) : Prop := s.flt.fatal = false

end Sys2Proof.Machine
end

