-- ==== Sys2Proof/Certificates/Slice0/Obligations.lean ====
section
/-! DEFINITION. The statements for the provers. -/

open Sys2Proof Sys2Proof.Machine

/-- A step runs the command at the front of the queue. For every command c and state s, step of s with c at the front of its queue is exec
of c on s with the rest of the queue. With an empty queue a step lets one CORE cycle pass (the model's own choice, log entry 1). -/
def Obligations.StepTakesFront : Prop :=
  (∀ (c : Instr) (rest : List Instr) (s : State), step { s with pending := c :: rest } = exec c { s with pending := rest }) ∧
  (∀ s : State, s.pending = [] → step s = .next (tick s))

/-- g0 and p0 read as constants and discard writes; the other registers keep what is written. Reading g0 gives zero and p0 gives 1 in
every context. A write of g0 or p0 leaves the whole context as it was. A write of another register or predicate is read back, leaves every
other register and predicate, and changes no other part of the context. -/
def Obligations.RegisterFile : Prop :=
  ∀ (th : Thread) (r q : BitVec 4) (v : Word) (n m : BitVec 3) (b : Bool),
    th.reg 0 = 0 ∧ th.pred 0 = true ∧ th.setReg 0 v = th ∧ th.setPred 0 b = th ∧
    (r ≠ 0 → (th.setReg r v).reg r = v) ∧ (n ≠ 0 → (th.setPred n b).pred n = b) ∧
    (q ≠ r → (th.setReg r v).reg q = th.reg q) ∧ (m ≠ n → (th.setPred n b).pred m = th.pred m) ∧
    (th.setReg r v).pred m = th.pred m ∧ (th.setPred n b).reg q = th.reg q ∧
    th.setReg r v = { th with g := (th.setReg r v).g } ∧ th.setPred n b = { th with preds := (th.setPred n b).preds }

/-- What every issue does: SLOTS counts, the pc or the repetition count moves. The context of a thread that has used a slot for an
instruction of n bytes: SLOTS is one more. While more than one repetition remains, the remaining count falls by one and the pc stays; at
the last repetition, and with no REP active, the pc moves by n and REP ends. A write of a register does not change the remaining count
(R170). An instruction of a thread that cannot issue leaves the state as it is; a helper instruction that an event squashed while it was
in flight moves the count of kills alone (R186). -/
def Obligations.IssueAdvances : Prop :=
  (∀ (s : State) (t : Tid) (n : Nat), (issuedThr s t n).slots = (thrOf s t).slots + 1 ∧
    ((thrOf s t).repActive = false → (issuedThr s t n).pc = (thrOf s t).pc + BitVec.ofNat 18 n ∧ (issuedThr s t n).repActive = false) ∧
    ((thrOf s t).repActive = true → (thrOf s t).repLeft ≠ 1 →
      (issuedThr s t n).pc = (thrOf s t).pc ∧ (issuedThr s t n).repLeft = (thrOf s t).repLeft - 1 ∧ (issuedThr s t n).repActive = true) ∧
    ((thrOf s t).repActive = true → (thrOf s t).repLeft = 1 →
      (issuedThr s t n).pc = (thrOf s t).pc + BitVec.ofNat 18 n ∧ (issuedThr s t n).repActive = false)) ∧
  (∀ (th : Thread) (r : BitVec 4) (v : Word), (th.setReg r v).repLeft = th.repLeft ∧ (th.setReg r v).repActive = th.repActive) ∧
  (∀ (i : Instr) (s : State) (t : Tid) (p : Guard) (b : Bool) (n : Nat), issueOf i = some (t, p, b, n) →
    canIssue s t.stn.val (tlane t) = false → jobRunning s t.stn.val (tlane t) = false →
    exec i s = .next (if helperInsn i = true ∧ squashed s.clk (thrOf s t) = true then pinc s (pidHlpSKills t.stn.val) else s))

/-- An instruction whose guard is false does nothing but use its slot. For every core and helper instruction that has a guard, with a
defined encoding, in a thread that may issue: when the guard is false, exec answers the state in which only the slot was used. So it
writes no register, predicate or memory, sends no helper request, reserves nothing, does not branch, wait, end or trap, and leaves p6 and
p7. The premise on the crypto job is readiness (R150): HFREE and the crypto requests are not ready while the thread's job is running. -/
def Obligations.FalseGuard : Prop :=
  ∀ (i : Instr) (s : State) (t : Tid) (p : Guard) (n : Nat), issueOf i = some (t, p, false, n) → Ready s t → guardUndef p = false →
    (thrOf s t).guard p = false → jobRunning s t.stn.val (tlane t) = false → exec i s = .next (issuedState s t n)

/-- An undefined encoding raises UNDEFINED whatever its guard. For every core and helper instruction in a thread that may issue: with p0
and N = 1, or with an encoding that the tables leave undefined, exec answers the state after the UNDEFINED trap, whether the guard is true
or false. For a helper instruction the refusal may have been counted before, and its kill is. The fields that make an encoding undefined
are spelled out for one instruction of each kind. -/
def Obligations.UndefinedTraps : Prop :=
  (∀ (i : Instr) (s : State) (t : Tid) (p : Guard) (b : Bool) (n : Nat), issueOf i = some (t, p, b, n) →
    canIssue s t.stn.val (tlane t) = true → jobRunning s t.stn.val (tlane t) = false → (b || guardUndef p) = true →
    (helperInsn i = false → exec i s = .next (takeTrap (useSlot s t.stn.val (tlane t)) t.stn.val (tlane t) trapUndefined)) ∧
    (helperInsn i = true → exec i s = .next (helperTrap s t trapUndefined) ∨
      ∃ m, exec i s = .next (helperTrap (pinc s (pidHlpSRefused t.stn.val m)) t trapUndefined))) ∧
  (∀ (t : Tid) (p : Guard), (guardUndef p = true ↔ p.pred = 0 ∧ p.neg = true) ∧
    (∀ rd rs rt : BitVec 4, rt ≠ 0 → issueOf (.sxb t p rd rs rt) = some (t, p, true, 4) ∧
      issueOf (.csnot t p rd rs rt) = some (t, p, true, 4) ∧ issueOf (.hash t p rd rs rt false) = some (t, p, true, 4)) ∧
    (∀ (pd : BitVec 3) (rs rt cond : BitVec 4) (comb : BitVec 2), 12 ≤ cond.toNat ∨ comb = 3 →
      issueOf (.cmp t p .long pd rs rt cond comb) = some (t, p, true, 4)) ∧
    (∀ (rd rs : BitVec 4) (pos len1 : BitVec 5), 32 < pos.toNat + (len1.toNat + 1) →
      issueOf (.ext t p rd rs pos len1) = some (t, p, true, 4)) ∧
    (∀ (r : BitVec 4) (off : BitVec 12), issueOf (.ldw t p .long r r off true) = some (t, p, true, 4)) ∧
    (∀ gD gS : BitVec 4, issueOf (.cpy t p gD gS 3) = some (t, p, true, 4)) ∧
    (∀ pd pa pb : BitVec 3, pb ≠ 0 → issueOf (.pnot t p pd pa pb) = some (t, p, true, 4)) ∧
    (∀ rd rs rt : BitVec 4, 7 < rd.toNat → issueOf (.add t p .short rd rs rt) = some (t, p, true, 2)) ∧
    (∀ (g : BitVec 4) (r : BitVec 3) (f : BitVec 4), issueOf (.gcm t p g r f 0) = some (t, p, true, 4)))

/-- What a trap leaves of its thread. Taking a trap makes the thread TRAPPED with its cause and stamp, and its handling ends 16 CORE
cycles later (log entry 72); its registers and pc, every other thread's context, table memory, the host's state and the fuses are as
before. When the handling of a thread that no debugger is halting ends, the thread is IDLE, waits for nothing, repeats nothing and has no
message open; its task holds no bank lock and the thread not the helper lock; every other thread's context, table memory, host state and
the fuses are unchanged. -/
def Obligations.TrapTaken : Prop :=
  (∀ (s : State) (k l : Nat) (i : TrapInfo),
    let u := takeTrap s k l i
    (getThr u k l).st = .trapped ∧ (getThr u k l).trap = some (i, nowStamp s) ∧ (getThr u k l).g = (getThr s k l).g ∧
    (getThr u k l).pc = (getThr s k l).pc ∧ (s.clk + trapCycles, .trapEnd k l) ∈ u.delayed ∧
    (∀ j m, (j, m) ≠ (k, l) → getThr u j m = getThr s j m) ∧ u.tbl = s.tbl ∧ u.host = s.host ∧ u.fuses = s.fuses) ∧
  (∀ (s : State) (k l : Nat) (i : TrapInfo × Nat), (getThr s k l).trap = some i → (getThr s k l).halt = none →
    let u := endTrap s k l
    (getThr u k l).st = .idle ∧ (getThr u k l).trap = none ∧ (getThr u k l).wait = none ∧ (getThr u k l).repActive = false ∧
    (getThr u k l).openMsg = none ∧ heldTask u (masterId k l) (getThr s k l).task = [] ∧ holdsHelper (getStn u k) l = false ∧
    (∀ j m, (j, m) ≠ (k, l) → getThr u j m = getThr s j m) ∧ u.tbl = s.tbl ∧ u.host = s.host ∧ u.fuses = s.fuses)

/-- ADD, SUB, AND, OR, XOR, ANDN and MOV write their result and nothing else. In both forms, when the instruction runs: rd receives the
sum or difference modulo 2^32, or the bitwise result, of the values that rs and rt held; the pc and SLOTS move; no other register, no
predicate, no memory and no other thread changes. NOP changes nothing but the slot. Each of these forms completes, exec answering a next
state under conditions on the state and operands alone: NOP_INSTRUCTION, MOV, ADD, SUB, AND, OR, XOR, ANDN. -/
def Obligations.RegisterOps : Prop :=
  ∀ (s : State) (t : Tid) (p : Guard) (f : Form) (rd rs rt : BitVec 4), Runs s t p → shortBad f p [rd, rs, rt] = false →
    let th := issuedThr s t (formBytes f)
    let a := (thrOf s t).reg rs
    let b := (thrOf s t).reg rt
    Gives (.add t p f rd rs rt) s t (th.setReg rd (a + b)) ∧ Gives (.sub t p f rd rs rt) s t (th.setReg rd (a - b)) ∧
    Gives (.and t p f rd rs rt) s t (th.setReg rd (a &&& b)) ∧ Gives (.or t p f rd rs rt) s t (th.setReg rd (a ||| b)) ∧
    Gives (.xor t p f rd rs rt) s t (th.setReg rd (a ^^^ b)) ∧ Gives (.andn t p f rd rs rt) s t (th.setReg rd (a &&& ~~~ b)) ∧
    (f = .short → Gives (.mov t p rd rs) s t (th.setReg rd a) ∧ Gives (.nopInsn t p) s t th)

/-- Shifts by register, minima, maxima and products. When the instruction runs, rd receives: rs shifted left, right logically, right
arithmetically, or rotated left by rt[4:0]; the signed or unsigned minimum or maximum; the low 32 bits of the product, or the high 32 bits
of the unsigned product. Nothing else changes but the slot. Each of these forms completes, exec answering a next state under conditions on
the state and operands alone: SHL, SHR, SAR, ROL, MIN, MAX, MINU, MAXU, MUL, MULHU. -/
def Obligations.LongRegisterOps : Prop :=
  ∀ (s : State) (t : Tid) (p : Guard) (rd rs rt : BitVec 4), Runs s t p →
    let th := issuedThr s t 4
    let a := (thrOf s t).reg rs
    let b := (thrOf s t).reg rt
    let n := b.toNat % 32
    Gives (.shl t p rd rs rt) s t (th.setReg rd (a <<< n)) ∧ Gives (.shr t p rd rs rt) s t (th.setReg rd (a >>> n)) ∧
    Gives (.sar t p rd rs rt) s t (th.setReg rd (a.sshiftRight n)) ∧ Gives (.rol t p rd rs rt) s t (th.setReg rd (a.rotateLeft n)) ∧
    Gives (.min t p rd rs rt) s t (th.setReg rd (if a.toInt < b.toInt then a else b)) ∧
    Gives (.max t p rd rs rt) s t (th.setReg rd (if a.toInt < b.toInt then b else a)) ∧
    Gives (.minu t p rd rs rt) s t (th.setReg rd (if a.toNat < b.toNat then a else b)) ∧
    Gives (.maxu t p rd rs rt) s t (th.setReg rd (if a.toNat < b.toNat then b else a)) ∧
    Gives (.mul t p rd rs rt) s t (th.setReg rd (BitVec.ofNat 32 (a.toNat * b.toNat % 2 ^ 32))) ∧
    Gives (.mulhu t p rd rs rt) s t (th.setReg rd (BitVec.ofNat 32 (a.toNat * b.toNat / 2 ^ 32)))

/-- Extensions, CLZ and POPC. With rt = g0, when the instruction runs: SXB, SXH, ZXB and ZXH extend the low byte or halfword of rs into
rd; CLZ gives the number of leading zeros, 0 to 32, so that all bits above are zero and the next one, if any, is set; POPC gives the
number of set bits. Nothing else changes but the slot. Each of these forms completes, exec answering a next state under conditions on the
state and operands alone: SXB, SXH, ZXB, ZXH, CLZ, POPC. -/
def Obligations.UnaryOps : Prop :=
  (∀ (s : State) (t : Tid) (p : Guard) (rd rs : BitVec 4), Runs s t p →
    let th := issuedThr s t 4
    let a := (thrOf s t).reg rs
    Gives (.sxb t p rd rs 0) s t (th.setReg rd ((a.setWidth 8).signExtend 32)) ∧
    Gives (.sxh t p rd rs 0) s t (th.setReg rd ((a.setWidth 16).signExtend 32)) ∧
    Gives (.zxb t p rd rs 0) s t (th.setReg rd (a &&& 0xFF)) ∧ Gives (.zxh t p rd rs 0) s t (th.setReg rd (a &&& 0xFFFF)) ∧
    Gives (.clz t p rd rs 0) s t (th.setReg rd (BitVec.ofNat 32 (clz32 a))) ∧
    Gives (.popc t p rd rs 0) s t (th.setReg rd (BitVec.ofNat 32 ((List.range 32).filter fun i => a.getLsbD i).length))) ∧
  (∀ a : Word, clz32 a ≤ 32 ∧ (∀ i, i < clz32 a → a.getLsbD (31 - i) = false) ∧ (clz32 a < 32 → a.getLsbD (31 - clz32 a) = true))

/-- The immediate forms and SEL. When the instruction runs: ADDI adds the sign-extended immediate (13 bits, or 7 in the short form, whose
rs is rd); ANDI, ORI and XORI take the 13 bits zero-extended; SHI shifts left, right logically, right arithmetically or rotates left by n;
MOVI loads 16 bits (7 in the short form) zero-extended; MOVHI replaces the upper half and keeps the lower; SEL picks rs when pa holds,
else rt. Nothing else changes but the slot. Each of these forms completes, exec answering a next state under conditions on the state and
operands alone: ADDI, ANDI, ORI, XORI, SHI, MOVI, MOVHI, SEL. -/
def Obligations.ImmediateOps : Prop :=
  ∀ (s : State) (t : Tid) (p : Guard) (f : Form) (rd rs rt : BitVec 4), Runs s t p →
    let th := issuedThr s t (formBytes f)
    let a := (thrOf s t).reg rs
    let b := (thrOf s t).reg rt
    (shortBad f p [rd] = false → (f = .short → rs = rd) →
      (∀ i : BitVec 13, Gives (.addi t p f rd rs i) s t
        (th.setReg rd (a + match f with | .short => (i.setWidth 7).signExtend 32 | .long => i.signExtend 32))) ∧
      (∀ n : BitVec 5, Gives (.shi t p f rd rs 0 n) s t (th.setReg rd (a <<< n.toNat)) ∧
        Gives (.shi t p f rd rs 1 n) s t (th.setReg rd (a >>> n.toNat)) ∧
        Gives (.shi t p f rd rs 2 n) s t (th.setReg rd (a.sshiftRight n.toNat)) ∧
        Gives (.shi t p f rd rs 3 n) s t (th.setReg rd (a.rotateLeft n.toNat))) ∧
      (∀ i : BitVec 16, Gives (.movi t p f rd i) s t
        (th.setReg rd (match f with | .short => (i.setWidth 7).setWidth 32 | .long => i.setWidth 32)))) ∧
    (f = .long →
      (∀ i : BitVec 13, Gives (.andi t p rd rs i) s t (th.setReg rd (a &&& i.setWidth 32)) ∧
        Gives (.ori t p rd rs i) s t (th.setReg rd (a ||| i.setWidth 32)) ∧
        Gives (.xori t p rd rs i) s t (th.setReg rd (a ^^^ i.setWidth 32))) ∧
      (∀ i : BitVec 16, Gives (.movhi t p rd i) s t
        (th.setReg rd ((i.setWidth 32 <<< 16) ||| ((thrOf s t).reg rd &&& 0xFFFF)))) ∧
      (∀ pa : BitVec 3, Gives (.sel t p rd rs rt pa) s t (th.setReg rd (if (thrOf s t).pred pa then a else b))))

/-- Compares write one predicate. The twelve long conditions mean what the table says (equal, not equal, signed and unsigned order, bit
test), and the eight short ones select EQ, NE, LT, GE, LTU, GEU, TST, TSTZ. When CMP or CMPI runs with a defined condition, pd receives
the result by SET, AND or OR with its old value; CMPI sign-extends its immediate for the first six conditions and zero-extends it for the
others and in the short form. No register, no other predicate and no memory changes. Each of these forms completes, exec answering a next
state under conditions on the state and operands alone: CMP, CMPI. -/
def Obligations.CompareOps : Prop :=
  (∀ a b : Word,
    cmpLong 0 a b = some (decide (a = b)) ∧ cmpLong 1 a b = some (decide (a ≠ b)) ∧
    cmpLong 2 a b = some (decide (a.toInt < b.toInt)) ∧ cmpLong 3 a b = some (decide (b.toInt ≤ a.toInt)) ∧
    cmpLong 4 a b = some (decide (a.toInt ≤ b.toInt)) ∧ cmpLong 5 a b = some (decide (b.toInt < a.toInt)) ∧
    cmpLong 6 a b = some (decide (a.toNat < b.toNat)) ∧ cmpLong 7 a b = some (decide (b.toNat ≤ a.toNat)) ∧
    cmpLong 8 a b = some (decide (a.toNat ≤ b.toNat)) ∧ cmpLong 9 a b = some (decide (b.toNat < a.toNat)) ∧
    cmpLong 10 a b = some (decide (a &&& b ≠ 0)) ∧ cmpLong 11 a b = some (decide (a &&& b = 0))) ∧
  (∀ a b : Word, (List.range 8).map (fun i => cmpHolds .short (BitVec.ofNat 4 i) a b)
    = [0, 1, 2, 3, 6, 7, 10, 11].map fun i => cmpLong (BitVec.ofNat 4 i) a b) ∧
  (∀ (s : State) (t : Tid) (p : Guard) (f : Form) (pd : BitVec 3) (rs rt cond : BitVec 4) (r : Bool), Runs s t p →
    let th := issuedThr s t (formBytes f)
    let a := (thrOf s t).reg rs
    let old := (thrOf s t).pred pd
    (f = .short → guardShort p = true ∧ pd = 1 ∧ rs.toNat ≤ 7 ∧ rt.toNat ≤ 7) →
    (cmpHolds f cond a ((thrOf s t).reg rt) = some r →
      Gives (.cmp t p f pd rs rt cond 0) s t (th.setPred pd r) ∧ Gives (.cmp t p f pd rs rt cond 1) s t (th.setPred pd (old && r)) ∧
      (f = .long → Gives (.cmp t p f pd rs rt cond 2) s t (th.setPred pd (old || r)))) ∧
    (∀ i : BitVec 8,
      (f = .short → cmpHolds f cond a ((i.setWidth 4).setWidth 32) = some r →
        Gives (.cmpi t p f pd rs i cond 0) s t (th.setPred pd r)) ∧
      (f = .long → cmpLong cond a (if cond.toNat ≤ 5 then i.signExtend 32 else i.setWidth 32) = some r →
        Gives (.cmpi t p f pd rs i cond 0) s t (th.setPred pd r) ∧
        Gives (.cmpi t p f pd rs i cond 1) s t (th.setPred pd (old && r)) ∧
        Gives (.cmpi t p f pd rs i cond 2) s t (th.setPred pd (old || r)))))

/-- The predicate operations write pd and nothing else. When the instruction runs: PAND, POR, PXOR, PANDN, PNOT, PSET and PCLR write pa
and pb, pa or pb, their exclusive or, pa and not pb, not pa, 1 or 0 into pd, the fields that the table marks p0 being p0. No register, no
other predicate and no memory changes. Each of these forms completes, exec answering a next state under conditions on the state and
operands alone: PAND, POR, PXOR, PANDN, PNOT, PSET, PCLR. -/
def Obligations.PredicateOps : Prop :=
  ∀ (s : State) (t : Tid) (p : Guard) (pd pa pb : BitVec 3), Runs s t p →
    let th := issuedThr s t 4
    let x := (thrOf s t).pred pa
    let y := (thrOf s t).pred pb
    Gives (.pand t p pd pa pb) s t (th.setPred pd (x && y)) ∧ Gives (.por t p pd pa pb) s t (th.setPred pd (x || y)) ∧
    Gives (.pxor t p pd pa pb) s t (th.setPred pd (x != y)) ∧ Gives (.pandn t p pd pa pb) s t (th.setPred pd (x && !y)) ∧
    Gives (.pnot t p pd pa 0) s t (th.setPred pd (!x)) ∧ Gives (.pset t p pd 0 0) s t (th.setPred pd true) ∧
    Gives (.pclr t p pd 0 0) s t (th.setPred pd false)

/-- EXT, EXTS and INS, bit by bit. When the field lies in the word and the instruction runs: EXT moves bits pos to pos+len-1 of rs to the
bottom of rd with zeros above; EXTS repeats the field's top bit above it; INS replaces those bits of rd by the low bits of rs and keeps
the others. Nothing else changes but the slot. Each of these forms completes, exec answering a next state under conditions on the state
and operands alone: EXT, EXTS, INS. -/
def Obligations.BitFieldOps : Prop :=
  ∀ (s : State) (t : Tid) (p : Guard) (rd rs : BitVec 4) (pos len1 : BitVec 5), Runs s t p → pos.toNat + (len1.toNat + 1) ≤ 32 →
    let th := issuedThr s t 4
    let a := (thrOf s t).reg rs
    let d := (thrOf s t).reg rd
    let n := len1.toNat + 1
    ∃ x y z : Word,
      Gives (.ext t p rd rs pos len1) s t (th.setReg rd x) ∧ Gives (.exts t p rd rs pos len1) s t (th.setReg rd y) ∧
      Gives (.ins t p rd rs pos len1) s t (th.setReg rd z) ∧
      ∀ i, i < 32 → x.getLsbD i = (decide (i < n) && a.getLsbD (pos.toNat + i)) ∧
        y.getLsbD i = a.getLsbD (pos.toNat + min i (n - 1)) ∧
        z.getLsbD i = if pos.toNat ≤ i ∧ i < pos.toNat + n then a.getLsbD (i - pos.toNat) else d.getLsbD i

/-- LDB, LDH, LDW, LDBS and LDHS load what the address space shows. In both forms, when the instruction runs with a defined encoding: at
address (rs + offset) mod 2^16 an allowed access completes; rd receives the bytes there, zero-extended, or sign-extended by LDBS and LDHS;
with post-increment rs becomes (rs + width) mod 2^16. Outside the thread control registers and the table aperture, whose reads have
effects of their own, and with no store of an earlier CPY to come there, nothing else changes. An access that is not allowed takes the
ADDRESS trap. Each of these forms completes, exec answering a next state under conditions on the state and operands alone: LDB, LDH, LDW,
LDBS, LDHS. -/
def Obligations.ThreadLoads : Prop :=
  ∀ (s : State) (t : Tid) (p : Guard) (f : Form) (rd rs : BitVec 4) (off : BitVec 12) (pi : Bool), Runs s t p → (pi = true → rd ≠ rs) →
    (shortBad f p [rd, rs] = false → shortOffBad f off pi = false →
      LoadsAs (.ldb t p f rd rs off pi) s t f rd rs off pi 1 (fun v => BitVec.ofNat 32 v) ∧
      LoadsAs (.ldw t p f rd rs off pi) s t f rd rs off pi 4 (fun v => BitVec.ofNat 32 v)) ∧
    LoadsAs (.ldh t p rd rs off pi) s t .long rd rs off pi 2 (fun v => BitVec.ofNat 32 v) ∧
    LoadsAs (.ldbs t p rd rs off pi) s t .long rd rs off pi 1 (fun v => (BitVec.ofNat 8 v).signExtend 32) ∧
    LoadsAs (.ldhs t p rd rs off pi) s t .long rd rs off pi 2 (fun v => (BitVec.ofNat 16 v).signExtend 32)

/-- Ranges, byte order and alignment. The first and last address of each mapped range and the unmapped ones; the head and tail windows
give the first byte the highest place, every other range the lowest; an access that leaves its range, the address space or natural
alignment, or a shared-data bank above 12, is not allowed. -/
def Obligations.AddressRanges : Prop :=
  ([0x0000, 0x00FF, 0x0100, 0x011F, 0x0120, 0x015F, 0x0160, 0x01FF, 0x0200, 0x0FFF, 0x1000, 0x1FFF, 0x2000, 0x3FFF, 0x4000, 0xBFFF,
      0xC000, 0xDFFF, 0xE000, 0xE07F, 0xE080, 0xE7FF, 0xE800, 0xEFFF, 0xF000, 0xF0FF, 0xF100, 0xF3FF, 0xF400, 0xF43F, 0xF440, 0xFFFF].map rangeOf
    = [Range.head, .head, .tail, .tail, .desc, .desc, .metadata, .metadata, .unmapped, .unmapped, .scratch, .scratch, .flow, .flow,
      .shared, .shared, .result, .result, .locks, .locks, .unmapped, .unmapped, .aperture, .aperture, .regs, .regs, .unmapped, .unmapped,
      .chanWin, .chanWin, .unmapped, .unmapped]) ∧
  (∀ (a : Nat) (b c d e : Byte), bytesValue a [b, c, d, e] =
    if rangeOf a = .head ∨ rangeOf a = .tail then b.toNat * 2 ^ 24 + c.toNat * 2 ^ 16 + d.toNat * 2 ^ 8 + e.toNat
    else b.toNat + c.toNat * 2 ^ 8 + d.toNat * 2 ^ 16 + e.toNat * 2 ^ 24) ∧
  (∀ (s : State) (k l a w : Nat), rangeOf a = .unmapped ∨ 0x10000 < a + w ∨ rangeOf (a + w - 1) ≠ rangeOf a ∨
      ((rangeOf a = .flow ∨ rangeOf a = .shared ∨ rangeOf a = .scratch ∨ rangeOf a = .result ∨ rangeOf a = .chanWin) ∧ a % w ≠ 0) ∨
      (rangeOf a = .aperture ∧ (w ≠ 4 ∨ a % 4 ≠ 0)) ∨ (rangeOf a = .locks ∧ (w ≠ 2 ∨ a % 2 ≠ 0)) ∨
      (rangeOf a = .shared ∧ 12 < (getThr s k l).wbank.toNat) → accessOk s k l a w = false)

/-- STB, STH and STW store the low bytes of their data register. In both forms, when the instruction runs with a defined encoding: at
address (rs + offset) mod 2^16, computed from the base before it is incremented, the low byte, halfword or word of rd is stored as the
range asks, and with post-increment rs becomes (rs + width) mod 2^16; a store that the range refuses traps instead. What a store changes,
range by range, is StoreEffects. Each of these forms completes, exec answering a next state under conditions on the state and operands
alone: STB, STH, STW. -/
def Obligations.ThreadStores : Prop :=
  ∀ (s : State) (t : Tid) (p : Guard) (f : Form) (rd rs : BitVec 4) (off : BitVec 12) (pi : Bool), Runs s t p →
    (shortBad f p [rd, rs] = false → shortOffBad f off pi = false →
      StoresAs (.stb t p f rd rs off pi) s t f rd rs off pi 1 ∧ StoresAs (.stw t p f rd rs off pi) s t f rd rs off pi 4) ∧
    StoresAs (.sth t p rd rs off pi) s t .long rd rs off pi 2

/-- What a store changes, range by range. An allowed store of w bytes succeeds in thread scratch, flow scratch and shared data, where it
changes exactly the w bytes of station memory at its place; in the head window, where it changes exactly the w bytes of the thread's copy,
highest byte first, and notes them for the write-back; in the descriptor, where it changes the RW bits of its bytes if each has one, else
it raises ADDRESS; in the general region of table memory through the aperture, where it changes exactly its bytes. The tail window, the
metadata, the result windows and the channel window refuse it with ADDRESS. No other part of the state changes. -/
def Obligations.StoreEffects : Prop :=
  ∀ (s : State) (k l a w v : Nat), accessOk s k l a w = true →
    let byte (i : Nat) : Byte := BitVec.ofNat 8 (v % 2 ^ (8 * w) / 2 ^ (8 * i))
    (rangeOf a = .scratch ∨ rangeOf a = .flow ∨ rangeOf a = .shared → ∃ m, tstore s k l a w v = .ok (modStn s k fun st => { st with mem := m }) ∧
      ∀ x, bget m x = if memPlace (getThr s k l) l a ≤ x ∧ x < memPlace (getThr s k l) l a + w then byte (x - memPlace (getThr s k l) l a)
        else bget (getStn s k).mem x) ∧
    (rangeOf a = .head → ∃ m, tstore s k l a w v =
        .ok (modThr s k l fun th => { th with head := m, stored := noteStored (getThr s k l).stored a w }) ∧
      ∀ x, bget m x = if a ≤ x ∧ x < a + w then byte (w - 1 - (x - a)) else bget (getThr s k l).head x) ∧
    (rangeOf a = .desc → (∀ i, i < w → descByteRw (a + i - 0x120) = true) → ∃ d : BitVec 512, tstore s k l a w v =
        .ok (modThr s k l fun th => { th with desc := d, stored := noteStored (getThr s k l).stored a w }) ∧
      ∀ i, i < 512 → d.getLsbD i = if descRw.getLsbD i ∧ a - 0x120 ≤ i / 8 ∧ i / 8 < a - 0x120 + w then (byte (i / 8 - (a - 0x120))).getLsbD (i % 8)
        else (getThr s k l).desc.getLsbD i) ∧
    (rangeOf a = .desc → (∃ i, i < w ∧ descByteRw (a + i - 0x120) = false) → tstore s k l a w v = .error (trapAddress a)) ∧
    (rangeOf a = .aperture → regionOf (apertureAddr (getThr s k l) a) = .general →
      ∃ u, tstore s k l a w v = .ok u ∧ u = { s with tbl := { s.tbl with mem := u.tbl.mem, bad := u.tbl.bad } } ∧
        ∀ x, tblByte u x = if apertureAddr (getThr s k l) a ≤ x ∧ x < apertureAddr (getThr s k l) a + 4
          then byte (x - apertureAddr (getThr s k l) a) else tblByte s x) ∧
    (rangeOf a = .aperture → regionOf (apertureAddr (getThr s k l) a) ≠ .general → tstore s k l a w v = .error (trapAddress a)) ∧
    (rangeOf a = .tail ∨ rangeOf a = .metadata ∨ rangeOf a = .result ∨ rangeOf a = .chanWin → tstore s k l a w v = .error (trapAddress a))

/-- A load of the same width at the same address gives the value stored. In the head window, thread scratch, flow scratch, shared data and
the general region of table memory: after an allowed store of w bytes of v, a load of w bytes at the same address by the same thread is
allowed and gives v modulo 2^(8w). -/
def Obligations.StoreThenLoad : Prop :=
  ∀ (s u : State) (k l a w v : Nat), tstore s k l a w v = .ok u →
    rangeOf a = .head ∨ rangeOf a = .scratch ∨ rangeOf a = .flow ∨ rangeOf a = .shared ∨ rangeOf a = .aperture →
    ∃ u', tload u k l a w = .ok (v % 2 ^ (8 * w), u')

/-- CPY and the ATOM instructions. When CPY runs with a defined size, and its load and then its store are allowed, it completes: the datum
is stored at gD, the width is added to gD and to gS, and a store to station memory, a lock word or table memory takes effect at the source
range's latency after issue, which is that latency less 4 after the commit. When an ATOM instruction runs at a word address of shared data
with a legal bank, it completes: rd receives the old word, and memory the sum, rt, or rt if the old word equals rd; every other byte of
station memory is unchanged. At an address of another range, or one that is no multiple of 4, ATOM raises ADDRESS. Each of these forms
completes, exec answering a next state under conditions on the state and operands alone: CPY, ATOM_FADD, ATOM_SWAP, ATOM_CAS. -/
def Obligations.CopyAndAtomics : Prop :=
  (∀ (s : State) (t : Tid) (p : Guard) (gD gS : BitVec 4) (size : BitVec 2) (w v : Nat) (s2 s3 : State), Runs s t p → sizeBytes size = some w →
    let k := t.stn.val
    let l := tlane t
    let src := ((thrOf s t).reg gS).toNat % 2 ^ 16
    let dst := ((thrOf s t).reg gD).toNat % 2 ^ 16
    let n := rangeLatency src - commitCycles
    tload (accessState s t 4 src) k l src w = .ok (v, s2) → tstore (orderStores s2 k l dst) k l dst w v = .ok s3 →
    exec (.cpy t p gD gS size) s = .next (modThr (noteAccess
      (if storesLater dst = true ∧ 0 < n then laterStore (orderStores s2 k l dst) k l dst w v n else s3) k l (rangeLatency src))
      k l fun th => addReg (addReg th gD w) gS w)) ∧
  (∀ (s : State) (k l a w v n : Nat), rangeOf a = .scratch ∨ rangeOf a = .flow ∨ rangeOf a = .shared → laterStore s k l a w v n =
    delay s n (.memStore k l (memPlace (getThr s k l) l a) (leBytes w (v % 2 ^ (8 * w))))) ∧
  (∀ (s : State) (k l place : Nat) (bs : List Byte), applyEffect s (.memStore k l place bs) =
    modStn s k fun st => { st with mem := ssetRange 0 st.mem place bs }) ∧
  (∀ (s : State) (t : Tid) (p : Guard) (rd ra rt : BitVec 4), Runs s t p →
    let k := t.stn.val
    let l := tlane t
    let a := ((thrOf s t).reg ra).toNat % 2 ^ 16
    let place := memPlace (thrOf s t) l a
    let mem := (getStn (accessState s t 4 a) k).mem
    let old : Word := BitVec.ofNat 32 (leNat ((List.range 4).map fun i => bget mem (place + i)))
    let result (i : Instr) (new : Option Word) : Prop := ∃ u, exec i s = .next u ∧ (thrOf u t).reg rd = (if rd = 0 then 0 else old) ∧
      (∀ r, r ≠ rd → (thrOf u t).reg r = (thrOf s t).reg r) ∧ (thrOf u t).preds = (thrOf s t).preds ∧
      (∀ j m, (j, m) ≠ (k, l) → getThr u j m = getThr s j m) ∧ (∀ j, j ≠ k → (getStn u j).mem = (getStn s j).mem) ∧ u.tbl = s.tbl ∧
      ∀ x, bget (getStn u k).mem x = match new with
        | none => bget mem x
        | some v => if place ≤ x ∧ x < place + 4 then byteAt (leBytes 4 v.toNat) (x - place) else bget mem x
    (rangeOf a = .shared → a % 4 = 0 → (thrOf s t).wbank.toNat ≤ 12 →
      result (.atomFadd t p rd ra rt) (some (old + (thrOf s t).reg rt)) ∧ result (.atomSwap t p rd ra rt) (some ((thrOf s t).reg rt)) ∧
      result (.atomCas t p rd ra rt) (if old = (thrOf s t).reg rd then some ((thrOf s t).reg rt) else none)) ∧
    ((rangeOf a ≠ .shared ∧ rangeOf a ≠ .aperture) ∨ a % 4 ≠ 0 →
      exec (.atomFadd t p rd ra rt) s = .next (takeTrap (useSlot s k l) k l (trapAddress a)) ∧
      exec (.atomSwap t p rd ra rt) s = .next (takeTrap (useSlot s k l) k l (trapAddress a)) ∧
      exec (.atomCas t p rd ra rt) s = .next (takeTrap (useSlot s k l) k l (trapAddress a))))

/-- Branches go forward, and REP latches its count. When BR or BRS runs outside a REP, the pc becomes the address of the following
instruction plus 2 x offset and nothing else changes but the slot. When REP runs before a legal target: with min(gN, cap) > 0 the pc is at
the target, REP is active and that many repetitions remain; with 0 the target is skipped. Before an illegal target it takes the
REP_ILLEGAL trap. Each of these forms completes, exec answering a next state under conditions on the state and operands alone: BR, BRS,
REP. -/
def Obligations.BranchesAndRep : Prop :=
  (∀ (s : State) (t : Tid) (p : Guard), Runs s t p → (thrOf s t).repActive = false →
    (∀ off : BitVec 17, ∃ th, Gives (.br t p off) s t th ∧ th.pc = (thrOf s t).pc + 4 + BitVec.ofNat 18 (2 * off.toNat) ∧
      th = { issuedThr s t 4 with pc := th.pc }) ∧
    (∀ off : BitVec 10, guardShort p = true → ∃ th, Gives (.brs t p off) s t th ∧
      th.pc = (thrOf s t).pc + 2 + BitVec.ofNat 18 (2 * off.toNat) ∧ th = { issuedThr s t 2 with pc := th.pc })) ∧
  (∀ (s : State) (t : Tid) (gN : BitVec 3) (cap : BitVec 8) (target : RepTarget) (tf : Form), Ready s t →
    let th := issuedThr s t 2
    let n := min ((thrOf s t).reg (gN.setWidth 4)).toNat cap.toNat
    (target = .other → 0 < n → Gives (.rep t gN cap target tf) s t { th with repActive := true, repLeft := BitVec.ofNat 8 n }) ∧
    (target = .other → n = 0 → Gives (.rep t gN cap target tf) s t { th with pc := th.pc + BitVec.ofNat 18 (formBytes tf) }) ∧
    (target ≠ .other → exec (.rep t gN cap target tf) s =
      .next (takeTrap (useSlot s t.stn.val (tlane t)) t.stn.val (tlane t) trapRepIllegal)))

/-- WAIT, its timeout and SIGNAL. When WAIT runs: if every masked flag was set by its deadline, T cycles after its issue, the thread goes
on with p7 = 0 and those flags cleared; else it waits with that deadline, and its flags stay. When the deadline of a waiting thread is
reached, it goes on with p7 = 1; the flags stay, as does every register. SIGNAL hands flag f to the task whose handle gT holds, in its
commit cycle: a RUNNING task that is not waiting, of the handle's generation, has the flag set; a free, finished or newer entry is left as
it is. Each of these forms completes, exec answering a next state under conditions on the state and operands alone: WAIT, SIGNAL,
WAIT_TIMEOUT. -/
def Obligations.WaitAndSignal : Prop :=
  (∀ (s : State) (t : Tid) (p : Guard) (mask : BitVec 16) (tsel : BitVec 5), Runs s t p →
    let k := t.stn.val
    let l := tlane t
    let task := thrTask s k l
    let i := (thrOf s t).task
    let until_ := s.clk - commitCycles + waitTimeoutOf s task tsel.toNat
    (∀ img n, taskImage s task = some img → opTimeout img task.node tsel.toNat = some n → waitTimeoutOf s task tsel.toNat = n) ∧
    ∃ u, exec (.wait t p mask tsel) s = .next u ∧ (∀ r, (thrOf u t).reg r = (thrOf s t).reg r) ∧
      (task.flags &&& mask = mask ∧ flagsMetAt task mask ≤ until_ → (thrOf u t).pred 7 = false ∧ (thrOf u t).wait = none ∧
        (getTask u k i).flags = task.flags &&& ~~~ mask) ∧
      (¬ (task.flags &&& mask = mask ∧ flagsMetAt task mask ≤ until_) → (thrOf u t).preds = (thrOf s t).preds ∧
        (getTask u k i).flags = task.flags ∧ (thrOf u t).wait = some { mask := mask, deadline := until_ })) ∧
  (∀ (s : State) (t : Tid) (w : WaitSt), (thrOf s t).st = .running → (thrOf s t).halt = none → (thrOf s t).wait = some w →
    (w.deadline ≤ s.clk → ∃ u, exec (.waitTimeout t) s = .next u ∧ (thrOf u t).pred 7 = true ∧ (thrOf u t).wait = none ∧
      (∀ r, (thrOf u t).reg r = (thrOf s t).reg r) ∧
      (getTask u t.stn.val (thrOf s t).task).flags = (getTask s t.stn.val (thrOf s t).task).flags) ∧
    (s.clk < w.deadline → exec (.waitTimeout t) s = .next s)) ∧
  (∀ (s : State) (t : Tid) (p : Guard) (gT f : BitVec 4), Runs s t p →
    let k := t.stn.val
    let h := ((thrOf s t).reg gT).toNat
    let i := h % 2 ^ 12
    let task := getTask s k i
    exec (.signal t p gT f) s = .next (deliverFlag (issuedState s t 4) k i (BitVec.ofNat 12 (h / 2 ^ 16)) f.toNat .signal) ∧
    (task.gen = BitVec.ofNat 12 (h / 2 ^ 16) → task.st = .running → (getThr s k task.thread).wait = none →
      ∃ u, exec (.signal t p gT f) s = .next u ∧ (getTask u k i).flags = task.flags ||| flagBit f.toNat ∧
        ∀ j, j ≠ i → getTask u k j = getTask s k j) ∧
    (task.gen ≠ BitVec.ofNat 12 (h / 2 ^ 16) ∨ task.st = .free ∨ task.st = .done →
      exec (.signal t p gT f) s = .next (pinc (issuedState s t 4) (pidStnSSignalStale k))))

/-- END ends issue, the task completes later, and TRAP traps. When END runs, the thread issues no more and its task completes no earlier
than 8 CORE cycles after its issue, 4 after its commit, or than its last access; nothing else changes. At that cycle the completion leaves
the thread IDLE; the task's stores reach the packet unless a sibling has trapped; before it nothing happens. When TRAP runs, the thread
takes TRAP_INSN with the code. Each of these forms completes, exec answering a next state under conditions on the state and operands
alone: END, TRAP, TASK_COMPLETE. -/
def Obligations.EndAndTrap : Prop :=
  (∀ (s : State) (t : Tid) (p : Guard) (f : Form), Runs s t p → shortBad f p [] = false →
    Gives (.endInsn t p f) s t { issuedThr s t (formBytes f) with ended := true, endAt := max (thrOf s t).endAt (s.clk - commitCycles + 8) }) ∧
  (∀ (s : State) (t : Tid), (thrOf s t).st = .running → (thrOf s t).ended = true → (thrOf s t).halt = none →
    (s.clk < (thrOf s t).endAt → exec (.taskComplete t) s = .next s) ∧
    ((thrOf s t).endAt ≤ s.clk → ∃ u, exec (.taskComplete t) s = .next u ∧ (thrOf u t).st = .idle ∧ (thrOf u t).ended = false ∧
      (∀ r, (thrOf u t).reg r = (thrOf s t).reg r) ∧ u.tbl = s.tbl ∧
      ∀ pk, getPkt s (thrTask s t.stn.val (tlane t)).pkt = some pk → pk.trap = none → (thrTask s t.stn.val (tlane t)).cancelled = false →
        ∃ pk', getPkt u (thrTask s t.stn.val (tlane t)).pkt = some pk' ∧ pk'.head = (writeBack pk (thrOf s t) (tlane t)).head ∧
          pk'.desc = (writeBack pk (thrOf s t) (tlane t)).desc)) ∧
  (∀ (s : State) (t : Tid) (p : Guard) (code : BitVec 8), Runs s t p →
    exec (.trap t p code) s = .next (takeTrap (useSlot s t.stn.val (tlane t)) t.stn.val (tlane t) (trapInsn code.toNat)))

/-- HLOCK and HFREE. When HLOCK runs in a thread that the edition marks as a lock user: with the lock free and no request waiting, the
thread holds it and its flag falls due 4 CORE cycles later; else its request joins the queue. A thread that is not marked takes the HELPER
trap NOT_USER. When HFREE with f = 0 runs in the holder whose crypto job has ended, the lock leaves the thread; in a thread that does not
hold it, it takes the LOCK trap. Each of these forms completes, exec answering a next state under conditions on the state and operands
alone: HLOCK, HFREE. -/
def Obligations.HelperLock : Prop :=
  ∀ (s : State) (t : Tid) (p : Guard), Runs s t p →
    let k := t.stn.val
    let l := tlane t
    let s1 := issuedState s t 4
    (∀ f : BitVec 4, lockUser s1 k l = true → ∃ u, exec (.hlock t p f) s = .next u ∧
      (∀ r, (thrOf u t).reg r = (thrOf s t).reg r) ∧ u.tbl = s.tbl ∧
      ((getStn s1 k).lockHolder = none → (getStn s1 k).lockQueue = [] → holdsHelper (getStn u k) l = true ∧
        u.delayed = s.delayed ++ [(s.clk + 4, .setFlag k (thrOf s t).task (thrTask s k l).gen f.toNat .grant)]) ∧
      ((getStn s1 k).lockHolder.isSome = true → (getStn u k).lockHolder = (getStn s k).lockHolder ∧ u.delayed = s.delayed ∧
        ∃ r, r.lane = l ∧ r.flag = f.toNat ∧ (getStn u k).lockQueue = (getStn s k).lockQueue ++ [r])) ∧
    (∀ f : BitVec 4, lockUser s1 k l = false → exec (.hlock t p f) s = .next (takeTrap (useSlot s k l) k l (trapHelper 2))) ∧
    (jobRunning s k l = false → holdsHelper (getStn s k) l = true → (∀ r ∈ (getStn s k).lockQueue, r.lane ≠ l) →
      ∃ u, exec (.hfree t p 0) s = .next u ∧ holdsHelper (getStn u k) l = false ∧ (∀ r, (thrOf u t).reg r = (thrOf s t).reg r) ∧ u.tbl = s.tbl) ∧
    (holdsHelper (getStn s k) l = false → exec (.hfree t p 0) s = .next (takeTrap (useSlot s k l) k l trapLock))

/-- CHW, CHE and CHP, and p6. When CHW or CHE runs with no message open: on a full channel p6 is 0, no message opens and the count of full
rings moves; else p6 is 1, and CHW opens a message whose word w is gS and reserves a slot, while CHE publishes one. With a message open,
p6 is 1; CHW writes word w of it, and CHE closes and publishes it. CHP frees the head message with p6 = 1, or p6 is 0 on an empty channel.
No register changes. Each of these forms completes, exec answering a next state under conditions on the state and operands alone: CHW,
CHE, CHP. -/
def Obligations.ChannelInstructions : Prop :=
  ∀ (s : State) (t : Tid) (p : Guard) (gS : BitVec 4) (ch : BitVec 8) (w : BitVec 4), Runs s t p →
    let h := chanHalf s t.stn.val
    let c := getChan s h ch.toNat
    let v := (thrOf s t).reg gS
    (∃ u, exec (.chw t p gS ch w) s = .next u ∧ (∀ r, (thrOf u t).reg r = (thrOf s t).reg r) ∧
      ((thrOf s t).openMsg = none → c.full = true → (thrOf u t).pred 6 = false ∧ (thrOf u t).openMsg = none ∧ u.chans = s.chans) ∧
      ((thrOf s t).openMsg = none → c.full = false → (thrOf u t).pred 6 = true ∧ getChan u h ch.toNat = { c with opens := c.opens + 1 } ∧
        (thrOf u t).openMsg = some { ch := ch.toNat, words := sset 0 [] w.toNat v }) ∧
      (∀ m, (thrOf s t).openMsg = some m → (thrOf u t).pred 6 = true ∧ u.chans = s.chans ∧
        (thrOf u t).openMsg = some { m with words := sset 0 m.words w.toNat v })) ∧
    (∃ u, exec (.che t p gS ch w) s = .next u ∧ (∀ r, (thrOf u t).reg r = (thrOf s t).reg r) ∧ (thrOf u t).openMsg = none ∧
      ((thrOf s t).openMsg = none → c.full = true → (thrOf u t).pred 6 = false ∧ u.chans = s.chans) ∧
      ((thrOf s t).openMsg = none → c.full = false → (thrOf u t).pred 6 = true ∧
        getChan u h ch.toNat = { c with pub := c.pub ++ [(sset 0 [] w.toNat v, false)] }) ∧
      (∀ m, (thrOf s t).openMsg = some m → (thrOf u t).pred 6 = true ∧ getChan u h m.ch = { getChan s h m.ch with
        pub := (getChan s h m.ch).pub ++ [(sset 0 m.words w.toNat v, false)], opens := (getChan s h m.ch).opens - 1 })) ∧
    (∃ u, exec (.chp t p 0 ch 0) s = .next u ∧ (∀ r, (thrOf u t).reg r = (thrOf s t).reg r) ∧ (thrOf u t).openMsg = (thrOf s t).openMsg ∧
      (thrOf u t).pred 6 = !c.pub.isEmpty ∧ getChan u h ch.toNat = { c with pub := c.pub.tail })

/-- The field unit and the hash unit. When the instruction runs: CSADD, CSUPD, CSUPD32 and CSNOT write the ones'-complement results of the
table, with bits 31:16 zero; SWAP32, SWAP16 and SWAPH move each bit of rs to its place; HASH writes step(rd, rs, k) with k the edition's
key or rt, and HFIN fin(rs). FCMP on readable operands writes whether the n bytes agree, or differ, into pd. CRC on an aligned readable
operand updates rd with its bytes and with PI adds the size to gA. Nothing else changes but the slot. Each of these forms completes, exec
answering a next state under conditions on the state and operands alone: CRC, CSADD, CSUPD, CSUPD32, CSNOT, BSWAP_SWAP32, BSWAP_SWAP16,
BSWAP_SWAPH, FCMP, HASH, HFIN. -/
def Obligations.FieldAndHashUnits : Prop :=
  ∀ (s : State) (t : Tid) (p : Guard) (rd rs rt : BitVec 4), Runs s t p →
    let k := t.stn.val
    let l := tlane t
    let th := issuedThr s t 4
    let s1 := issuedState s t 4
    let a := (thrOf s t).reg rs
    let b := (thrOf s t).reg rt
    let d := (thrOf s t).reg rd
    let lo (x : Word) : Nat := x.toNat % 65536
    let hi (x : Word) : Nat := x.toNat / 65536
    let oc (x y : Nat) : Nat := (x + y) % 65536 + (x + y) / 65536
    let put (v : Nat) : Thread := th.setReg rd (BitVec.ofNat 32 v)
    Gives (.csadd t p rd rs rt) s t (put (oc (oc (oc (lo a) (hi a)) (lo b)) (hi b))) ∧
    Gives (.csupd t p rd rs rt) s t (put (65535 - oc (oc (65535 - lo d) (65535 - lo a)) (lo b) % 65536)) ∧
    Gives (.csupd32 t p rd rs rt) s t
      (put (65535 - oc (oc (oc (oc (65535 - lo d) (65535 - lo a)) (65535 - hi a)) (lo b)) (hi b) % 65536)) ∧
    Gives (.csnot t p rd rs 0) s t (put (65535 - lo a)) ∧
    (∃ x y z : Word, Gives (.bswap32 t p rd rs) s t (th.setReg rd x) ∧ Gives (.bswap16 t p rd rs) s t (th.setReg rd y) ∧
      Gives (.bswapH t p rd rs) s t (th.setReg rd z) ∧ ∀ i, i < 32 → x.getLsbD i = a.getLsbD (8 * (3 - i / 8) + i % 8) ∧
        y.getLsbD i = a.getLsbD (if i / 8 % 2 = 0 then i + 8 else i - 8) ∧ z.getLsbD i = a.getLsbD ((i + 16) % 32)) ∧
    Gives (.hash t p rd rs 0 false) s t (th.setReg rd ((((d ^^^ a) * 0x8E5A3C6B).rotateLeft 15)
      ^^^ BitVec.ofNat 32 (edGet s (thrTask s k l).tag pidClsHashKey))) ∧
    Gives (.hash t p rd rs rt true) s t (th.setReg rd ((((d ^^^ a) * 0x8E5A3C6B).rotateLeft 15) ^^^ b)) ∧
    (let x := (a ^^^ (a >>> 16)) * 0x5C4D2F93
     Gives (.hfin t p rd rs) s t (th.setReg rd (x ^^^ (x >>> 13)))) ∧
    (∀ (pd : BitVec 3) (n1 : BitVec 4), helperOk s1 k l (a.toNat % 2 ^ 16) (n1.toNat + 1) = true →
      helperOk s1 k l (b.toNat % 2 ^ 16) (n1.toNat + 1) = true →
      let same := loadBytes s1 k l (a.toNat % 2 ^ 16) (n1.toNat + 1) == loadBytes s1 k l (b.toNat % 2 ^ 16) (n1.toNat + 1)
      Gives (.fcmp t p pd rs rt n1 0) s t (th.setPred pd same) ∧ Gives (.fcmp t p pd rs rt n1 1) s t (th.setPred pd (!same))) ∧
    (∀ (poly : BitVec 3) (size : BitVec 2) (pi : Bool) (w : Nat), poly.toNat ≤ 3 → sizeBytes size = some w → (pi = true → rd ≠ rs) →
      alignedFor (a.toNat % 2 ^ 16) w = true → helperOk s1 k l (a.toNat % 2 ^ 16) w = true →
      let v := crcPoly poly.toNat d (loadBytes s1 k l (a.toNat % 2 ^ 16) w)
      let th := { th with endAt := max th.endAt (s.clk - commitCycles + (rangeLatency (a.toNat % 2 ^ 16) + 2)) }
      Gives (.crc t p rd rs poly size pi) s t (if pi then (th.setReg rd v).setReg rs (a + BitVec.ofNat 32 w) else th.setReg rd v))

/-- LKUP, LREAD, LEARN and CNT enter their port. When the instruction runs: each kind of LKUP, and LREAD with the index in its register,
sends its request to the port of the thread's core and reserves its slot, or takes the HELPER trap SLOT_BUSY; LEARN sends its key and CNT
its index and byte count, with no slot. Nothing else changes but the slot of issue. The key is read when the request is made. Each of
these forms completes, exec answering a next state under conditions on the state and operands alone: LKUP_MAC, LKUP_LPM4, LKUP_LPM6,
LKUP_STREAM, LKUP_EXACT, LREAD, LEARN, CNT. -/
def Obligations.LookupRequests : Prop :=
  ∀ (s : State) (t : Tid) (p : Guard) (gS tbl : BitVec 4) (r : BitVec 3) (f : BitVec 4), Runs s t p →
    let k := t.stn.val
    let l := tlane t
    let s1 := issuedState s t 4
    let part := taskPart s1 (thrTask s1 k l) tbl.toNat
    let a := ((thrOf s t).reg gS).toNat % 2 ^ 16
    let sends (u : State) (q : LookReq) : Prop := portQueue (getStn u k) (portOf l) = portQueue (getStn s k) (portOf l) ++ [q] ∧
      thrOf u t = issuedThr s t 4 ∧ u.tbl = s.tbl ∧ ∀ j, j ≠ k → getStn u j = getStn s j
    Looks (.lkupMac t p gS tbl r f) s t 0 gS tbl r f ∧ Looks (.lkupLpm4 t p gS tbl r f) s t 1 gS tbl r f ∧
    Looks (.lkupLpm6 t p gS tbl r f) s t 2 gS tbl r f ∧ Looks (.lkupStream t p gS tbl r f) s t 3 gS tbl r f ∧
    Looks (.lkupExact t p gS tbl r f) s t 4 gS tbl r f ∧
    (slotBusy s1 k l r.toNat = false → ∃ u, exec (.lread t p gS tbl r f) s = .next u ∧
      sends u { mkReq s1 k l with kind := 5, part := part, index := ((thrOf s t).reg gS).toNat, slot := r.toNat, flag := f.toNat } ∧
      (mySlot u k l r.toNat).st = 1 ∧ (mySlot u k l r.toNat).kind = 5 ∧ (mySlot u k l r.toNat).owner = myHandle s k l) ∧
    (slotBusy s1 k l r.toNat = true → exec (.lread t p gS tbl r f) s = .next (helperTrap s t (trapHelper 0))) ∧
    (helperOk s1 k l a 8 = true → ∃ u, exec (.learn t p gS tbl) s = .next u ∧
      sends u { mkReq s1 k l with kind := 6, part := part, key := loadBytes s1 k l a 8 }) ∧
    (helperOk s1 k l a 8 = false → exec (.learn t p gS tbl) s = .next (helperTrap s t (trapAddress a))) ∧
    (∀ gB : BitVec 4, ∃ u, exec (.cnt t p gS tbl gB) s = .next u ∧
      sends u { mkReq s1 k l with kind := 7, part := part, index := ((thrOf s t).reg gS).toNat, bytes := ((thrOf s t).reg gB).toNat })

/-- A port serves one request, and a result reaches its slot or is an orphan. A port with no request waiting does nothing. The request
that a port serves next is one of an assured or timed task when such a one waits, and it leaves the queue; a LKUP or LREAD adds one result
to the station, a LEARN or CNT none. A result leaves the station's list; if its slot still belongs to the requesting task and that task
still runs or is shelved, the slot receives its state, code, index, latency and data; else the orphans are counted and no slot is done.
Each of these forms completes, exec answering a next state under conditions on the state and operands alone: LOOKUP_SERVE,
LOOKUP_RESULT. -/
def Obligations.LookupService : Prop :=
  (∀ (q : List LookReq) (last : Nat) (r : LookReq), nextReq q last = some r → r ∈ q ∧
    ((∃ x ∈ q, x.lane < 96 ∧ bounded x.cls = true) → bounded r.cls = true)) ∧
  (∀ (s : State) (sn : Fin 17) (port : Fin 2),
    let st := getStn s sn.val
    let last := if port.val = 0 then st.last0 else st.last1
    (portQueue st port.val = [] → exec (.lookupServe sn port) s = .next s) ∧
    (∀ r, nextReq (portQueue st port.val) last = some r → ∃ u, exec (.lookupServe sn port) s = .next u ∧
      portQueue (getStn u sn.val) port.val = dropFirst (· == r) (portQueue st port.val) ∧
      (5 < r.kind → (getStn u sn.val).results = st.results) ∧
      (r.kind ≤ 5 → ∃ x, x.req = r ∧ (getStn u sn.val).results = st.results ++ [x]))) ∧
  (∀ (s : State) (sn : Fin 17),
    let k := sn.val
    ((getStn s k).results = [] → exec (.lookupResult sn) s = .next s) ∧
    (∀ res rest, (getStn s k).results = res :: rest →
      let key := slotKey res.req.lane (res.req.cls = 0) res.req.slot
      ∃ u, exec (.lookupResult sn) s = .next u ∧ (getStn u k).results = rest ∧
        (slotOwned (getStn s k) key res.req = true → reqAlive s k res.req = true →
          let x := sget {} (getStn u k).slots key
          x.st = stateOfCode (res.code % 256) ∧ x.code = res.code % 256 ∧ x.index = res.index ∧ x.data = fitBytes res.data 48 ∧
            x.latency = min (s.clk - res.req.issued) 0xFFFF) ∧
        (slotOwned (getStn s k) key res.req = false → (getStn u k).slots = (getStn s k).slots)))

/-- GCM and HMAC start a job, and its end fills the slot. With the crypto unit fused in, when GCM or HMAC with a non-zero limit runs in a
thread that has no job running: the holder of the helper lock, with a parameter block in its scratch and a free slot, starts a job and
reserves the slot; a thread that does not hold the lock takes the HELPER trap NO_LOCK. The job's end, at its latency, empties the unit and
fills the slot with state, code and tag, or, when the slot is no longer the requesting task's, leaves the slots as they are; before that,
and without a job, nothing happens. Without the unit and without a budget the instruction takes the UNDEFINED trap. Each of these forms
completes, exec answering a next state under conditions on the state and operands alone: GCM, HMAC, CRYPTO_COMPLETE. -/
def Obligations.CryptoUnit : Prop :=
  (∀ (s : State) (t : Tid) (p : Guard) (gP : BitVec 4) (r : BitVec 3) (f : BitVec 4) (lim : BitVec 8), Runs s t p → lim ≠ 0 →
    (s.fuses.crypto = true → jobRunning s t.stn.val (tlane t) = false →
      StartsJob (.gcm t p gP r f lim) s t 6 gP r f ∧ StartsJob (.hmac t p gP r f lim) s t 7 gP r f) ∧
    (let s0 := pinc s (pidHlpSRefused t.stn.val 0x3A)
     s.fuses.crypto = false → emuBudget (issuedState s0 t 4) t.stn.val (tlane t) 0x3A = 0 →
      exec (.gcm t p gP r f lim) s = .next (helperTrap s0 t trapUndefined))) ∧
  (∀ (s : State) (sn : Fin 17),
    ((getStn s sn.val).job = none → exec (.cryptoComplete sn) s = .next s) ∧
    (∀ j, (getStn s sn.val).job = some j → (s.clk < j.doneAt → exec (.cryptoComplete sn) s = .next s) ∧
      (j.doneAt ≤ s.clk → ∃ u, exec (.cryptoComplete sn) s = .next u ∧ (getStn u sn.val).job = none ∧
        (jobOwned s sn.val j = true →
          let x := sget {} (getStn u sn.val).slots (slotKey j.lane (j.cls = 0) j.slot)
          x.st = stateOfCode j.code ∧ x.code = j.code ∧ x.data = fitBytes j.tag 48) ∧
        (jobOwned s sn.val j = false → (getStn u sn.val).slots = (getStn s sn.val).slots))))

/-- Thread control registers: stores to them and the read of NOW_LO. A store to FCLR, WBANK, LKGRP, TBASE, CHSEL or PREDS by a running
thread changes nothing at once and falls due 2 CORE cycles later; then FCLR clears the named flags of the running task, PREDS gives p1 to
p7, and the others take the bits that they have. A store that the table does not allow takes the ADDRESS trap. A read of NOW_LO puts bits
31:0 of the short stamp into rd and latches bits 63:32 in NOW_HI. Each of these forms completes, exec answering a next state under
conditions on the state and operands alone: FCLR_WRITE, NOW_LO_READ, THREAD_REGISTER_WRITE. -/
def Obligations.ThreadRegisters : Prop :=
  (∀ (s : State) (t : Tid) (v : BitVec 16) (off : BitVec 8), runsOn (getStn s t.stn.val) (tlane t) = true →
    let k := t.stn.val
    let l := tlane t
    exec (.fclrWrite t v) s = .next (delay s 2 (.threadReg k l 0x0E v)) ∧
    (off = 0x0E ∨ off = 0x10 ∨ off = 0x12 ∨ off = 0x14 ∨ off = 0x16 ∨ off = 0x20 →
      exec (.threadRegWrite t off v) s = .next (delay s 2 (.threadReg k l off.toNat v))) ∧
    (ctlWritable off.toNat = false → exec (.threadRegWrite t off v) s = .next (takeTrap s k l (trapAddress (0xF000 + off.toNat)))) ∧
    (∀ rd : BitVec 4, ∃ u, exec (.nowLoRead t rd) s = .next u ∧ (thrOf u t).nowHi = BitVec.ofNat 32 (nowStamp s / 2 ^ 32) ∧
      (rd ≠ 0 → (thrOf u t).reg rd = BitVec.ofNat 32 (nowStamp s)) ∧ ∀ r, r ≠ rd → (thrOf u t).reg r = (thrOf s t).reg r)) ∧
  (∀ (s : State) (k l : Nat) (off : Nat) (v : BitVec 16), applyEffect s (.threadReg k l off v) = ctlApply s k l off v) ∧
  (∀ (s : State) (k l : Nat) (v : BitVec 16),
    (getTask (ctlApply s k l 0x0E v) k (getThr s k l).task).flags = (getTask s k (getThr s k l).task).flags &&& ~~~ v ∧
    (getThr (ctlApply s k l 0x10 v) k l).wbank = v &&& 0x000F ∧ (getThr (ctlApply s k l 0x12 v) k l).lkgrp = v &&& 0x003F ∧
    (getThr (ctlApply s k l 0x14 v) k l).tbase = v &&& 0x7FFF ∧ (getThr (ctlApply s k l 0x16 v) k l).chsel = v &&& 0x00FF ∧
    ∀ n : BitVec 3, n ≠ 0 → (getThr (ctlApply s k l 0x20 v) k l).pred n = v.getLsbD n.toNat)

/-- Acquire, clear ABANDONED and release. By a master that the group's mask admits (a thread of it is running; the group is open to every
class): an acquire of a free lock below the master's limit makes it the owner and keeps ABANDONED; an acquire of a lock that another holds
changes no lock; a clear by the owner clears ABANDONED; a release by the owner frees the lock and keeps ABANDONED, as set. Every other
lock word stays as it was. Each of these forms completes, exec answering a next state under conditions on the state and operands alone:
LOCK_ACQUIRE, LOCK_CLEAR_ABANDONED, LOCK_RELEASE. -/
def Obligations.LockBank : Prop :=
  ∀ (s : State) (m : BitVec 12) (group word : Fin 64), lockPermitted s m.toNat group.val = true → bitOf (lockMask s group.val) 31 = false →
    (m.toNat < 0x880 → m.toNat % 128 < 96 → runsOn (getStn s (m.toNat / 128)) (m.toNat % 128) = true) →
    let w := group.val * 64 + word.val
    let old := lockWord s w
    let only (u : State) (v : BitVec 16) : Prop := lockWord u w = v ∧ ∀ x, x ≠ w → lockWord u x = lockWord s x
    (lockHeld old = false → (heldBy s m.toNat).length < lockLimit m.toNat → ∃ u, exec (.lockAcquire m group word) s = .next u ∧
      only u (0x8000 ||| (old &&& 0x4000) ||| m.setWidth 16) ∧ (heldBy u m.toNat).length = (heldBy s m.toNat).length + 1) ∧
    (lockHeld old = true → lockOwner old ≠ m.toNat → ∃ u, exec (.lockAcquire m group word) s = .next u ∧ u.locks = s.locks ∧ u.held = s.held) ∧
    (lockOwns s m.toNat w = true → ∃ u, exec (.lockClearAbandoned m group word) s = .next u ∧ only u (old &&& 0xBFFF) ∧ u.held = s.held) ∧
    (lockOwns s m.toNat w = true → ∃ u, exec (.lockRelease m group word) s = .next u ∧ only u (old &&& 0x4000))

/-- The checks that every host command passes, in their order. For each of the 46 host commands: a device that is BUSY does nothing; else
a non-zero reserved header field is answered ST_BAD_PARAM; else an interface without the permission is answered ST_NO_PERMISSION, which is
counted; else a group 0x02 to 0x07 in recovery is answered ST_NOT_READY; else a flag that the opcode does not have is answered
ST_BAD_PARAM. A reply goes to the interface of the command with its opcode and tag, and sending it changes nothing else. -/
def Obligations.HostChecks : Prop :=
  (∀ (i : Instr) (s : State) (h : CmdHdr) (op : Nat) (fl : BitVec 16), opOf i = some (h, op, fl) →
    (accepting s = false → exec i s = .next s) ∧
    (accepting s = true → h.rsvd ≠ 0 → exec i s = .next (sendReply s h op stBadParam [])) ∧
    (accepting s = true → h.rsvd = 0 → permitted s h.iface op = false →
      exec i s = .next (sendReply (pinc s pidHostDenied) h op stNoPermission [])) ∧
    (accepting s = true → h.rsvd = 0 → permitted s h.iface op = true → s.fw.recovery = true → 2 ≤ op / 256 → op / 256 ≤ 7 →
      exec i s = .next (sendReply s h op stNotReady [])) ∧
    (accepting s = true → h.rsvd = 0 → permitted s h.iface op = true → (s.fw.recovery && 2 ≤ op / 256 && op / 256 ≤ 7) = false →
      h.flags &&& ~~~ fl ≠ 0 → exec i s = .next (sendReply s h op stBadParam []))) ∧
  (∀ (s : State) (h : CmdHdr) (op st : Nat) (payload : List Byte),
    (sendReply s h op st payload).host.done
      = s.host.done ++ [{ iface := h.iface, opcode := op, status := st, tag := h.tag, payload := payload }] ∧
    sendReply s h op st payload = { s with host := { s.host with done := (sendReply s h op st payload).host.done } })

/-- NOP, DEVICE_INFO, DEVICE_STATUS and RING_CONTROL. Accepted, they answer ST_OK: NOP with its parameters, up to 256 bytes; DEVICE_INFO
with identity, serial, versions, permits, link and port types; DEVICE_STATUS with DEV_STATE, the highest junction temperature, the bound
states and the station states. Neither changes anything. RING_CONTROL disables a ring, and with op 1 starts it again with its indices at
0; it replies unless it acts on the ring that carried it. Each of these forms completes, exec answering a next state under conditions on
the state and operands alone: NOP, DEVICE_INFO, DEVICE_STATUS, RING_CONTROL. -/
def Obligations.DeviceCommands : Prop :=
  ∀ (s : State) (h : CmdHdr) (ps : List Byte),
    (Accepted s h 0x0100 0 → ps.length ≤ 256 → Answers (.nop h ps) s h 0x0100 s ps) ∧
    (Accepted s h 0x0101 0 → Answers (.deviceInfo h []) s h 0x0101 s
      (leBytes 4 (devId s) ++ leBytes 8 s.fuses.serial.toNat ++ leBytes 4 (fwVersion s) ++ leBytes 4 (fusePermit s)
        ++ leBytes 4 (linkInfo s) ++ leBytes 8 s.fuses.rollback ++ ((List.range 6).flatMap fun i => leBytes 4 (s.fw.components.getD i 0))
        ++ leBytes 8 0 ++ portTypes ++ leBytes 32 0)) ∧
    (Accepted s h 0x0102 0 → ∃ payload, Answers (.deviceStatus h []) s h 0x0102 s payload ∧ payload.length = 64 ∧
      payload.take 8 = leBytes 4 (devState s) ++ leBytes 2 (ofSigned 16 s.env.tjMax) ++ [0, 0] ∧
      (payload.drop 8).take 4 = leBytes 1 (boundState s .west) ++ leBytes 1 (boundReason s .west) ++ leBytes 1 (boundState s .east)
        ++ leBytes 1 (boundReason s .east) ∧
      ∀ k, k < 17 → payload[16 + k]? = some (BitVec.ofNat 8 (getStn s k).st)) ∧
    (Accepted s h 0x0103 0 → ps.length = 4 → leAt ps 0 1 ≤ 7 → leAt ps 2 2 = 0 →
      let n := leAt ps 0 1
      let off := disableRing s n
      let back := modRing off n fun r => { r.start with sqTail := 0, cqHead := 0 }
      (sget {} off.host.rings n).enable = false ∧
      ((∀ k : Fin 8, h.iface = .ring k → k.val ≠ n) → (leAt ps 1 1 = 0 → Answers (.ringControl h ps) s h 0x0103 (settleAttn off) []) ∧
        (leAt ps 1 1 = 1 → Answers (.ringControl h ps) s h 0x0103 (settleAttn back) [])) ∧
      ((∃ k : Fin 8, h.iface = .ring k ∧ k.val = n) → (leAt ps 1 1 = 0 → exec (.ringControl h ps) s = .next (settleAttn off)) ∧
        (leAt ps 1 1 = 1 → exec (.ringControl h ps) s = .next (settleAttn back))))

/-- PARAM_GET and PARAM_SET. PARAM_GET of 1 to 64 IDs answers one entry per ID with its status and value; the command status is that of
the first failed entry, and reading a clear-on-read parameter clears it. PARAM_SET of entries that all succeed answers ST_OK with their
number and 0xFFFF; when an entry fails, the entries before it stand, and the reply names it with its status. A read of a plain device
parameter gives its value in its length and changes nothing. Each of these forms completes, exec answering a next state under conditions
on the state and operands alone: PARAM_GET, PARAM_SET. -/
def Obligations.ParameterCommands : Prop :=
  ∀ (s : State) (h : CmdHdr) (ps : List Byte),
    (Accepted s h 0x0200 0 → ps.length % 4 = 0 → 4 ≤ ps.length → ps.length ≤ 256 →
      let ids := (List.range (ps.length / 4)).map fun i => leAt ps (4 * i) 4
      exec (.paramGet h ps) s = .next (sendReply (getAll s ids).1 h 0x0200 (getAll s ids).2.1 (getAll s ids).2.2)) ∧
    (∀ id rest p ix, pinfo id = some (p, ix) → p.scope ≠ .ed → p.scope ≠ .rc →
      getAll s (id :: rest) = ((getAll s rest).1, (getAll s rest).2.1,
        leBytes 4 id ++ leBytes 2 0 ++ leBytes 2 (paramBytes s id p ix).length ++ padTo (paramBytes s id p ix) 4 ++ (getAll s rest).2.2)) ∧
    (∀ id rest, pinfo id = none → (getAll s (id :: rest)).2.1 = stBadParam) ∧
    (∀ id rest p ix, pinfo id = some (p, ix) → p.scope = .rc → (getAll s (id :: rest)).1 = (getAll (clearParam s id ix) rest).1) ∧
    (Accepted s h 0x0201 0 → ∀ es, setEntries ps ps.length = some es → 1 ≤ es.length → es.length ≤ 64 →
      let r := applyEntries setOne s es 0
      (r.2.2 = stOk → Answers (.paramSet h ps) s h 0x0201 r.1 (leBytes 2 r.2.1 ++ [0xFF, 0xFF])) ∧
      (r.2.2 ≠ stOk → exec (.paramSet h ps) s = .next (sendReply r.1 h 0x0201 r.2.2 (leBytes 2 r.2.1 ++ leBytes 2 r.2.1)))) ∧
    (∀ (v u : State) (e : Nat × List Byte) (rest : List (Nat × List Byte)) (n st : Nat) (pl : List Byte),
      applyEntries setOne v [] n = (v, n, stOk) ∧
      (setOne v e.1 e.2 = (u, none) → applyEntries setOne v (e :: rest) n = applyEntries setOne u rest (n + 1)) ∧
      (setOne v e.1 e.2 = (u, some (st, pl)) → st ≠ stOk → applyEntries setOne v (e :: rest) n = (u, n, st))) ∧
    (∀ id bs p ix, pinfo id = some (p, ix) → p.scope = .dev → deviceForm id p ix bs = true →
      togetherOk (applyParam s id ix (leNat bs)) id ix = true → settingBusy s id ix = false →
      settingBreaks s (applyParam s id ix (leNat bs)) id (leNat bs) = false → setOne s id bs = (applyParam s id ix (leNat bs), none)) ∧
    (∀ id bs p ix, pinfo id = some (p, ix) → p.scope ≠ .dev → setOne s id bs = (s, some (stBadParam, [])))

/-- EDITION_OPEN, EDITION_STAGE, PROGRAM_LOAD, EDITION_COMMIT, EDITION_ABORT, EDITION_STATUS and CONTRACT_QUERY. With no staged edition,
OPEN makes one in a staging area written anew, a copy of the newest live edition unless EMPTY is set, owned by the interface. Its owner
stages a parameter value, loads an image and commits it: a commit from an undamaged staging area whose steps all pass and whose buffer
claim fits makes the edition live and answers its serial and time. The owner, or another interface with FORCE, aborts it, which leaves no
staged edition. EDITION_STATUS reports the four tags and CONTRACT_QUERY a contract of a live edition; neither changes anything. Each of
these forms completes, exec answering a next state under conditions on the state and operands alone: EDITION_OPEN, EDITION_STAGE,
PROGRAM_LOAD, EDITION_COMMIT, EDITION_ABORT, EDITION_STATUS, CONTRACT_QUERY. -/
def Obligations.EditionCommands : Prop :=
  ∀ (s : State) (h : CmdHdr) (ps : List Byte),
    (Accepted s h 0x0300 1 → s.ed.staged = none →
      (∀ e, newestEd s = some e → h.flags.getLsbD 0 = false →
        Answers (.editionOpen h []) s h 0x0300
          (setStaged (writeArea s 0 editionArea) (some { owner := h.iface, vals := e.vals, images := e.images })) []) ∧
      (newestEd s = none ∨ h.flags.getLsbD 0 = true →
        Answers (.editionOpen h []) s h 0x0300 (setStaged (writeArea s 0 editionArea) (some { owner := h.iface })) [])) ∧
    (∀ x, s.ed.staged = some x → x.owner = h.iface → s.ed.wait = none →
      (Accepted s h 0x0301 0 → ∀ id bs p ix, setEntries ps ps.length = some [(id, bs)] → pinfo id = some (p, ix) → p.scope = .ed →
        inForm p bs = true → recordOk id (leNat bs) = true →
        Answers (.editionStage h ps) s h 0x0301 (setStaged s (some { x with vals := sset (preset id) x.vals id (leNat bs) }))
          [1, 0, 0xFF, 0xFF]) ∧
      (Accepted s h 0x0302 0 → 4 ≤ ps.length → leAt ps 1 3 = 0 → imageOk (ps.drop 4) = true →
        Answers (.programLoad h ps) s h 0x0302
          (setStaged s (some { x with images := sset none x.images (leAt ps 0 1) (some (ps.drop 4)) })) []) ∧
      (Accepted s h 0x0304 1 → Answers (.editionAbort h []) s h 0x0304 (setStaged s none) []) ∧
      (Accepted s h 0x0303 0 → s.prep = none → s.buf.claim = 0 →
        let s0 := { s with ed := { s.ed with committed := true } }
        areaPoisoned s0 0 editionArea = false →
        let live := (liveEds s0).map (·.2)
        let e0 : Live := { vals := x.vals, images := x.images }
        let e1 := { e0 with prog := programCommit s0 live e0 }
        ∀ e2 e3, structureOk s0 live e1 = true → verifyEdition s0 live e1 = .ok e2 → liveEd s0 (nextSerial s0 % 4) = none →
          admitEdition s0 live e2 = .ok e3 → spaceStatus live (newestEd s0) e3 = none →
          (raiseOf s0 (minimaOf s0 (e3 :: live)) : Int) ≤ sharedFolios s0 →
          let u := applyCommit s0 e3 (minimaOf s0 (e3 :: live))
          Answers (.editionCommit h []) s h 0x0303 u (leBytes 4 u.store.serial ++ leBytes 4 0 ++ timeRecord (now u)))) ∧
    (∀ x, s.ed.staged = some x → x.owner ≠ h.iface → h.flags.getLsbD 0 = true → s.ed.wait = none → Accepted s h 0x0304 1 →
      Answers (.editionAbort h []) s h 0x0304 (setStaged s none) []) ∧
    (Accepted s h 0x0305 0 → Answers (.editionStatus h []) s h 0x0305 s
      (editionRecord s 0 ++ editionRecord s 1 ++ editionRecord s 2 ++ editionRecord s 3)) ∧
    (Accepted s h 0x0306 0 → ps.length = 8 → leAt ps 6 2 = 0 → ∀ e f,
      (if leAt ps 0 4 = 0 then newestEd s else ((liveEds s).map (·.2)).find? fun e => e.serial = leAt ps 0 4) = some e →
      sget none e.figs (leAt ps 4 2) = some f → Answers (.contractQuery h ps) s h 0x0306 s (contractPayload s e (leAt ps 4 2) f))

/-- MAC_FLUSH, LPM_ROUTE_ADD, LPM_ROUTE_DELETE and LEARN_STATUS. MAC_FLUSH enters one event into the learn sequence and answers when it is
applied. LPM_ROUTE_ADD of one record with room puts the route under its handle, keeps every other route and answers the handle and 0xFFFF.
LPM_ROUTE_DELETE of one record frees the handle of the route and answers 0, or answers 1 and changes nothing when there is no such route.
LEARN_STATUS answers the queued events of the halves. Each of these forms completes, exec answering a next state under conditions on the
state and operands alone: MAC_FLUSH, LPM_ROUTE_ADD, LPM_ROUTE_DELETE, LEARN_STATUS. -/
def Obligations.TableCommands : Prop :=
  ∀ (s : State) (h : CmdHdr) (ps : List Byte),
    (Accepted s h 0x0400 1 → ps.length = 12 → leAt ps 0 1 ≤ 3 → leAt ps 1 1 ≤ 63 → leAt ps 10 2 = 0 →
      (∀ e ∈ s.tbl.learnQ, isFlushCmd e.kind = false) → ∃ u e, exec (.macFlush h ps) s = .next u ∧ isFlushCmd e.kind = true ∧
        e.stamp = nowStamp s ∧ u.tbl.learnQ.length = s.tbl.learnQ.length + 1 ∧ e ∈ u.tbl.learnQ ∧
        u = { s with tbl := { s.tbl with learnQ := u.tbl.learnQ, learnOrder := s.tbl.learnOrder + 1 } }) ∧
    (∀ x, ps.length = 24 → routeOf (leAt ps 0 1) (leAt ps 1 1) (bytesAt ps 8 16) (leAt ps 4 4) = some x → leAt ps 2 2 = 0 →
      Accepted s h 0x0401 0 →
      (findRoute s x.family x.len x.pfx).isSome = true ∨ routeCount s 4 + 4 * routeCount s 6 + (if x.family = 4 then 1 else 4) ≤ 1048576 →
      ∃ u hd, Answers (.lpmRouteAdd h ps) s h 0x0401 u (leBytes 4 hd ++ [0xFF, 0xFF]) ∧ sget none u.tbl.routes hd = some x ∧
        (∀ j, j ≠ hd → sget none u.tbl.routes j = sget none s.tbl.routes j) ∧
        ∀ j, findRoute s x.family x.len x.pfx = some j → hd = j) ∧
    (∀ x, ps.length = 18 → routeOf (leAt ps 0 1) (leAt ps 1 1) (bytesAt ps 2 16) 0 = some x → Accepted s h 0x0402 0 →
      (findRoute s x.family x.len x.pfx = none → Answers (.lpmRouteDelete h ps) s h 0x0402 s [1]) ∧
      (∀ hd, findRoute s x.family x.len x.pfx = some hd → ∃ u, Answers (.lpmRouteDelete h ps) s h 0x0402 u [0] ∧
        sget none u.tbl.routes hd = none ∧ ∀ j, j ≠ hd → sget none u.tbl.routes j = sget none s.tbl.routes j)) ∧
    (Accepted s h 0x0403 0 → Answers (.learnStatus h []) s h 0x0403 s
      (leBytes 2 (heldEvents s 0) ++ leBytes 6 0 ++ leBytes 2 (heldEvents s 1) ++ leBytes 6 0))

/-- The seven time commands. TIME_GET answers the time record, the state, the rate and validity; TIME_STATUS the state, source, step
window, remaining slew and signals; neither changes anything. With no servo in control and no step window, TIME_SET and TIME_STEP to a
different time set Datum to it, end a slew and open the step window. With no servo in control TIME_ADJUST starts a slew of the offset at
the rate and TIME_FREQ sets the frequency. TIME_TXSTAMP_READ answers the stored transmit stamps of a port and clears them. Each of these
forms completes, exec answering a next state under conditions on the state and operands alone: TIME_GET, TIME_SET, TIME_STEP, TIME_ADJUST,
TIME_FREQ, TIME_TXSTAMP_READ, TIME_STATUS. -/
def Obligations.TimeCommands : Prop :=
  ∀ (s : State) (h : CmdHdr) (ps : List Byte),
    (Accepted s h 0x0500 0 → Answers (.timeGet h []) s h 0x0500 s
      (timeRecord (now s) ++ leBytes 1 s.datum.st ++ leBytes 8 (ofSigned 64 (rateNow s.datum)) ++ leBytes 1 (b2n s.datum.valid))) ∧
    (s.datum.st ≠ 1 → s.datum.stepWin = none →
      (∀ n, Accepted s h 0x0501 0 → ps.length = 16 → recordUnits ps = some n → n / 2 ^ 16 ≠ now s / 2 ^ 16 →
        ∃ u, Answers (.timeSet h ps) s h 0x0501 u [] ∧ u.datum.units = n ∧ u.datum.slew = none ∧ u.datum.valid = true ∧
          u.datum.stepWin.isSome = true) ∧
      (∀ n, Accepted s h 0x0502 0 → ps.length = 10 → offsetTarget s (offset16 ps true) = some n → n / 2 ^ 16 ≠ now s / 2 ^ 16 →
        ∃ u, Answers (.timeStep h ps) s h 0x0502 u [] ∧ u.datum.units = n ∧ u.datum.slew = none ∧ u.datum.valid = true ∧
          u.datum.stepWin.isSome = true)) ∧
    (s.datum.st ≠ 1 → Accepted s h 0x0503 0 → ps.length = 14 →
      let d := offset16 ps false
      let rate := leAt ps 10 4
      let r : Int := s.datum.freq + (if d < 0 then -(rate : Int) else rate) * 65536
      1 ≤ rate → rate ≤ 1000000 → -maxOffset ≤ r → r ≤ maxOffset → (offsetTarget s d).isSome = true →
      ∃ u w, Answers (.timeAdjust h ps) s h 0x0503 u [] ∧ u.datum.slew = some w ∧ w.offset = d ∧ w.rate.natAbs = rate ∧
        u.datum.units = s.datum.units ∧ u.datum.freq = s.datum.freq) ∧
    (s.datum.st ≠ 1 → Accepted s h 0x0504 0 → ps.length = 8 →
      let f := toSigned 64 (leAt ps 0 8)
      f ≤ maxOffset → -maxOffset ≤ f → -maxOffset ≤ rateSum { s.datum with freq := f } → rateSum { s.datum with freq := f } ≤ maxOffset →
      ∃ u, Answers (.timeFreq h ps) s h 0x0504 u [] ∧ u.datum.freq = f ∧ u.datum.units = s.datum.units ∧ u.datum.slew = s.datum.slew) ∧
    (Accepted s h 0x0505 0 → ps.length = 1 → leAt ps 0 1 < 32 →
      ∃ u, Answers (.timeTxstampRead h ps) s h 0x0505 u (sget [] s.datum.txStamps (leAt ps 0 1)).flatten ∧
        sget [] u.datum.txStamps (leAt ps 0 1) = [] ∧
        ∀ q, q ≠ leAt ps 0 1 → sget [] u.datum.txStamps q = sget [] s.datum.txStamps q) ∧
    (Accepted s h 0x0506 0 → ∃ payload, Answers (.timeStatus h []) s h 0x0506 s payload ∧
      payload.take 3 = leBytes 1 s.datum.st ++ leBytes 1 s.datum.src ++ leBytes 1 (b2n s.datum.stepWin.isSome) ∧ payload.length = 13)

/-- CAPTURE_TRIGGER, CAPTURE_RELEASE and CAPTURE_STATUS. A trigger that finds no earlier one in its cycle and no open window, but a free
one, opens it for this source and answers it with the time; with an open window it is merged into it. A release of a frozen window frees
it, of a free one does nothing. CAPTURE_STATUS answers the log's head, sequence numbers and the four windows, and changes nothing. Each of
these forms completes, exec answering a next state under conditions on the state and operands alone: CAPTURE_TRIGGER, CAPTURE_RELEASE,
CAPTURE_STATUS. -/
def Obligations.CaptureCommands : Prop :=
  ∀ (s : State) (h : CmdHdr) (ps : List Byte),
    (Accepted s h 0x0600 0 → sameCycle s = none →
      (∀ w, openWin s = none → freeWin s = some w → w < 4 → ∃ u, Answers (.captureTrigger h []) s h 0x0600 u
          (leBytes 1 w ++ [0, 0, 0] ++ timeRecord (now s)) ∧
        (getWin u w).st = wOpen ∧ (getWin u w).sources = 0x20 ∧ (getWin u w).trigger = now s ∧ ∀ x, x ≠ w → getWin u x = getWin s x) ∧
      (∀ w, openWin s = some w → w < 4 → ∃ u, Answers (.captureTrigger h []) s h 0x0600 u
          (leBytes 1 w ++ [1, 0, 0] ++ timeRecord (now s)) ∧
        (getWin u w).sources = (getWin s w).sources ||| 0x20 ∧ ∀ x, x ≠ w → getWin u x = getWin s x)) ∧
    (Accepted s h 0x0601 0 → ps.length = 4 → leAt ps 0 1 < 4 → leAt ps 1 3 = 0 →
      ((getWin s (leAt ps 0 1)).st = wFrozen → ∃ u, Answers (.captureRelease h ps) s h 0x0601 u [] ∧ getWin u (leAt ps 0 1) = {} ∧
        ∀ x, x ≠ leAt ps 0 1 → getWin u x = getWin s x) ∧
      ((getWin s (leAt ps 0 1)).st = wFree → Answers (.captureRelease h ps) s h 0x0601 s []) ∧
      ((getWin s (leAt ps 0 1)).st = wOpen → exec (.captureRelease h ps) s = .next (sendReply s h 0x0601 stBusy []))) ∧
    (Accepted s h 0x0602 0 → ∃ payload, Answers (.captureStatus h []) s h 0x0602 s payload ∧
      (payload.drop 8).take 8 = leBytes 4 s.hbm.seq ++ leBytes 4 (oldestSeq s) ∧
      payload.drop 16 = winBytes s (getWin s 0) ++ winBytes s (getWin s 1) ++ winBytes s (getWin s 2) ++ winBytes s (getWin s 3))

/-- STATION_RETIRE, STATION_READMIT, STATION_STATUS and TASK_READ. For a station 0 to 16: RETIRE of a spare takes it out of service, of
one already out or failed changes nothing, and of one in service that leaves seven stations to its half, or with FORCE, starts its drain
and makes its role vacant. READMIT of a station that is out or failed starts or queues its preparation and answers later. STATION_STATUS
answers role, state, halted and the occupied entries, TASK_READ the entries asked for; neither changes anything. Each of these forms
completes, exec answering a next state under conditions on the state and operands alone: STATION_RETIRE, STATION_READMIT, STATION_STATUS,
TASK_READ. -/
def Obligations.StationCommands : Prop :=
  ∀ (s : State) (h : CmdHdr) (ps : List Byte), ps.length = 4 → leAt ps 0 1 ≤ 16 →
    let k := leAt ps 0 1
    let st := getStn s k
    (leAt ps 1 3 = 0 →
      (Accepted s h 0x0700 1 →
        (st.st = ssSpare → ∃ u, Answers (.stationRetire h ps) s h 0x0700 u [] ∧ (getStn u k).st = ssOut ∧ (getStn u k).role = roleNone) ∧
        (st.st = ssOut ∨ st.st = ssFailed → Answers (.stationRetire h ps) s h 0x0700 s []) ∧
        (st.st = ssInService → (h.flags.getLsbD 0 = true ∨ ∃ hf, roleHalf st.role = some hf ∧ 7 ≤ (servingStations s hf).length - 1) →
          ∃ u, Answers (.stationRetire h ps) s h 0x0700 u [] ∧ (getStn u k).st = ssDraining ∧ (getStn u k).drain.isSome = true ∧
            u.vacant = s.vacant ++ [st.role])) ∧
      (Accepted s h 0x0701 0 → st.st = ssOut ∨ st.st = ssFailed → readmitWaits s k = false →
        (s.prep = none → checkRunning s = false → s.ed.wait = none → ∃ u p, exec (.stationReadmit h ps) s = .next u ∧ u.prep = some p ∧ p.s = k ∧
          p.readmit = some h ∧ (getStn u k).st = ssPreparing) ∧
        (s.prep.isSome = true → exec (.stationReadmit h ps) s =
          .next { s with readmits := s.readmits ++ [{ s := k, target := none, readmit := some h }] })) ∧
      (Accepted s h 0x0702 0 → Answers (.stationStatus h ps) s h 0x0702 s
        (leBytes 1 st.role ++ leBytes 1 st.st ++ leBytes 1 (b2n st.halted) ++ [0] ++ leBytes 2 (occupied st).length
          ++ leBytes 2 (spresent st.shelf).length))) ∧
    (Accepted s h 0x0703 0 → 1 ≤ leAt ps 1 1 → leAt ps 1 1 ≤ 64 → leAt ps 2 2 + leAt ps 1 1 ≤ 4096 →
      Answers (.taskRead h ps) s h 0x0703 s
        ((List.range (leAt ps 1 1)).flatMap fun i => taskBytes st (getTask s k (leAt ps 2 2 + i))))

/-- THREAD_HALT, THREAD_RESUME, CONTEXT_READ, LOCK_READ, LOCK_WRITE and CHANNEL_FLUSH. With DEBUG permitted: HALT of a thread that is not
running, or that holds nothing, halts it at once and answers its snapshot entry; HALT of a thread that holds something, has issued END,
handles a trap or runs an emulation handler asks it to stop and answers later; RESUME of a thread that is not halted does nothing, of a
halted one lets it go on with its context; CONTEXT_READ answers the 72 bytes of the entry. Without DEBUG they are answered
ST_NO_PERMISSION. LOCK_READ answers the word. LOCK_WRITE by the interface's identity acquires a free lock and answers the word as it then
reads. CHANNEL_FLUSH empties a channel and answers how many messages were freed. Each of these forms completes, exec answering a next
state under conditions on the state and operands alone: THREAD_HALT, THREAD_RESUME, CONTEXT_READ, LOCK_READ, LOCK_WRITE, CHANNEL_FLUSH. -/
def Obligations.DebugAndLockCommands : Prop :=
  ∀ (s : State) (h : CmdHdr) (ps : List Byte), ps.length = 4 →
    (s.fuses.debug = false → (Accepted s h 0x0704 0 → exec (.threadHalt h ps) s = .next (sendReply s h 0x0704 stNoPermission [])) ∧
      (Accepted s h 0x0705 0 → exec (.threadResume h ps) s = .next (sendReply s h 0x0705 stNoPermission [])) ∧
      (Accepted s h 0x0706 0 → exec (.contextRead h ps) s = .next (sendReply s h 0x0706 stNoPermission []))) ∧
    (s.fuses.debug = true → ∀ k l, threadParam ps = some (k, l) →
      (Accepted s h 0x0704 0 → (getStn s k).st ≠ ssPreparing → ∀ e, freeSnapshot (getStn s k) = some e → (getThr s k l).halt = none →
        (((getThr s k l).st ≠ .halted ∧ (getThr s k l).st ≠ .running ∧ (getThr s k l).st ≠ .trapped) ∨ ((getThr s k l).st = .running ∧
            holdsAny s k l = false ∧ (getThr s k l).ended = false ∧ inEmu (getStn s k) l = false) → ∃ u, Answers (.threadHalt h ps) s h 0x0704 u (leBytes 2 e ++ [0, 0]) ∧
          (getThr u k l).st = .halted ∧ (getStn u k).halted = true ∧ ∃ x, sget none (getStn u k).shelf e = some x ∧ x.lane = l) ∧
        (((getThr s k l).st = .running ∧ (holdsAny s k l = true ∨ (getThr s k l).ended = true ∨ inEmu (getStn s k) l = true)) ∨
            (getThr s k l).st = .trapped → ∃ u r, exec (.threadHalt h ps) s = .next u ∧
          (getThr u k l).halt = some r ∧ r.entry = e ∧ r.hdr = some h ∧ u.host = s.host)) ∧
      (Accepted s h 0x0705 0 → ((getThr s k l).st ≠ .halted → Answers (.threadResume h ps) s h 0x0705 s []) ∧
        (∀ e x, (getThr s k l).st = .halted → haltedEntry (getStn s k) l = some (e, x) → x.thread.st = .running → x.thread.wait = none →
          ∃ u, Answers (.threadResume h ps) s h 0x0705 u [] ∧ (getThr u k l).st = .running ∧ (getThr u k l).g = x.thread.g ∧
            (getThr u k l).pc = x.thread.pc ∧ sget none (getStn u k).shelf e = none))) ∧
    (s.fuses.debug = true → Accepted s h 0x0706 0 → leAt ps 0 1 ≤ 16 → leAt ps 2 2 ≤ 511 → leAt ps 1 1 = 0 → ∀ x,
      sget none (getStn s (leAt ps 0 1)).shelf (leAt ps 2 2) = some x →
      Answers (.contextRead h ps) s h 0x0706 s (contextBytes s.clk x.thread x.frozen) ∧ (contextBytes s.clk x.thread x.frozen).length = 72) ∧
    (Accepted s h 0x0707 0 → leAt ps 0 1 ≤ 63 → leAt ps 1 1 ≤ 63 → leAt ps 2 2 = 0 →
      lockPermitted s (ifaceMaster h.iface) (leAt ps 0 1) = true →
      Answers (.lockRead h ps) s h 0x0707 s (leBytes 2 (lockWord s (64 * leAt ps 0 1 + leAt ps 1 1)).toNat ++ [0, 0])) ∧
    (Accepted s h 0x0708 0 → leAt ps 0 1 ≤ 63 → leAt ps 1 1 ≤ 63 → lockPermitted s (ifaceMaster h.iface) (leAt ps 0 1) = true →
      let w := 64 * leAt ps 0 1 + leAt ps 1 1
      leAt ps 2 2 = ifaceMaster h.iface → lockHeld (lockWord s w) = false → (heldBy s (ifaceMaster h.iface)).length < 64 →
      ∃ u, Answers (.lockWrite h ps) s h 0x0708 u (leBytes 2 (lockWord u w).toNat ++ [0, 0]) ∧
        lockWord u w = 0x8000 ||| (lockWord s w &&& 0x4000) ||| BitVec.ofNat 16 (ifaceMaster h.iface) ∧
        ∀ x, x ≠ w → lockWord u x = lockWord s x) ∧
    (Accepted s h 0x0709 0 → leAt ps 0 1 ≤ 1 → leAt ps 2 2 = 0 →
      let c := getChan s (leAt ps 0 1) (leAt ps 1 1)
      ∃ u, Answers (.channelFlush h ps) s h 0x0709 u (leBytes 1 c.pub.length ++ [0, 0, 0]) ∧
        getChan u (leAt ps 0 1) (leAt ps 1 1) = { c with pub := [] })

/-- The six image commands. BEGIN within the size limit, with no transfer or trial in progress, opens an empty transfer of that length.
DATA at the next offset, within the length, appends its bytes. END of a complete image that passes every check leaves the journal
VERIFIED; an invalid one, or one below the anti-rollback counter, empties the transfer and is answered so. ACTIVATE of a verified image
starts the overwrite, asks for the reset, or pauses, as the image requires. ABORT of a transfer drops it. STATUS answers the journal's
state and changes nothing. Each of these forms completes, exec answering a next state under conditions on the state and operands alone:
IMAGE_BEGIN, IMAGE_DATA, IMAGE_END, IMAGE_ACTIVATE, IMAGE_ABORT, IMAGE_STATUS. -/
def Obligations.ImageCommands : Prop :=
  ∀ (s : State) (h : CmdHdr) (ps : List Byte),
    (Accepted s h 0x0800 0 → ps.length = 8 → leAt ps 4 4 = 0 → leAt ps 0 4 ≤ fwImgLimit s.fuses.inPlace →
      s.store.journal.state = jIdle ∨ s.store.journal.state = jInterrupted → ∃ u, Answers (.imageBegin h ps) s h 0x0800 u [] ∧
        u.store.journal.state = jReceiving ∧ u.store.journal.length = leAt ps 0 4 ∧ targetBytes u = []) ∧
    (Accepted s h 0x0801 0 → 5 ≤ ps.length → ps.length ≤ 1028 → s.store.journal.state = jReceiving →
      leAt ps 0 4 = (targetBytes s).length → (targetBytes s).length + (ps.length - 4) ≤ s.store.journal.length →
      ∃ u, Answers (.imageData h ps) s h 0x0801 u [] ∧ targetBytes u = targetBytes s ++ ps.drop 4 ∧ u.store.journal = s.store.journal) ∧
    (Accepted s h 0x0802 0 → s.store.journal.state = jReceiving → (targetBytes s).length = s.store.journal.length →
      match checkFw s.fuses (targetBytes s) with
      | .good => ∃ u, Answers (.imageEnd h []) s h 0x0802 u (endPayload s (targetBytes s)) ∧
        u.store.journal.state = jVerified ∧ u.store.journal.digest = sha384 (targetBytes s) ∧
        u.store.journal.level = fwImgLevel (targetBytes s)
      | .rollback => exec (.imageEnd h []) s = .next (sendReply (dropTransfer s) h 0x0802 stImageRollback [])
      | .invalid => exec (.imageEnd h []) s = .next (sendReply (dropTransfer s) h 0x0802 stImageInvalid [])) ∧
    (Accepted s h 0x0803 0 → s.store.journal.state = jVerified → s.ed.wait = none → s.prep = none →
      (s.fuses.inPlace = true → ∃ u, Answers (.imageActivate h []) s h 0x0803 u [] ∧ u.store.journal.state = jActivating ∧
        u.fw.overwrite = true ∧ u.fw.busy = true) ∧
      (s.fuses.inPlace = false → needsReset s (targetBytes s) = true → ∃ u, Answers (.imageActivate h []) s h 0x0803 u [] ∧
        u.store.journal.state = jActivating ∧ u.fw.resetAsked = some .activation) ∧
      (s.fuses.inPlace = false → needsReset s (targetBytes s) = false → ∃ u, Answers (.imageActivate h []) s h 0x0803 u [] ∧
        u.store.journal.state = jTrial ∧ u.fw.pause = true ∧ u.fw.busy = true)) ∧
    (Accepted s h 0x0804 0 →
      (s.store.journal.state = jReceiving ∨ s.store.journal.state = jVerified → ∃ u, Answers (.imageAbort h []) s h 0x0804 u [] ∧
        u.store.journal.state = jIdle ∧ u.fuses = s.fuses)) ∧
    (Accepted s h 0x0805 0 → s.store.journal.state ≠ jInterrupted → ∃ payload, Answers (.imageStatus h []) s h 0x0805 s payload ∧
      payload.length = 32 ∧ payload.head? = some (BitVec.ofNat 8 s.store.journal.state) ∧
      payload[6]? = some (BitVec.ofNat 8 s.fuses.rollback))

/-- LOG_READ, FAULT_STATUS and FAULT_CLEAR. LOG_READ of 1 to 32 entries answers 128 bytes for each, zeros for an entry that holds none,
and changes nothing. FAULT_STATUS answers the number of latched pairs, the highest class, the pin and the total, then the pairs, and
changes nothing. FAULT_CLEAR answers with the latched critical pairs cleared and conditions that still hold reported again. Each of these
forms completes, exec answering a next state under conditions on the state and operands alone: LOG_READ, FAULT_STATUS, FAULT_CLEAR. -/
def Obligations.LogAndFaultCommands : Prop :=
  ∀ (s : State) (h : CmdHdr) (ps : List Byte),
    (Accepted s h 0x0900 0 → ps.length = 4 → 1 ≤ leAt ps 2 1 → leAt ps 2 1 ≤ 32 → leAt ps 3 1 = 0 →
      Answers (.logRead h ps) s h 0x0900 s ((List.range (leAt ps 2 1)).flatMap fun i =>
        ((sget none s.store.log ((leAt ps 0 2 + i) % 65536)).map logBytes).getD (List.replicate 128 0))) ∧
    (Accepted s h 0x0901 0 → ∃ payload, Answers (.faultStatus h []) s h 0x0901 s payload ∧
      payload.take 2 = leBytes 2 ((spresent s.flt.pairs).filter fun kp => kp.2.latched).length ∧
      (payload.drop 3).take 5 = leBytes 1 (b2n (!faultPending s)) ++ leBytes 4 s.flt.total) ∧
    (Accepted s h 0x0902 0 → Answers (.faultClear h []) s h 0x0902 (settleAttn (reportConditions (clearPairs s))) [] ∧
      (s.flt.pairs = [] → s.flt.tempOut = false → s.flt.supplyOut = 0 → 12 ≤ popcount s.hbm.healthy.toNat 16 →
        (∀ te ∈ liveEds s, te.2.stuck ≠ 2) → reportConditions (clearPairs s) = s))

/-- Writes of command-ring registers, doorbells, ATTN_MASK and other BAR0 registers. With the host link up: CMD_CFG of a disabled ring
with ENABLE, a legal size and indices within it starts the ring empty with its phase 1, and of an enabled ring does nothing; SQ_TAIL,
CQ_HEAD, the event-ring head, the packet-ring doorbells and ATTN_MASK take the value written, and CQ_HEAD frees the completions before it;
a write of SCRATCH changes that register alone; an unaligned write changes nothing. Every other ring stays as it was. With the link down
nothing changes. Each of these forms completes, exec answering a next state under conditions on the state and operands alone:
CMD_CFG_ENABLE, CMD_SQ_TAIL_WRITE, CMD_CQ_HEAD_WRITE, EVENT_DOORBELL_WRITE, TX_DOORBELL_WRITE, RX_DOORBELL_POSTED, RX_DOORBELL_CONSUMED,
ATTN_MASK_WRITE, REGISTER_WRITE. -/
def Obligations.HostRegisterWrites : Prop :=
  ∀ (s : State),
    (s.host.link = false → ∀ (n : Fin 8) (x : Fin 4) (y : Fin 16) (v : BitVec 32) (w off : BitVec 16), exec (.cmdCfgEnable n v) s = .next s ∧
      exec (.cmdSqTailWrite n w) s = .next s ∧ exec (.cmdCqHeadWrite n w) s = .next s ∧ exec (.eventDoorbellWrite w) s = .next s ∧
      exec (.txDoorbellWrite x w) s = .next s ∧ exec (.rxDoorbellPosted y w) s = .next s ∧ exec (.rxDoorbellConsumed y w) s = .next s ∧
      exec (.attnMaskWrite v) s = .next s ∧ exec (.registerWrite off v) s = .next s) ∧
    (s.host.link = true →
      (∀ (n : Fin 8) (v : BitVec 32), (getRing s n.val).enable = true → exec (.cmdCfgEnable n v) s = .next s) ∧
      (∀ (n : Fin 8) (v : BitVec 32), (getRing s n.val).enable = false → v.getLsbD 31 = true → 4 ≤ v.toNat % 32 → v.toNat % 32 ≤ 12 →
        (getRing s n.val).sqTail < 2 ^ (v.toNat % 32) → (getRing s n.val).cqHead < 2 ^ (v.toNat % 32) →
        ∃ u, exec (.cmdCfgEnable n v) s = .next u ∧ (∀ m, m ≠ n.val → getRing u m = getRing s m) ∧
          getRing u n.val = { getRing s n.val with log2n := v.toNat % 32, enable := true, error := false, cause := 0, sqHead := 0, cqTail := 0,
                                                   phase := true, running := none, cq := [] }) ∧
      (∀ (n : Fin 8) (v : BitVec 16), ∃ u, exec (.cmdSqTailWrite n v) s = .next u ∧ (getRing u n.val).sqTail = v.toNat ∧
        ∀ m, m ≠ n.val → getRing u m = getRing s m) ∧
      (∀ (n : Fin 8) (v : BitVec 16), ∃ u, exec (.cmdCqHeadWrite n v) s = .next u ∧ (getRing u n.val).cqHead = v.toNat ∧
        (∀ m, m ≠ n.val → getRing u m = getRing s m) ∧ ∃ k, (getRing u n.val).cq = (getRing s n.val).cq.drop k) ∧
      (∀ v : BitVec 16, ∃ u k, exec (.eventDoorbellWrite v) s = .next u ∧ u.host.events = s.host.events.drop k ∧
        u.host.eventHead = match eventRingSize s with
          | none => v.toNat
          | some n => v.toNat % n) ∧
      (∀ (n : Fin 4) (v : BitVec 16), ∃ u, exec (.txDoorbellWrite n v) s = .next u ∧ (sget {} u.host.txRings n.val).prod = v.toNat ∧
        (sget {} u.host.txRings n.val).cons = (sget {} s.host.txRings n.val).cons ∧
        ∀ m, m ≠ n.val → sget {} u.host.txRings m = sget {} s.host.txRings m) ∧
      (∀ (n : Fin 16) (v : BitVec 16),
        (∃ u, exec (.rxDoorbellPosted n v) s = .next u ∧ (getRx u n.val).posted = v.toNat ∧ (getRx u n.val).descs = (getRx s n.val).descs ∧
          ∀ m, m ≠ n.val → getRx u m = getRx s m) ∧
        (∃ u k, exec (.rxDoorbellConsumed n v) s = .next u ∧ (getRx u n.val).consumed = v.toNat ∧
          (getRx u n.val).descs = (getRx s n.val).descs.drop k ∧ ∀ m, m ≠ n.val → getRx u m = getRx s m)) ∧
      (∀ v : BitVec 32, ∃ u, exec (.attnMaskWrite v) s = .next u ∧ u.host.attnMask = v &&& 0xFFF ∧ u.host.rings = s.host.rings) ∧
      (∀ v : BitVec 32, exec (.registerWrite 0x18 v) s = .next { s with host := { s.host with scratch := v } } ∧
        exec (.registerWrite 0x30 v) s = .next { s with host := { s.host with eventBaseLo := v &&& 0xFFFFF000 } } ∧
        exec (.registerWrite 0x34 v) s = .next { s with host := { s.host with eventBaseHi := v } }) ∧
      (∀ (off : BitVec 16) (v : BitVec 32), off.toNat % 4 ≠ 0 → exec (.registerWrite off v) s = .next s))

/-- The table window: direct words, widths, and the lock protocol. With the host link up: an aligned write of four bytes in the general
region changes exactly its four bytes, lowest byte first, and one of eight bytes acts as two in ascending order; a lock of an unlocked
stream entry with a staging slot free copies the entry with LOCK set and changes no byte of table memory; a staged write changes one word
of the staged copy, its reserved bits staying zero, and no byte of table memory; a commit of a stream entry frees the slot and writes the
staged copy with the final word, its reserved bits zero, to the entry alone. An unaligned write, one of another width, and a write of a
read-only region, are counted only. Each of these forms completes, exec answering a next state under conditions on the state and operands
alone: TABLE_WINDOW_WRITE, TABLE_ENTRY_LOCK, TABLE_ENTRY_STAGE, TABLE_ENTRY_COMMIT. -/
def Obligations.TableWindow : Prop :=
  ∀ (s : State) (addr : BitVec 26) (v : BitVec 32), s.host.link = true →
    let a := addr.toNat
    let h := (a / 0x400000 + 1) % 2
    let e := streamBase h + (a - streamBase h) / 64 * 64
    let word := leBytes 4 v.toNat
    (a % 4 ≠ 0 → exec (.tableWindowWrite addr word) s = .next (pinc s pidHostWindowBad)) ∧
    (∀ data : List Byte, data.length ≠ 4 → data.length ≠ 8 ∨ a % 8 ≠ 0 →
      exec (.tableWindowWrite addr data) s = .next (pinc s pidHostWindowBad)) ∧
    (∀ (w : BitVec 32) (u : State), a % 8 = 0 → exec (.tableWindowWrite addr word) s = .next u →
      exec (.tableWindowWrite addr (word ++ leBytes 4 w.toNat)) s = exec (.tableWindowWrite (addr + 4) (leBytes 4 w.toNat)) u) ∧
    (a % 4 = 0 → regionOf a = .general → ∃ u, exec (.tableWindowWrite addr word) s = .next u ∧
      ∀ x, tblByte u x = if a ≤ x ∧ x < a + 4 then byteAt word (x - a) else tblByte s x) ∧
    (a % 4 = 0 → regionOf a = .mac 1 ∨ regionOf a = .exact 1 ∨ regionOf a = .policer → exec (.tableWindowWrite addr word) s =
      .next (pinc s pidTblWindowRoWrite)) ∧
    (regionOf a = .stream h →
      (a = e + 60 → v.getLsbD 31 = true → slotOf s e = none → ∀ k, freeSlot s = some k → ∃ u l, exec (.tableEntryLock addr v) s = .next u ∧
        sget none u.tbl.slots k = some l ∧ l.addr = e ∧ l.since = s.clk ∧ l.copy.length = 64 ∧ bitOf (leAt l.copy 60 4) 31 = true ∧
        u.tbl.mem = s.tbl.mem) ∧
      (∀ k l, slotOf s e = some (k, l) → l.addr = e → l.len = 64 →
        (a % 4 = 0 → a ≠ e + 60 → ∃ u, exec (.tableEntryStage addr v) s = .next u ∧ u.tbl.mem = s.tbl.mem ∧
          sget none u.tbl.slots k = some { l with copy := putBytes l.copy (a - e) (leBytes 4 (v &&& fieldBits e (a - e)).toNat) }) ∧
        (a = e + 60 → v.getLsbD 31 = false → l.copy.length = 64 → ∃ u, exec (.tableEntryCommit addr v) s = .next u ∧
          sget none u.tbl.slots k = none ∧ ∀ x, tblByte u x =
            if e ≤ x ∧ x < e + 64 then byteAt (putBytes l.copy 60 (leBytes 4 (v &&& 0xFF800000).toNat)) (x - e) else tblByte s x))) ∧
    (∀ i, 439 ≤ i → i ≤ 502 → regionOf e = .stream h → (fieldBits e (i / 32 * 4)).getLsbD (i % 32) = false)

/-- Commands are taken from the rings and completed in order. With commands accepted: when round robin gives a ring whose entry and packet
pass their checks (those that host memory answers over CXL, those that HBM holds over PCIe), the ring runs that command and its head moves
by one; a header that fails is answered at once. When no interface is ready nothing happens. The completion of a ring's first reply
removes it from the waiting replies, appends the completion with its status and tag, advances the tail and lets the ring run the next
command; over PCIe HBM then holds the completion entry behind the submission entries. Over PCIe an address outside the host region stops
the ring with cause 4. Without a waiting reply nothing happens. Each of these forms completes, exec answering a next state under
conditions on the state and operands alone: COMMAND_ACCEPT, COMMAND_COMPLETE. -/
def Obligations.CommandChannel : Prop :=
  ∀ (s : State),
    (accepting s = false → ∀ f, exec (.commandAccept f) s = .next s) ∧
    (accepting s = true → roundRobin 9 s.host.lastAcc (ifaceReady s) = none → ∀ f, exec (.commandAccept f) s = .next s) ∧
    (∀ (k : Fin 8) (f : Fetched), accepting s = true → roundRobin 9 s.host.lastAcc (ifaceReady s) = some k.val → s.host.cxl = false →
      fetchPcie s k.val = none → ∃ u, exec (.commandAccept f) s = .next u ∧ (getRing u k.val).enable = false ∧
        (getRing u k.val).error = true ∧ (getRing u k.val).cause = 4) ∧
    (∀ (k : Fin 8) (f : Fetched) (e bytes : List Byte), accepting s = true → roundRobin 9 s.host.lastAcc (ifaceReady s) = some k.val →
      entryOk e = true → ((s.host.cxl = true ∧ f = .packet e bytes) ∨ (s.host.cxl = false ∧ fetchPcie s k.val = some (.packet e bytes))) →
      ∃ u, exec (.commandAccept f) s = .next u ∧ u.host.lastAcc = k.val ∧ ∃ r, (getRing u k.val).running = some r ∧
        r.opcode = leAt bytes 0 2 ∧ r.tag = BitVec.ofNat 32 (leAt bytes 4 4) ∧ r.params = bytes.drop 16 ∧
        (getRing u k.val).sqHead = ((getRing s k.val).sqHead + 1) % (getRing s k.val).size ∧
        (∀ st, headerStatus bytes (leAt e 8 4) = some st → u.host.done = s.host.done ++
          [{ iface := .ring k, opcode := leAt bytes 0 2, status := st, tag := BitVec.ofNat 32 (leAt bytes 4 4) }]) ∧
        (headerStatus bytes (leAt e 8 4) = none → u.host.done = s.host.done)) ∧
    (∀ (i : Iface) (w : WriteEnd), firstReply s i = none → exec (.commandComplete i w) s = .next s) ∧
    (∀ (n : Fin 8) (r : Reply) (run : Running), firstReply s (.ring n) = some r → (getRing s n.val).running = some run →
      run.tag = r.tag → run.opcode = r.opcode →
      let at' := (getRing s n.val).base + 32 * (getRing s n.val).size + 16 * (getRing s n.val).cqTail
      (s.host.cxl = true ∨ inHost s at' 16 = true → ∃ u c, exec (.commandComplete (.ring n) .ok) s = .next u ∧
        (getRing u n.val).running = none ∧ (getRing u n.val).cq = (getRing s n.val).cq ++ [c] ∧ c.status = r.status ∧ c.tag = r.tag ∧
        (getRing u n.val).cqTail = ((getRing s n.val).cqTail + 1) % (getRing s n.val).size ∧
        u.host.done.length + 1 = s.host.done.length ∧ (∀ m, m ≠ n.val → getRing u m = getRing s m) ∧
        (s.host.cxl = false → pcieBytes u at' 16 = completionBytes c)) ∧
      (s.host.cxl = false → inHost s at' 16 = false → ∃ u, exec (.commandComplete (.ring n) .ok) s = .next u ∧
        (getRing u n.val).enable = false ∧ (getRing u n.val).error = true ∧ (getRing u n.val).cause = 4))

/-- Host accesses to the memory behind the host window. With the link up, a read of lines that are not poisoned, and that meets no
uncorrectable error, answers the bytes there, zeros beyond the window; neither it nor a read that touches a poisoned line, which answers
an error, changes a byte. A read that meets an uncorrectable error answers an error too. A write wholly in the host part changes exactly
its bytes, and a read of them then gives what was written. A write wholly in the capture part changes no byte and is counted. With the
link down nothing happens. Each of these forms completes, exec answering a next state under conditions on the state and operands alone:
HOST_MEMORY_ACCESS. -/
def Obligations.HostMemoryWindow : Prop :=
  ∀ (s : State) (off : BitVec 35) (len : Fin 65),
    (s.host.link = false → ∀ a, exec (.hostMemoryAccess off len a) s = .next s) ∧
    (s.host.link = true →
      (∀ err, err ≠ .uncorrectable → rangePoisoned s off.toNat len.val = false → ∃ u, exec (.hostMemoryAccess off len (.read err)) s = .next u ∧
        u.hbm.mem = s.hbm.mem ∧ u.host.memRead = some ((List.range len.val).map fun i => if off.toNat + i < hdmBytes s then bget s.hbm.mem (off.toNat + i) else 0)) ∧
      (∀ err, err ≠ .uncorrectable → rangePoisoned s off.toNat len.val = true → ∃ u, exec (.hostMemoryAccess off len (.read err)) s = .next u ∧
        u.hbm.mem = s.hbm.mem ∧ u.host.memRead = none) ∧
      (∃ u, exec (.hostMemoryAccess off len (.read .uncorrectable)) s = .next u ∧ u.host.memRead = none) ∧
      (∀ data : List Byte, data.length = len.val → captureBytes s ≤ off.toNat → off.toNat + len.val ≤ hdmBytes s →
        ∃ u, exec (.hostMemoryAccess off len (.write data)) s = .next u ∧
          ∀ x, bget u.hbm.mem x = if off.toNat ≤ x ∧ x < off.toNat + len.val then byteAt data (x - off.toNat) else bget s.hbm.mem x) ∧
      (∀ data : List Byte, data.length = len.val → 0 < len.val → off.toNat + len.val ≤ captureBytes s →
        exec (.hostMemoryAccess off len (.write data)) s = .next (pinc s pidHbmHostRoWrite)))

/-- The service port and SMBus. A service frame is ignored while the link is down or the device is BUSY, and counted when it is not
acceptable. An acceptable frame that carries a whole new packet within the limit, with fewer than five commands kept, puts that packet
into the queue. A reassembly older than one second is dropped. A pending reply follows each 100 ms of a running command. One second after
the link went down, the port's locks are freed. The link's state follows its two events. An SMBus read before power-up or in reset answers
nothing, and DEV_ID after it. Each of these forms completes, exec answering a next state under conditions on the state and operands alone:
SERVICE_FRAME_RECEIVED, SERVICE_REASSEMBLY_TIMEOUT, SERVICE_PENDING_REPLY, SERVICE_LINK_DOWN_TIMEOUT, SMBUS_COMMAND,
SERVICE_PORT_LINK_DOWN, SERVICE_PORT_LINK_UP. -/
def Obligations.ServicePortAndSmbus : Prop :=
  ∀ (s : State),
    (∀ bytes, (s.host.svc.link = false ∨ s.fw.busy = true → exec (.serviceFrameReceived bytes) s = .next s) ∧
      (s.host.svc.link = true → s.fw.busy = false → svcAccepts s bytes = false → exec (.serviceFrameReceived bytes) s = .next (pinc s pidSvcRxIgnored)) ∧
      (s.host.svc.link = true → s.fw.busy = false → svcAccepts s bytes = true → s.host.svc.reasm = none → beAt bytes 16 2 = 0 →
        bitOf (leAt bytes 18 1) 0 = false →
        let packet := trimPacket ((bytes.drop 20).take (bytes.length - 24))
        packet.length ≤ maxPacket → svcKept s.host.svc (bytesAt bytes 6 6) (leAt packet 4 4) = none →
        svcPresent s.host.svc (bytesAt bytes 6 6) (leAt packet 4 4) = false →
        s.host.svc.queue.length + b2n s.host.svc.running.isSome < 5 →
        ∃ u, exec (.serviceFrameReceived bytes) s = .next u ∧ u.host.svc.queue = s.host.svc.queue ++ [(bytesAt bytes 6 6, packet)] ∧
          u.host.rings = s.host.rings ∧ u.tbl = s.tbl)) ∧
    (reasmLate s = false → exec .serviceReassemblyTimeout s = .next s) ∧
    (reasmLate s = true → ∃ u, exec .serviceReassemblyTimeout s = .next u ∧ u.host.svc.reasm = none) ∧
    (∀ sa r, s.host.svc.running = some (sa, r) →
      (s.clk < s.host.svc.pendingAt + 125000000 → exec .servicePendingReply s = .next s) ∧
      (s.host.svc.pendingAt + 125000000 ≤ s.clk → ∃ u, exec .servicePendingReply s = .next u ∧ u.host.svc.pendingAt = s.clk ∧
        u.host.svc.sent.head? = some (sa, leBytes 2 r.opcode ++ leBytes 2 stPending ++ leBytes 4 r.tag.toNat ++ leBytes 4 0 ++ leBytes 4 0))) ∧
    (∀ t, s.host.svc.downSince = some t → (s.clk ≤ t + 1250000000 → exec .serviceLinkDownTimeout s = .next s) ∧
      (t + 1250000000 < s.clk → ∃ u, exec .serviceLinkDownTimeout s = .next u ∧ heldBy u 0xF10 = [] ∧ u.host.svc.downSince = none)) ∧
    (s.host.svc.link = true → ∃ u, exec .servicePortLinkDown s = .next u ∧ u.host.svc.link = false ∧ u.host.svc.downSince = some s.clk) ∧
    (s.fw.resetN = true → ∃ u, exec .servicePortLinkUp s = .next u ∧ u.host.svc.link = true ∧ u.host.svc.downSince = none) ∧
    (∀ code : Byte, (s.fw.powered = false ∨ s.fw.resetN = false ∨ s.fw.bootStep = 0 →
        exec (.smbusCommand code) s = .next { s with host := { s.host with smbus := [] } })) ∧
    (s.fw.powered = true → s.fw.resetN = true → 1 ≤ s.fw.bootStep →
      exec (.smbusCommand 0) s = .next { s with host := { s.host with smbus := leBytes 4 (devId s) } })

/-- Power, RESET_N, PERST_N, boot and the update reset. Power-on, RESET_N and a brownout return every volatile part to its reset value and
keep the fuses and, but for the journal's boot record, the record store; the device is then BUSY and not READY. The release of RESET_N
starts a boot: the clock starts at 0, and without PLL lock it ends in a fatal fault. At the end of a boot the device is READY, or in
recovery accepts commands without being READY. PERST_N or the loss of the host link disables every ring and masks every attention source;
PERST_N clears the registers of BAR0. An update reset that the firmware asked for boots again. Each of these forms completes, exec
answering a next state under conditions on the state and operands alone: POWER_ON, RESET_N_ASSERT, RESET_N_RELEASE, BOOT_COMPLETE,
UPDATE_RESET, PERST_N_ASSERT, HOST_LINK_LOSS, VDD_CORE_BROWNOUT, PERST_N_RELEASE, HOST_LINK_TRAINED. -/
def Obligations.ResetsAndBoot : Prop :=
  ∀ (s : State),
    (∃ u, exec .powerOn s = .next u ∧ u.fw.powered = true ∧ u.fw.resetN = false ∧ u.fw.busy = true ∧ u.fw.ready = false ∧ u.fuses = s.fuses ∧
      u.store = s.store ∧ u.tbl = {} ∧ u.locks = [] ∧ u.held = [] ∧ u.stn = State.reset.stn ∧ u.pkts = [] ∧ u.ed = {}) ∧
    (s.fw.resetN = false → exec .resetNAssert s = .next s) ∧
    (s.fw.resetN = true → ∃ u, exec .resetNAssert s = .next u ∧ u.fw.resetN = false ∧ u.fw.busy = true ∧ u.fw.ready = false ∧
      u.fuses = s.fuses ∧ u.store = s.store ∧ u.tbl = {} ∧ u.locks = [] ∧ u.stn = State.reset.stn ∧ u.ed = {}) ∧
    (∃ u, exec .vddCoreBrownout s = .next u ∧ u.fw.powered = false ∧ u.fuses = s.fuses ∧ u.store = s.store ∧ u.tbl = {} ∧ u.stn = State.reset.stn) ∧
    (∀ e : BootEnv, (s.fw.powered = false ∨ s.fw.resetN = true → exec (.resetNRelease e) s = .next s) ∧
      (s.fw.powered = true → s.fw.resetN = false →
        (e.pllLocks = true → ∃ u, exec (.resetNRelease e) s = .next u ∧ u.fw.resetN = true ∧ u.clk = 0 ∧ u.fuses = s.fuses) ∧
        (e.pllLocks = false → ∃ u, exec (.resetNRelease e) s = .next u ∧ u.flt.fatal = true ∧ u.fw.bootStep = 1 ∧ u.fw.ready = false))) ∧
    (s.fw.booting = true → s.flt.fatal = false →
      (s.fw.recovery = true → ∃ u, exec .bootComplete s = .next u ∧ u.fw.bootStep = 15 ∧ u.fw.busy = false ∧ u.fw.ready = s.fw.ready) ∧
      (s.fw.recovery = false → s.hbm.healthy = 0xFFFF → ∃ u, exec .bootComplete s = .next u ∧ u.fw.bootStep = 9 ∧ u.fw.busy = false ∧
        u.fw.ready = true)) ∧
    (s.fw.booting = false → exec .bootComplete s = .next s) ∧
    (∃ u, exec .perstNAssert s = .next u ∧ u.host.perst = true ∧ u.host.link = false ∧ u.host.scratch = 0 ∧ u.host.rings = [] ∧
      u.host.attnMask = 0xFFF ∧ u.tbl = s.tbl ∧ u.ed = s.ed) ∧
    (∃ u, exec .perstNRelease s = .next u ∧ u.host.perst = false ∧ u = { s with host := { s.host with perst := false } }) ∧
    (s.host.link = true → ∃ u, exec .hostLinkLoss s = .next u ∧ u.host.link = false ∧ (∀ n, n < 8 → (getRing u n).enable = false) ∧
      u.host.attnMask = 0xFFF ∧ u.host.scratch = s.host.scratch ∧ u.tbl = s.tbl) ∧
    (∀ (cxl ide : Bool) (w r : Byte), s.fw.resetN = true → 5 ≤ s.fw.bootStep → s.host.perst = false → linkSupported w r = true →
      exec (.hostLinkTrained cxl ide w r) s =
        .next { s with host := { s.host with link := true, cxl := cxl, ide := ide, width := w, rate := r } }) ∧
    (∀ c : UpdCause, s.fw.resetN = true → (s.fw.resetAsked = some c → ∃ u, exec (.updateReset c) s = .next u ∧ u.clk = 0 ∧ u.fuses = s.fuses ∧
        u.fw.resetAsked = none) ∧
      (s.fw.resetAsked ≠ some c → exec (.updateReset c) s = .next s))

/-- Supply and temperature monitors, reference clocks, line links and JTAG. A supply reading within its range, or an out-of-range one at
the end of a condition, changes its reading alone; the start of an excursion sets the supply's condition and latches SUPPLY_RANGE, and a
reading back in range ends it. 24 temperature readings give Tj; Tj beyond the grade's limits starts the condition and latches TEMP_RANGE,
and readings 2 degrees inside the range end it. The loss of a line reference clock takes the links of its eight lanes down; the loss of
CORE_REFCLK after boot is fatal. A port's link follows LINK_DOWN and LINK_UP where the port exists and may come up. JTAG reads IDCODE;
without the debug fuse its lock accesses do nothing, and EXTEST is remembered. That a reading outside its time condition changes nothing
is log entry 3. Each of these forms completes, exec answering a next state under conditions on the state and operands alone:
SUPPLY_RANGE_ENTER, SUPPLY_RANGE_EXIT, TEMP_SAMPLE, REFCLK_LINE_LOSS, CORE_REFCLK_LOSS, LINK_DOWN, LINK_UP, JTAG_ACCESS. -/
def Obligations.MonitorsAndLinks : Prop :=
  ∀ (s : State),
    (∀ (v : Fin 10) (mv : BitVec 16),
      (inRange v.val mv.toNat = true → exec (.supplyRangeEnter v mv) s = .next (pset s (pidIntegSupplyMv v.val) mv.toNat) ∧
        ∃ u, exec (.supplyRangeExit v mv) s = .next u ∧ u.flt.supplyOut.getLsbD v.val = false ∧
          ∀ w : Fin 10, w ≠ v → u.flt.supplyOut.getLsbD w.val = s.flt.supplyOut.getLsbD w.val) ∧
      (inRange v.val mv.toNat = false → exec (.supplyRangeExit v mv) s = .next (pset s (pidIntegSupplyMv v.val) mv.toNat) ∧
        (s.fw.resetN = true → s.flt.supplyOut.getLsbD v.val = false → ∃ u, exec (.supplyRangeEnter v mv) s = .next u ∧
          u.flt.supplyOut.getLsbD v.val = true ∧ Latched u 0x87 0x1B ∧ u.tbl = s.tbl ∧ u.stn = s.stn))) ∧
    (∀ t : List (BitVec 16),
      (t.length ≠ 24 → exec (.tempSample t) s = .next s) ∧
      (t.length = 24 → ∃ u, exec (.tempSample t) s = .next u ∧ (∀ x ∈ t, u.env.tjMin ≤ x.toInt ∧ x.toInt ≤ u.env.tjMax) ∧
        (∃ x ∈ t, u.env.tjMax = x.toInt) ∧ (∃ x ∈ t, u.env.tjMin = x.toInt) ∧ u.stn = s.stn ∧
        (s.fw.resetN = true → s.flt.tempOut = false → ((tjLimits s).2 < u.env.tjMax ∨ u.env.tjMin < (tjLimits s).1) →
          u.flt.tempOut = true ∧ Latched u 0x86 0x1A) ∧
        (s.fw.resetN = true → s.flt.tempOut = true → u.env.tjMax ≤ (tjLimits s).2 - 20 → (tjLimits s).1 + 20 ≤ u.env.tjMin →
          u.flt.tempOut = false))) ∧
    (∀ k : Fin 4, ∃ u, exec (.refclkLineLoss k) s = .next u ∧ ∀ i, i < 8 → (getPort u (lanePort (8 * k.val + i))).link = false) ∧
    (s.fw.resetN = true → 2 ≤ s.fw.bootStep → ∃ u, exec .coreRefclkLoss s = .next u ∧ u.flt.fatal = true ∧ u.fw.busy = true ∧
      u.fw.ready = false ∧ Latched u 0x88 0x1C ∧ u.stn = s.stn) ∧
    (s.fw.resetN = false ∨ s.fw.bootStep < 2 → exec .coreRefclkLoss s = .next s) ∧
    (∀ p : Fin 32, ((getPort s p.val).link = false → exec (.linkDown p) s = .next s) ∧
      ((getPort s p.val).link = true → ∃ u, exec (.linkDown p) s = .next u ∧ (getPort u p.val).link = false ∧ (getPort u p.val).tx = none ∧
        ∀ q, q ≠ p.val → (getPort u q).link = (getPort s q).link) ∧
      (∃ u, exec (.linkUp p) s = .next u ∧
        (getPort u p.val).link = ((getPort s p.val).link || (decide (portTypeOf p.val ≠ 0) && !s.fw.portsDown && s.fw.resetN)) ∧
        (∀ q, q ≠ p.val → getPort u q = getPort s q) ∧ u.buf = s.buf ∧ u.stn = s.stn)) ∧
    exec (.jtagAccess .idcode) s = .next { s with env := { s.env with jtag := BitVec.ofNat 32 idcode } } ∧
    exec (.jtagAccess .boundaryScan) s = .next s ∧
    exec (.jtagAccess .extest) s = .next { s with env := { s.env with extest := true } } ∧
    (∀ (g : Fin 64) (w : Fin 64) (v : BitVec 16),
      (s.fuses.debug = false → exec (.jtagAccess (.lockRead g w)) s = .next s ∧ exec (.jtagAccess (.lockWrite g w v)) s = .next s) ∧
      (s.fuses.debug = true → lockPermitted s debuggerId g.val = true →
        exec (.jtagAccess (.lockRead g w)) s = .next { s with env := { s.env with
          jtag := BitVec.ofNat 32 (lockWord s (64 * g.val + w.val)).toNat } } ∧
        (lockWord s (64 * g.val + w.val) = 0 → heldBy s debuggerId = [] → v.toNat = debuggerId →
          ∃ u, exec (.jtagAccess (.lockWrite g w v)) s = .next u ∧
            lockWord u (64 * g.val + w.val) = 0x8000 ||| BitVec.ofNat 16 debuggerId ∧
            ∀ j, j ≠ 64 * g.val + w.val → lockWord u j = lockWord s j)))

/-- Reception, parser, classifier entry, admission check and PTP messages. A frame on a port whose link is down has no effect; one that
arrives in an activation pause is counted only, as is one that the reassembly of a field port does not give; a frame with a bad FCS, a
runt or an oversize frame is counted only; an accepted frame takes folios and queues its packet at the parser. A parser takes the first
packet, fills its descriptor, and passes it to the classifier. The classifier discards a packet with no edition, and passes a packet that
matches a rule to the admission check, entered under the newest tag. Admission turns a packet of a full domain into a hole. A PTP message
is built only with a clock type, on an enabled port, where the profile uses it, and enters with ingress port 34; a second message takes
the stamp that it carries out of the transmit stamps of its port, and without that stamp none is built. Each of these forms completes,
exec answering a next state under conditions on the state and operands alone: FRAME_RECEIVED, PARSE, CLASSIFY, ADMISSION_CHECK,
PTP_MESSAGE_INTERVAL. -/
def Obligations.PacketEntry : Prop :=
  ∀ (s : State),
    (∀ (p : Fin 32) (bytes : List Byte) (latch : Nat) (x : BitVec 4) (asm : RxAsm),
      let a : RxAsm := if p.val < 16 then .whole else asm
      let t := countAsm s p.val a
      ((getPort s p.val).link = false → exec (.frameReceived p ⟨bytes, asm⟩ latch x) s = .next s) ∧
      ((getPort s p.val).link = true → s.fw.pause = true → exec (.frameReceived p ⟨bytes, asm⟩ latch x) s = .next (pinc s pidFwPauseRxDrop)) ∧
      ((getPort s p.val).link = true → s.fw.pause = false → asmGives a = false → exec (.frameReceived p ⟨bytes, asm⟩ latch x) s = .next t) ∧
      ((getPort s p.val).link = true → s.fw.pause = false → asmGives a = true →
        (fcsGood bytes = false → exec (.frameReceived p ⟨bytes, asm⟩ latch x) s = .next (pinc t (pidMacPortRxFcsErr p.val))) ∧
        (fcsGood bytes = true → bytes.length < 64 → exec (.frameReceived p ⟨bytes, asm⟩ latch x) s = .next (pinc t (pidMacPortRxRunt p.val))) ∧
        (fcsGood bytes = true → 9216 < bytes.length →
          exec (.frameReceived p ⟨bytes, asm⟩ latch x) s = .next (pinc t (pidMacPortRxOversize p.val))) ∧
        (fcsGood bytes = true → 64 ≤ bytes.length → bytes.length ≤ 9216 →
          (writeFrame t p.val 65 bytes = none → exec (.frameReceived p ⟨bytes, asm⟩ latch x) s = .next (pinc t (pidMacPortRxNoFolio p.val))) ∧
          (∀ v fs, writeFrame t p.val 65 bytes = some (v, fs) → ∃ u q, exec (.frameReceived p ⟨bytes, asm⟩ latch x) s = .next u ∧
            u.buf = v.buf ∧ getPkt u (fs.headD 0) = some q ∧ q.stage = .received ∧ q.folios = fs ∧ q.half = portHalf p.val ∧
            q.arrived = s.clk ∧ fs.headD 0 ∈ (getHalf u (portHalf p.val)).rxQ ∧
            (getHalf u (portHalf p.val)).rxQ.length = (getHalf s (portHalf p.val)).rxQ.length + 1)))) ∧
    (∀ (h : Hf) (i : Nat) (rest : List Nat),
      (s.fw.pause = true ∨ (getHalf s h).rxQ = [] → exec (.parse h) s = .next s) ∧
      (s.fw.pause = false → (getHalf s h).rxQ = i :: rest → ∀ p, getPkt s i = some p → ∃ u q, exec (.parse h) s = .next u ∧
        (getHalf u h).rxQ = rest ∧ (getHalf u h).clsQ = (getHalf s h).clsQ ++ [i] ∧ getPkt u i = some q ∧ q.stage = .parsed ∧
        q.reason = (parsePacket s p).reason ∧ q.folios = p.folios ∧ q.head = p.head ∧ u.buf = s.buf ∧ u.stn = s.stn ∧ u.tbl = s.tbl) ∧
      ((getHalf s h).clsQ = [] → exec (.classify h) s = .next s) ∧
      ((getHalf s h).clsQ = i :: rest → ∀ p, getPkt s i = some p → p.half = h →
        (p.get fPass = 0 → s.ed.newest = none → p.copies = 0 → p.trap = none → ∃ u, exec (.classify h) s = .next u ∧
          getPkt u i = none ∧ (getHalf u h).clsQ = rest ∧ u.stn = s.stn ∧ u.tbl = s.tbl) ∧
        (∀ t e nr, p.get fPass = 0 → s.ed.newest = some t → liveEd s t = some e → p.reason = 0 → p.direct = none →
          matchRule e (getHalf s h) (keyOf e (p.put fTag t) (profileOf e ((p.put fTag t).get fPathCode) ((p.put fTag t).get fIngress)))
            (profileOf e ((p.put fTag t).get fPathCode) ((p.put fTag t).get fIngress)) = some nr →
          ∃ u q, exec (.classify h) s = .next u ∧ getPkt u i = some q ∧ q.stage = .classified ∧ q.reason = 0 ∧ q.folios = p.folios ∧
            (getHalf u h).clsQ = rest ∧ (getHalf u h).admQ = (getHalf s h).admQ ++ [i] ∧
            sget 0 u.ed.tagCount (4 * hIdx h + t) = sget 0 s.ed.tagCount (4 * hIdx h + t) + 1 ∧ u.stn = s.stn ∧ u.tbl = s.tbl)) ∧
      ((getHalf s h).admQ = [] → exec (.admissionCheck h) s = .next s) ∧
      ((getHalf s h).admQ = i :: rest → ∀ p, getPkt s i = some p → p.half = h → p.direct = none → p.reason = 0 → p.domainFull = true →
        ∃ u q, exec (.admissionCheck h) s = .next u ∧ getPkt u i = some q ∧ q.hole = true ∧ q.stage = .checked ∧
          (getHalf u h).admQ = rest ∧ (getHalf u h).relQ = (getHalf s h).relQ ++ [i] ∧ u.stn = s.stn ∧ u.tbl = s.tbl)) ∧
    (∀ (p : Fin 32) (m : PtpMsg) (h : Hf) (frame : List Byte),
      (pget s pidPtpClockType = 0 ∨ pget s (pidPtpPortEnable p.val) = 0 ∨ s.fw.ready = false ∨ ptpAllowed s m frame = false →
        exec (.ptpMessageInterval p m h frame) s = .next s) ∧
      (∀ ty, followed m = some ty → ownStamp s p.val ty = none → exec (.ptpMessageInterval p m h frame) s = .next s) ∧
      (pget s pidPtpClockType ≠ 0 → pget s (pidPtpPortEnable p.val) ≠ 0 → s.fw.ready = true → frame.length ≤ 9212 →
        ptpAllowed s m frame = true → ∀ r, (followed m = none ∧ r = []) ∨ (∃ ty, followed m = some ty ∧ ownStamp s p.val ty = some r) →
        ∀ t fs, writeFrame s 34 65 (sealFrame (ptpFrame s p.val m r frame)) = some (t, fs) → ∃ u q,
          exec (.ptpMessageInterval p m h frame) s = .next u ∧ u.buf = t.buf ∧ getPkt u (fs.headD 0) = some q ∧ q.half = h ∧
          q.stage = .received ∧ fs.headD 0 ∈ (getHalf u h).rxQ ∧ (sget [] u.datum.txStamps p.val).length =
            (sget [] s.datum.txStamps p.val).length - (if (followed m).isSome then 1 else 0)))

/-- Dispatch, residency scan, operation timer, stall reports and a forced halt. With no candidate a dispatch cycle changes nothing; a
single ready candidate with a free thread starts there, and the thread and the task run. A residency scan looks at one task-store entry
and moves on to the next; an entry that is not past its limit is left alone. An operation timer that has not expired does nothing; an
expired one is cleared. Stall reports come only when due. A halted request that has waited less than 4,096 cycles, or whose thread has
issued END, is trapped or runs an emulation handler, does nothing; after that the thread is halted, the locks of its task are freed and
its context stands in the entry that the request named. Each of these forms completes, exec answering a next state under conditions on the
state and operands alone: DISPATCH, RESIDENCY_SCAN, OPERATION_TIMER, STATION_STALL, STATION_STALL_LONG, FORCED_HALT. -/
def Obligations.DispatchAndStalls : Prop :=
  ∀ (s : State),
    (∀ k : Fin 17,
      let cs := firstCands 4 ((occupied (getStn s k.val)).filterMap fun it => candOf s.clk (getStn s k.val) it.1 it.2);
      (cs = [] → exec (.dispatch k) s = .next s) ∧
      (∀ (c : Cand) (lane : Nat), cs = [c] → (getTask s k.val c.idx).st = .ready → taskOver s (getTask s k.val c.idx) = false →
        placeLane s k.val (getTask s k.val c.idx) = some lane → ∃ u, exec (.dispatch k) s = .next u ∧
          (getTask u k.val c.idx).st = .running ∧ (getTask u k.val c.idx).thread = lane ∧ (getThr u k.val lane).st = .running ∧
          (getThr u k.val lane).task = c.idx ∧ (getThr u k.val lane).since = s.clk ∧
          (∀ l, l ≠ lane → getThr u k.val l = getThr s k.val l) ∧ (∀ j, j ≠ k.val → getStn u j = getStn s j) ∧ u.tbl = s.tbl) ∧
      (scanHits s (getTask s k.val (getStn s k.val).scan) = false → ∃ u, exec (.residencyScan k) s = .next u ∧
        (getStn u k.val).scan = ((getStn s k.val).scan + 1) % 4096 ∧ (getStn u k.val).tasks = (getStn s k.val).tasks ∧
        (∀ l, getThr u k.val l = getThr s k.val l) ∧ (∀ j, j ≠ k.val → getStn u j = getStn s j) ∧ u.pkts = s.pkts) ∧
      (∀ idx : BitVec 12,
        (∀ x, (getTask s k.val idx.toNat).timerAt = some x → s.clk < x → exec (.operationTimer k idx) s = .next s) ∧
        (∀ x, (getTask s k.val idx.toNat).timerAt = some x → x ≤ s.clk → (getTask s k.val idx.toNat).st = .running →
          (getThr s k.val (getTask s k.val idx.toNat).thread).wait = none →
          ∃ u, exec (.operationTimer k idx) s = .next u ∧ (getTask u k.val idx.toNat).timerAt = none ∧
            (getTask u k.val idx.toNat).flags = (getTask s k.val idx.toNat).flags |||
              flagBit (edGet s (getTask s k.val idx.toNat).tag
                (pidDispGraphOpTimerFlag (getTask s k.val idx.toNat).graph (getTask s k.val idx.toNat).node)))) ∧
      (stallDue s k.val 4096 1 = false → exec (.stationStall k) s = .next s) ∧
      (stallDue s k.val 4096 1 = true → ∃ u, exec (.stationStall k) s = .next u ∧
        (getStn u k.val).stallSeen = (getStn s k.val).stallSeen + 1 ∧ u.flt.total = satAdd 32 s.flt.total 1 ∧ u.tbl = s.tbl) ∧
      (stallDue s k.val (largestBound s + 4096) 2 = false → exec (.stationStallLong k) s = .next s) ∧
      (stallDue s k.val (largestBound s + 4096) 2 = true → ∃ u, exec (.stationStallLong k) s = .next u ∧
        (getStn u k.val).stallSeen = (getStn s k.val).stallSeen + 2 ∧ Latched u k.val 0x06 ∧ u.tbl = s.tbl)) ∧
    (∀ t : Tid,
      ((thrOf s t).halt = none → exec (.forcedHalt t) s = .next s) ∧
      (∀ r, (thrOf s t).halt = some r →
        (s.clk < r.since + 4096 ∨ (thrOf s t).ended = true ∨ (thrOf s t).st = .trapped ∨ inEmu (getStn s t.stn.val) (tlane t) = true →
          exec (.forcedHalt t) s = .next s) ∧
        (r.since + 4096 ≤ s.clk → (thrOf s t).ended = false → (thrOf s t).st ≠ .trapped → inEmu (getStn s t.stn.val) (tlane t) = false →
          ∃ u x, exec (.forcedHalt t) s = .next u ∧ (thrOf u t).st = .halted ∧ (thrOf u t).halt = none ∧
          heldTask u (masterId t.stn.val (tlane t)) (thrOf s t).task = [] ∧
          sget none (getStn u t.stn.val).shelf r.entry = some x ∧ x.kind = .halted ∧ x.lane = tlane t ∧
          (getStn u t.stn.val).halted = true)))

/-- Fault abort, drain by corrected errors, end of a drain, preparation, admission and the spare's self-check. An uncorrectable error
takes a station in service, draining, preparing or spare to FAILED, without a role and remembered as failed; in another state the stations
stay as they are. Too many corrected errors start a drain of a station in service and fail the spare. A drain ends when no task is left or
its deadline has come; the station is then OUT, or FAILED where the drain leads there. A preparation starts for the first waiting request,
or for the first vacant role and spare station, and none while a commit waits; one that passes puts the station in service under its role,
or leaves it spare, and one that fails, or whose image copy in HBM has a poisoned line, takes it to FAILED and its role to the vacant
ones. A self-check touches only the spare, and none runs before its period has passed. Each of these forms completes, exec answering a
next state under conditions on the state and operands alone: FAULT_ABORT, CE_RATE_DRAIN, DRAIN_END, PREPARATION_START, STATION_ADMIT,
SPARE_CHECK. -/
def Obligations.StationEvents : Prop :=
  ∀ (s : State),
    (∀ (k : Fin 17) (e : StnError) (a : BitVec 32), let x := (getStn s k.val).st;
      (x = ssInService ∨ x = ssDraining ∨ x = ssPreparing ∨ x = ssSpare → ∃ u, exec (.faultAbort k e a) s = .next u ∧
        (getStn u k.val).st = ssFailed ∧ (getStn u k.val).role = roleNone ∧ u.store.failed.getLsbD k.val = true ∧
        (∀ j, j ≠ k.val → (getStn u j).st = (getStn s j).st ∧ (getStn u j).role = (getStn s j).role)) ∧
      (¬ (x = ssInService ∨ x = ssDraining ∨ x = ssPreparing ∨ x = ssSpare) → ∃ u, exec (.faultAbort k e a) s = .next u ∧
        u.stn = s.stn ∧ u.store.failed = s.store.failed)) ∧
    (∀ k : Fin 17, let x := (getStn s k.val).st;
      (x = ssInService → ∃ u d, exec (.ceRateDrain k) s = .next u ∧ (getStn u k.val).st = ssDraining ∧
        (getStn u k.val).drain = some d ∧ d.deadline = s.clk + largestBound s + 40 ∧ d.toFailed = true ∧
        (getStn u k.val).tasks = (getStn s k.val).tasks) ∧
      (x = ssSpare → ∃ u, exec (.ceRateDrain k) s = .next u ∧ (getStn u k.val).st = ssFailed ∧ u.store.failed.getLsbD k.val = true) ∧
      (x ≠ ssInService → x ≠ ssSpare → ∃ u, exec (.ceRateDrain k) s = .next u ∧ u.stn = s.stn ∧ u.flt = s.flt)) ∧
    (∀ k : Fin 17,
      ((getStn s k.val).drain = none → exec (.drainEnd k) s = .next s) ∧
      (∀ d, (getStn s k.val).drain = some d →
        (occupied (getStn s k.val) ≠ [] → s.clk < d.deadline → exec (.drainEnd k) s = .next s) ∧
        (occupied (getStn s k.val) = [] ∨ d.deadline ≤ s.clk → d.readmit = none → ∃ u, exec (.drainEnd k) s = .next u ∧
          (getStn u k.val).st = (if d.toFailed then ssFailed else ssOut) ∧ (getStn u k.val).role = roleNone ∧
          (getStn u k.val).drain = none))) ∧
    ((s.prep.isSome = true ∨ checkRunning s = true ∨ s.ed.wait.isSome = true → exec .preparationStart s = .next s) ∧
      (s.prep = none → checkRunning s = false → s.ed.wait = none → s.readmits = [] → ∀ r k rest, s.vacant = r :: rest → firstSpare s = some k →
        ∃ u, exec .preparationStart s = .next u ∧ u.prep = some { s := k, target := some r, since := s.clk } ∧
          (getStn u k).st = ssPreparing ∧ ∀ j, j ≠ k → getStn u j = getStn s j) ∧
      (s.prep = none → checkRunning s = false → s.ed.wait = none → ∀ p rest, s.readmits = p :: rest → ∃ u q, exec .preparationStart s = .next u ∧
        u.prep = some q ∧ q.s = p.s ∧ q.since = s.clk ∧ u.readmits = rest ∧ (getStn u p.s).st = ssPreparing)) ∧
    (∀ c : CheckEnd, s.prep = none → exec (.stationAdmit c) s = .next s) ∧
    (∀ p, s.prep = some p →
      (areaPoisoned s editionArea imageArea = false → ∃ u, exec (.stationAdmit .pass) s = .next u ∧ u.prep = none ∧
        (getStn u p.s).st = (if p.target.isSome then ssInService else ssSpare) ∧ (getStn u p.s).role = p.target.getD roleSpare ∧
        (getStn u p.s).tasks = [] ∧ (∀ j, j ≠ p.s → getStn u j = getStn s j)) ∧
      (∀ c, c = .fail ∨ areaPoisoned s editionArea imageArea = true → ∃ u, exec (.stationAdmit c) s = .next u ∧ u.prep = none ∧
        (getStn u p.s).st = ssFailed ∧
        (∀ r, p.target = some r → r ∈ u.vacant) ∧ (∀ j, j ≠ p.s → getStn u j = getStn s j))) ∧
    (∀ (k : Fin 17) (c : CheckEnd),
      ((getStn s k.val).st ≠ ssSpare ∨ s.prep.isSome = true ∨ s.clk < (getStn s k.val).checked + pget s pidStnSpareCheckS * secCycles →
        exec (.spareCheck k c) s = .next s) ∧
      ((getStn s k.val).st = ssSpare → s.prep = none → (getStn s k.val).checked + pget s pidStnSpareCheckS * secCycles ≤ s.clk →
        (∃ u, exec (.spareCheck k .pass) s = .next u ∧ (getStn u k.val).st = ssSpare ∧ u.spareCheck = some (k.val, s.clk + checkCycles) ∧
          ∀ j, j ≠ k.val → getStn u j = getStn s j) ∧
        (∃ u, exec (.spareCheck k .fail) s = .next u ∧ (getStn u k.val).st = ssFailed ∧ u.store.failed.getLsbD k.val = true)))

/-- Release, recirculation, spill, dequeue, egress edit, the end of a transmission, ports 32 to 34 and the queues' housekeeping. A
complete pass gets its final disposition and waits for its turn. The release unit takes the packet whose turn it is, advances its domain's
next number, and a hole without a capture rule or a copy leaves no packet. A recirculated frame is written again and enters its parser.
The spill writer moves one copy to HBM; a deep read brings one back, or drops it on an uncorrectable error, and only while the prefetch
limit and the shared folios allow. A free port takes the head of the selected queue; on port 35 it goes to the capture writer's staging
buffer. An egress edit either drops the copy or gives the port the bytes to send. At the end of a transmission the held frame, if any,
resumes. Port 32 fills its ring, port 34 empties, and a host transmit descriptor is consumed; over PCIe an address outside the host region
stops the packet ring. A verification result, a gate entry and a queue sample set their own state. Where nothing waits, nothing changes.
Each of these forms completes, exec answering a next state under conditions on the state and operands alone: PASS_COMPLETE, RELEASE,
RECIRCULATE, SPILL, DEEP_READ, DEQUEUE_SELECT, EGRESS_EDIT, TRANSMIT_COMPLETE, HOST_RX_DELIVER, REGISTRAR_RX_DELIVER, HOST_TX_FETCH,
GATE_ENTRY_CHANGE, PREEMPT_VERIFY_RESULT, QUEUE_SAMPLE, FOLIO_CACHE_REFILL. -/
def Obligations.ReleaseAndEgress : Prop :=
  ∀ (s : State),
    (∀ h : Hf,
      ((getHalf s h).relQ.find? (fun i => (getPkt s i).any fun p => p.stage = .complete) = none → exec (.passComplete h) s = .next s) ∧
      (∀ i, (getHalf s h).relQ.find? (fun i => (getPkt s i).any fun p => p.stage = .complete) = some i → ∃ u q,
        exec (.passComplete h) s = .next u ∧ getPkt u i = some q ∧ q.stage = .checked ∧ q.relAt = s.clk ∧
        (getHalf u h).relQ = (getHalf s h).relQ ∧ u.stn = s.stn ∧ u.buf = s.buf) ∧
      (nextRelease s h = none → exec (.release h) s = .next s) ∧
      (∀ i p, nextRelease s h = some i → getPkt s i = some p → p.half = h → ∃ u, exec (.release h) s = .next u ∧
        (getHalf u h).relQ = (getHalf s h).relQ.filter (· != i) ∧
        sget 0 (getHalf u h).next (p.get fDomain) = (if ordered p then (sget 0 (getHalf s h).next (p.get fDomain) + 1) % 65536
          else sget 0 (getHalf s h).next (p.get fDomain)) ∧
        (p.hole = true → p.copies = 0 → holeRule s p = none → getPkt u i = none) ∧ (p.trap = none → u.stn = s.stn) ∧ u.tbl = s.tbl) ∧
      (∀ t, (getPort s (portKey 33 (hIdx h))).tx = some t →
        (t.out = none → exec (.recirculate h) s = .next s) ∧
        (∀ bytes p, t.out = some bytes → getPkt s t.copy.pkt = some p →
          (∃ u, exec (.recirculate h) s = .next u ∧ (getPort u (portKey 33 (hIdx h))).tx = none) ∧
          (∀ v fs, writeFrame (modPort s (portKey 33 (hIdx h)) fun x => { x with tx := none }) 33 65 bytes = some (v, fs) →
            ∃ u q, exec (.recirculate h) s = .next u ∧ getPkt u (fs.headD 0) = some q ∧ q.stage = .received ∧ q.half = p.half ∧
              q.folios = fs ∧ fs.headD 0 ∈ (getHalf u p.half).rxQ))) ∧
      ((getPort s (portKey 33 (hIdx h))).tx = none → exec (.recirculate h) s = .next s)) ∧
    (spillNext s = none → exec .spill s = .next s) ∧
    (∀ key c p, spillNext s = some (key, c) → getPkt s c.pkt = some p → ∃ u, exec .spill s = .next u ∧
      getQueue u key = modFirst (fun x => x.place = 1) (fun x => { x with place := 2, data := chainBytes s p.folios, addr := spillAddr s })
        (getQueue s key) ∧
      (∀ j, j ≠ key → getQueue u j = getQueue s j) ∧ u.pkts = s.pkts) ∧
    (∀ (p : Fin 32) (q : Fin 16) (err : HbmErr), let cs := getQueue s (qKey p.val q.val 0);
      (cs.find? (fun c => c.place = 2) = none → exec (.deepRead p q err) s = .next s) ∧
      (∀ c, cs.find? (fun c => c.place = 2) = some c →
        (pget s pidTmDeepPrefetch < prefetched cs + c.len → exec (.deepRead p q err) s = .next s) ∧
        (sharedFolios s - s.buf.claim < (ceilDiv c.data.length folioData : Nat) → exec (.deepRead p q err) s = .next s) ∧
        (prefetched cs + c.len ≤ pget s pidTmDeepPrefetch → (ceilDiv c.data.length folioData : Nat) ≤ sharedFolios s - s.buf.claim →
          (err = .uncorrectable → ∃ u, exec (.deepRead p q err) s = .next u ∧ getQueue u (qKey p.val q.val 0) = dropFirst (· == c) cs ∧
            u.flt.total = satAdd 32 s.flt.total 1) ∧
          (err ≠ .uncorrectable → ∀ v fs,
            writeFrame (readError (requestRange s c.addr c.data.length) err c.addr) 33 66 c.data = some (v, fs) →
            ∃ u, exec (.deepRead p q err) s = .next u ∧ u.buf = v.buf ∧
              getQueue u (qKey p.val q.val 0) = modFirst (· == c) (fun x => { x with place := 3, data := [], own := fs }) cs)))) ∧
    (∀ (p : Fin 36) (h : Hf), let side := if p.val = 33 then hIdx h else 0; let key := portKey p.val (hIdx h);
      ((getPort s key).tx.isSome = true → interruptible s p.val (getPort s key) = false → exec (.dequeueSelect p h) s = .next s) ∧
      ((getPort s key).tx = none → shaperOk s (shaperKey p.val 16) = true →
        (∀ y, selectQueue s p.val side (getPort s key).held.isSome = (y, none) → ∃ u, exec (.dequeueSelect p h) s = .next u ∧
          getPort u key = (if y.hold || y.tx.isSome then y else { y with tx := y.held, held := none }) ∧ u.tm.queues = s.tm.queues) ∧
        (∀ y q c rest, selectQueue s p.val side (getPort s key).held.isSome = (y, some q) → getQueue s (qKey p.val q side) = c :: rest →
          copyOver s c = false → ∃ u, exec (.dequeueSelect p h) s = .next u ∧ getQueue u (qKey p.val q side) = rest ∧
            u.pkts = s.pkts ∧ u.buf = s.buf ∧ (p.val = 35 → u.hbm.staged = s.hbm.staged ++ [c]) ∧
            (p.val ≠ 35 → ∃ t, (getPort u key).tx = some t ∧ t.copy = c ∧ t.queue = q ∧ t.out = none)))) ∧
    (∀ p : Fin 36,
      ((getPort s (editKey s p.val)).tx = none → exec (.egressEdit p) s = .next s) ∧
      (∀ t, (getPort s (editKey s p.val)).tx = some t → (t.out.isSome = true ∨ p.val = 35 → exec (.egressEdit p) s = .next s) ∧
        (t.out = none → p.val ≠ 35 → ∀ k, getPkt s t.copy.pkt = some k → ∃ u, exec (.egressEdit p) s = .next u ∧
          ((getPort u (editKey s p.val)).tx = none ∨ ∃ x, (getPort u (editKey s p.val)).tx = some x ∧ x.copy = t.copy ∧
            x.queue = t.queue ∧ x.out.isSome = true)))) ∧
    (∀ p : Fin 32,
      ((getPort s p.val).tx = none → exec (.transmitComplete p) s = .next s) ∧
      (∀ t, (getPort s p.val).tx = some t → (t.out = none ∨ s.flt.fatal = true → exec (.transmitComplete p) s = .next s) ∧
        (t.out.isSome = true → s.flt.fatal = false → ∃ u, exec (.transmitComplete p) s = .next u ∧
          (getPort u p.val).tx = (if (getPort s p.val).hold then none else (getPort s p.val).held) ∧
          (∀ k, getPkt s t.copy.pkt = some k → k.copies ≤ 1 → k.stage = .released → getPkt u t.copy.pkt = none) ∧ ∀ q, q ≠ p.val → getPort u q = getPort s q)) ∧
      (∀ ok : Bool, (preemptOn s p.val = false ∨ pget s (pidMacPortPreemptVerify p.val) = 0 → exec (.preemptVerifyResult p ok) s = .next s) ∧
        (preemptOn s p.val = true → pget s (pidMacPortPreemptVerify p.val) ≠ 0 → ∃ u, exec (.preemptVerifyResult p ok) s = .next u ∧
          (getPort u p.val).verify = (if ok then 1 else 2) ∧ (ok = false → u.flt.total = satAdd 32 s.flt.total 1) ∧
          ∀ q, q ≠ p.val → getPort u q = getPort s q)) ∧
      (∃ u, exec (.gateEntryChange p) s = .next u ∧ (getPort u p.val).gcl = portGcl s p.val ∧ u.tm.queues = s.tm.queues ∧
        u.pkts = s.pkts ∧ ∀ q, q ≠ p.val → getPort u q = getPort s q)) ∧
    ((getPort s 32).tx = none → exec .hostRxDeliver s = .next s) ∧
    (∀ t bytes p, (getPort s 32).tx = some t → t.out = some bytes → getPkt s t.copy.pkt = some p →
      (rxRoom s t.queue (bytes.take (bytes.length - 4)).length = false → exec .hostRxDeliver s = .next s) ∧
      (rxRoom s t.queue (bytes.take (bytes.length - 4)).length = true →
        let n := (pieces (pget s (pidHostRxringBufLen t.queue)) (bytes.take (bytes.length - 4))).length
        (s.host.cxl = true ∨ (rxPlaces s t.queue n).isSome = true → ∃ u, exec .hostRxDeliver s = .next u ∧ (getPort u 32).tx = none ∧
          (getRx u t.queue).descs.length = (getRx s t.queue).descs.length + n ∧ ∀ q, q ≠ t.queue → getRx u q = getRx s q) ∧
        (s.host.cxl = false → rxPlaces s t.queue n = none → ∃ u, exec .hostRxDeliver s = .next u ∧ (getRx u t.queue).stopped = true ∧
          getPort u 32 = getPort s 32))) ∧
    ((getPort s 34).tx = none → exec .registrarRxDeliver s = .next s) ∧
    (∀ t bytes p, (getPort s 34).tx = some t → t.out = some bytes → getPkt s t.copy.pkt = some p →
      ∃ u, exec .registrarRxDeliver s = .next u ∧ (getPort u 34).tx = none ∧ (p.trap = none → u.stn = s.stn)) ∧
    (∀ (n : Fin 4) (desc data : List Byte),
      (roundRobin 4 s.host.lastTx (txReady s) ≠ some n.val → exec (.hostTxFetch n desc data) s = .next s) ∧
      (roundRobin 4 s.host.lastTx (txReady s) = some n.val → s.host.cxl = false → txFetchPcie s n.val = none →
        ∃ u, exec (.hostTxFetch n desc data) s = .next u ∧ (getTx u n.val).stopped = true ∧ u.pkts = s.pkts) ∧
      (roundRobin 4 s.host.lastTx (txReady s) = some n.val → ∀ d b, (s.host.cxl = true ∧ d = desc ∧ b = data) ∨
          (s.host.cxl = false ∧ txFetchPcie s n.val = some (d, b)) →
        (leAt d 8 2 < 60 ∨ 9212 < leAt d 8 2 ∨ 1 < leAt d 10 1 ∨ zeros d 11 5 = false →
          ∃ u, exec (.hostTxFetch n desc data) s = .next u ∧ u.host.lastTx = n.val ∧ u.pkts = s.pkts ∧
            (getTx u n.val).cons = ((getTx s n.val).cons + 1) % pget s (pidHostTxringEntries n.val)) ∧
        (60 ≤ leAt d 8 2 → leAt d 8 2 ≤ 9212 → leAt d 10 1 ≤ 1 → zeros d 11 5 = true →
          (writeFrame s 32 65 (sealFrame (fitBytes b (leAt d 8 2))) = none → exec (.hostTxFetch n desc data) s = .next s) ∧
          ∀ v fs, writeFrame s 32 65 (sealFrame (fitBytes b (leAt d 8 2))) = some (v, fs) → ∃ u q,
            exec (.hostTxFetch n desc data) s = .next u ∧ u.host.lastTx = n.val ∧ getPkt u (fs.headD 0) = some q ∧ q.folios = fs ∧
            q.half = hfOf (leAt d 10 1) ∧ (getTx u n.val).cons = ((getTx s n.val).cons + 1) % pget s (pidHostTxringEntries n.val)))) ∧
    (∀ b : Fin 16, ∃ u, exec (.folioCacheRefill b) s = .next u ∧ sget {} u.buf.banks b.val = bankRefill (sget {} s.buf.banks b.val) ∧
      ∀ j, j ≠ b.val → sget {} u.buf.banks j = sget {} s.buf.banks j) ∧
    (now s / (1000 * 2 ^ 32) = s.tm.samples → exec .queueSample s = .next s) ∧
    (now s / (1000 * 2 ^ 32) ≠ s.tm.samples → ∃ u, exec .queueSample s = .next u ∧ u.tm.samples = now s / (1000 * 2 ^ 32) ∧
      u.tm.queues = s.tm.queues ∧ u.pkts = s.pkts)

/-- The capture writer, triggers, fault aggregation, the event log and the HBM controller's own work. The capture writer takes the oldest
copy of its staging buffer: without a capture region it only counts, and a record that fits without padding is written at its place, under
the next sequence number. A window freezes when its post extent ends. A TRIG_IN edge counts only with its mode, outside the hold-off. A
fault report with a reserved source or class, or of a device in reset, changes nothing; another adds one to the total, a critical or fatal
one latches its pair, and a fatal one ends transmission. A coalescing window closes at its time. The oldest waiting log entry is written
at the head with the next number, or dropped above 10,000 a second. A refresh in panic is postponed, up to 8, and without panic none stays
postponed. Self-refresh entry, patrol scrub, whose passes begin at their period, and the temperature reading change their own state. Each
of these forms completes, exec answering a next state under conditions on the state and operands alone: CAPTURE_WRITE,
CAPTURE_WINDOW_FREEZE, TRIG_IN_EDGE, TRIG_OUT_PULSE_END, HBM_REFRESH, HBM_SELF_REFRESH_ENTRY, HBM_PATROL_SCRUB, HBM_TEMP_READ,
FAULT_REPORT, COALESCE_WINDOW_CLOSE, LOG_WRITE. -/
def Obligations.CaptureHbmAndLog : Prop :=
  ∀ (s : State),
    (s.hbm.staged = [] → exec .captureWrite s = .next s) ∧
    (∀ c rest p, s.hbm.staged = c :: rest → getPkt s c.pkt = some p →
      (∃ u, exec .captureWrite s = .next u ∧ u.hbm.staged = rest ∧ (s.hbm.capture = 0 → u.hbm.mem = s.hbm.mem) ∧
        (p.trap = none → u.stn = s.stn)) ∧
      (s.hbm.capture ≠ 0 → s.hbm.full = false → pget s (pidCapRuleTrigger c.rule) ≠ 1 →
        let bs := recordBytes s p c (copyBytes s c) false;
        ∀ off, findPlace (captureBytes s) (guarded s) bs.length s.hbm.head (captureBytes s) [] 16 = (some off, []) → ∃ u,
          exec .captureWrite s = .next u ∧ u.hbm.seq = (s.hbm.seq + 1) % 2 ^ 32 ∧ u.hbm.head = off + bs.length ∧
          ∀ x, bget u.hbm.mem x = if off ≤ x ∧ x < off + bs.length then byteAt bs (x - off) else bget s.hbm.mem x)) ∧
    (∀ w : Fin 4,
      ((getWin s w.val).st = wOpen → (getWin s w.val).untilT ≤ now s → ∃ u, exec (.captureWindowFreeze w) s = .next u ∧
        (getWin u w.val).st = wFrozen ∧ (getWin u w.val).stop = s.hbm.head ∧ (getWin u w.val).records = (getWin s w.val).records) ∧
      ((getWin s w.val).st ≠ wOpen ∨ now s < (getWin s w.val).untilT → exec (.captureWindowFreeze w) s = .next s)) ∧
    (∀ (k : Fin 4) (rising : Bool) (stamp : Nat),
      (pget s (pidCapTrigInMode k.val) ≠ (if rising then 1 else 2) → exec (.trigInEdge k rising stamp) s = .next s) ∧
      (∀ c, sget none s.hbm.trigAt k.val = some c → s.clk ≤ c + pget s (pidCapTrigInHoldoffUs k.val) * 1250 →
        exec (.trigInEdge k rising stamp) s = .next s) ∧
      (pget s (pidCapTrigInMode k.val) = (if rising then 1 else 2) → sget none s.hbm.trigAt k.val = none →
        ∃ u, exec (.trigInEdge k rising stamp) s = .next u ∧ sget none u.hbm.trigAt k.val = some s.clk ∧
          (s.host.cxl = true → u.hbm.mem = s.hbm.mem))) ∧
    (∀ k : Fin 2,
      (sget none s.hbm.trigOut k.val = none → exec (.trigOutPulseEnd k) s = .next s) ∧
      (∀ x, sget none s.hbm.trigOut k.val = some x → (s.clk < x → exec (.trigOutPulseEnd k) s = .next s) ∧
        (x ≤ s.clk → ∃ u, exec (.trigOutPulseEnd k) s = .next u ∧ sget none u.hbm.trigOut k.val = none ∧
          u = { s with hbm := { s.hbm with trigOut := u.hbm.trigOut } }))) ∧
    (∀ (src : BitVec 8) (ty : BitVec 5),
      (∀ (c : Fin 5) (r : BitVec 16) (a0 a1 a2 : BitVec 32),
        ((s.fw.resetN && sourceOk src.toNat && (typeClasses ty.toNat).contains c.val) = false → exec (.faultReport src ty c r a0 a1 a2) s = .next s) ∧
        ((s.fw.resetN && sourceOk src.toNat && (typeClasses ty.toNat).contains c.val) = true → ∃ u,
          exec (.faultReport src ty c r a0 a1 a2) s = .next u ∧
          u.flt.total = satAdd 32 s.flt.total 1 ∧ (clsCritical ≤ c.val → Latched u src.toNat ty.toNat) ∧
          (c.val = clsFatal → u.flt.fatal = true ∧ u.fw.busy = true ∧ u.fw.ready = false) ∧ (c.val ≠ clsFatal → u.fw = s.fw))) ∧
      (getPair s src.toNat ty.toNat = none → exec (.coalesceWindowClose src ty) s = .next s) ∧
      (∀ p, getPair s src.toNat ty.toNat = some p → (p.openWin = false ∨ s.clk < p.closeAt →
          exec (.coalesceWindowClose src ty) s = .next s) ∧
        (p.openWin = true → p.closeAt ≤ s.clk → ∃ u, exec (.coalesceWindowClose src ty) s = .next u ∧
          getPair u src.toNat ty.toNat = some { p with openWin := false } ∧ u.host = s.host))) ∧
    (s.flt.logQ = [] → exec .logWrite s = .next s) ∧
    (∀ e rest, s.flt.logQ = e :: rest → e.cls ≠ clsInfo →
      (s.flt.logSince + 1250000000 ≤ s.clk ∨ s.flt.logCount < 10000 → ∃ u x, exec .logWrite s = .next u ∧ u.flt.logQ = rest ∧
        sget none u.store.log s.store.logHead = some x ∧ x.code = e.code ∧ x.cls = e.cls ∧ x.detail = e.detail ∧ x.seq = s.store.logSeq ∧
        u.store.logHead = (s.store.logHead + 1) % 65536 ∧ u.store.logSeq = (s.store.logSeq + 1) % 2 ^ 32 ∧
        ∀ i, i ≠ s.store.logHead → sget none u.store.log i = sget none s.store.log i) ∧
      (s.clk < s.flt.logSince + 1250000000 → 10000 ≤ s.flt.logCount → ∃ u, exec .logWrite s = .next u ∧ u.flt.logQ = rest ∧
        u.store = s.store ∧ u.flt.logLoss = true)) ∧
    (∀ pc : Fin 32, ∃ u, exec (.hbmRefresh pc) s = .next u ∧ u.hbm.capPanic = capPanicNow s ∧ u.hbm.deepPanic = deepPanicNow s ∧
      sget 0 u.hbm.postponed pc.val = (if capPanicNow s || deepPanicNow s then min 8 (sget 0 s.hbm.postponed pc.val + 1) else 0) ∧
      (∀ j, j ≠ pc.val → sget 0 u.hbm.postponed j = if capPanicNow s || deepPanicNow s then sget 0 s.hbm.postponed j else 0) ∧
      u.hbm.mem = s.hbm.mem) ∧
    (∀ c : Fin 16,
      (s.hbm.healthy.getLsbD c.val = true → pget s pidHbmSrIdleUs ≠ 0 → sget 0 s.hbm.lastReq c.val + pget s pidHbmSrIdleUs * 1250 ≤ s.clk →
        ∃ u, exec (.hbmSelfRefreshEntry c) s = .next u ∧ u.hbm.selfRefresh.getLsbD c.val = true ∧
          u = { s with hbm := { s.hbm with selfRefresh := u.hbm.selfRefresh } }) ∧
      (s.hbm.healthy.getLsbD c.val = false ∨ pget s pidHbmSrIdleUs = 0 ∨
        s.clk < sget 0 s.hbm.lastReq c.val + pget s pidHbmSrIdleUs * 1250 → exec (.hbmSelfRefreshEntry c) s = .next s)) ∧
    (∀ err : HbmErr, (stackLines s = 0 ∨ scrubDue s = false → exec (.hbmPatrolScrub err) s = .next s) ∧
      (stackLines s ≠ 0 → scrubDue s = true → ∃ u, exec (.hbmPatrolScrub err) s = .next u ∧
        u.hbm.scrub = (s.hbm.scrub + 1) % stackLines s ∧
        u.hbm.scrubNext = (if s.hbm.scrub = 0 then s.clk + pget s pidHbmScrubHours * 3600 * secCycles else s.hbm.scrubNext) ∧
        (err = .uncorrectable → sget false u.hbm.poisoned s.hbm.scrub = true ∧ u.flt.total = satAdd 32 s.flt.total 1) ∧
        (err ≠ .uncorrectable → u.hbm.poisoned = s.hbm.poisoned ∧ u.flt = s.flt ∧ u.hbm.mem = s.hbm.mem))) ∧
    (∀ t : BitVec 16, exec (.hbmTempRead t) s = .next { s with hbm := { s.hbm with hot := 850 < toSigned 16 t.toNat } })

/-- Learn events, the peer's batch, the age and damping clocks, the sweepers, a lock timeout and repairs. The learn engine takes the first
event when it is due, and applies it in both copies: a committed window write replaces the entry in both, and a new address takes a free
way. A batch takes at most 64 peer records when it is due, in a packet on its way to the peer port and its queue. The clocks tick at their
times. A sweeper visits one entry at its time and goes on to the next; the stream sweeper marks an idle entry and removes one already
marked. A lock held too long is discarded. A repair copies a damaged exact-match or MAC entry from a clean twin and makes a stream entry
invalid, and a classifier word becomes good again. Before its time each changes nothing. Each of these forms completes, exec answering a
next state under conditions on the state and operands alone: LEARN_EVENT_APPLY, PEER_BATCH_SEND, AGE_CLOCK_TICK, DAMPING_CLOCK_TICK,
MAC_SWEEP_VISIT, STREAM_SWEEP_VISIT, TABLE_LOCK_TIMEOUT, TABLE_REPAIR, CLS_REPAIR. -/
def Obligations.TableMaintenance : Prop :=
  ∀ (s : State),
    (s.tbl.learnQ = [] → exec .learnEventApply s = .next s) ∧
    (∀ e rest, s.tbl.learnQ = e :: rest →
      (evDue s e = false → exec .learnEventApply s = .next s) ∧
      (evDue s e = true → ∀ i bs, e.kind = .commitEntry i bs → i < 524288 → bs.length = 12 → ∃ u, exec .learnEventApply s = .next u ∧
        u.tbl.learnQ = rest ∧ ∀ x, tblByte u x =
          if macBase 0 + 12 * i ≤ x ∧ x < macBase 0 + 12 * i + 12 then byteAt bs (x - (macBase 0 + 12 * i))
          else if macBase 1 + 12 * i ≤ x ∧ x < macBase 1 + 12 * i + 12 then byteAt bs (x - (macBase 1 + 12 * i)) else tblByte s x) ∧
      (evDue s e = true → ∀ q, q < 64 → e.kind = .learn q true → e.key.length = 8 → s.tbl.bad = [] → pget s pidTblLearnMode = 0 →
        searchTab s macPart 0 e.key = .miss → searchTab s macPart 1 e.key = .miss → ∀ i j, freeWay s 0 e.key = some i →
        freeWay s 1 e.key = some j → ∃ u, exec .learnEventApply s = .next u ∧ u.tbl.learnQ = rest ∧
          macGet u 0 i = newEntry e.key q s.tbl.age.toNat ∧ macGet u 1 j = newEntry e.key q s.tbl.age.toNat)) ∧
    (peerDue s = false → exec .peerBatchSend s = .next s) ∧
    (peerDue s = true → ∀ v fs, writeFrame s 34 65 (peerFrame s (s.tbl.peerRecs.take 64)) = some (v, fs) → ∃ u q,
      exec .peerBatchSend s = .next u ∧ u.tbl.peerRecs = s.tbl.peerRecs.drop 64 ∧ u.tbl.peerSince = s.clk ∧
      getPkt u (fs.headD 0) = some q ∧ q.folios = fs ∧ q.half = .west ∧ q.direct = some (pget s pidTblPeerPort, pget s pidTblPeerQueue) ∧
      fs.headD 0 ∈ (getHalf u .west).rxQ) ∧
    (s.fw.bootStep < 8 ∨ s.clk < s.tbl.ageNext → exec .ageClockTick s = .next s) ∧
    (8 ≤ s.fw.bootStep → s.tbl.ageNext ≤ s.clk → exec .ageClockTick s = .next { s with tbl := { s.tbl with
      age := s.tbl.age + 1, ageNext := s.clk + pget s pidTblAgeTickMs * 1250000 } }) ∧
    (s.fw.bootStep < 8 ∨ s.clk < s.tbl.dampNext → exec .dampingClockTick s = .next s) ∧
    (8 ≤ s.fw.bootStep → s.tbl.dampNext ≤ s.clk → exec .dampingClockTick s = .next { s with tbl := { s.tbl with
      damp := s.tbl.damp + 1, dampNext := s.clk + 78125000 } }) ∧
    ((s.fw.bootStep < 8 ∨ (s.clk : Int) < s.tbl.macSweepAt + (s.tbl.macSweep * (pget s pidTblMacSweepMs * 1250000) / 524288 : Nat) →
        exec .macSweepVisit s = .next s) ∧
      (8 ≤ s.fw.bootStep → s.tbl.macSweepAt + (s.tbl.macSweep * (pget s pidTblMacSweepMs * 1250000) / 524288 : Nat) ≤ (s.clk : Int) →
        ∃ u, exec .macSweepVisit s = .next u ∧ u.tbl.macSweep = (if s.tbl.macSweep + 1 < 524288 then s.tbl.macSweep + 1 else 0) ∧
          (s.tbl.macSweep < 524288 → entryBad s (12 * s.tbl.macSweep) 12 = false → (macGet s 0 s.tbl.macSweep).is mValid = false →
            u.tbl.mem = s.tbl.mem ∧ u.tbl.learnQ = s.tbl.learnQ))) ∧
    (∀ h : Hf, let k := hIdx h; let i := sget 0 s.tbl.strSweep k;
      let due := sget 0 s.tbl.strSweepAt k + (i * (pget s pidTblStreamSweepMs * 1250000) / 65536 : Nat);
      (s.fw.bootStep < 8 ∨ (s.clk : Int) < due → exec (.streamSweepVisit h) s = .next s) ∧
      (8 ≤ s.fw.bootStep → due ≤ (s.clk : Int) → i < 65536 → entryBad s (streamBase k + 64 * i) 64 = false →
        ∃ u, exec (.streamSweepVisit h) s = .next u ∧ sget 0 u.tbl.strSweep k = (if i + 1 < 65536 then i + 1 else 0) ∧
          ((strGet s k i).is sValid = false ∨ (strGet s k i).is sStatic = true ∨ strLocked s k i = true → u.tbl.mem = s.tbl.mem) ∧
          ((strGet s k i).is sValid = true → (strGet s k i).is sStatic = false → strLocked s k i = false → (strGet s k i).is sHit = false →
            ((strGet s k i).is sIdle = false → (strGet u k i).is sIdle = true ∧ (strGet u k i).is sValid = true) ∧
            ((strGet s k i).is sIdle = true → (strGet u k i).is sValid = false)))) ∧
    (∀ k : Fin 256,
      (sget none s.tbl.slots k.val = none → exec (.tableLockTimeout k) s = .next s) ∧
      (∀ l, sget none s.tbl.slots k.val = some l →
        (s.clk ≤ l.since + pget s pidTblWindowLockTimeoutMs * 1250000 → exec (.tableLockTimeout k) s = .next s) ∧
        (l.since + pget s pidTblWindowLockTimeoutMs * 1250000 < s.clk → ∃ u, exec (.tableLockTimeout k) s = .next u ∧
          sget none u.tbl.slots k.val = none ∧ u.tbl.mem = s.tbl.mem ∧ u.flt.total = satAdd 32 s.flt.total 1 ∧
          ∀ j, j ≠ k.val → sget none u.tbl.slots j = sget none s.tbl.slots j))) ∧
    (∀ a : BitVec 26,
      (∀ h i, regionOf a.toNat = .mac h → i = (a.toNat - macBase h) / 12 →
        (entryBad s (macBase h + 12 * i) 12 = false → exec (.tableRepair a) s = .next s) ∧
        (entryBad s (macBase h + 12 * i) 12 = true → entryBad s (macBase (1 - h) + 12 * i) 12 = false → ∃ u,
          exec (.tableRepair a) s = .next u ∧ entryBad u (macBase h + 12 * i) 12 = false ∧
          ∀ b, b < 12 → tblByte u (macBase h + 12 * i + b) = tblByte s (macBase (1 - h) + 12 * i + b))) ∧
      (∀ h i, regionOf a.toNat = .stream h → i = (a.toNat - streamBase h) / 64 → entryBad s (streamBase h + 64 * i) 64 = true →
        ∃ u, exec (.tableRepair a) s = .next u ∧ entryBad u (streamBase h + 64 * i) 64 = false ∧ (strGet u h i).is sValid = false)) ∧
    (∀ (h : Hf) (i : Fin 16384) (comparator : Bool), ∃ u, exec (.clsRepair h i comparator) s = .next u ∧
      (comparator = true → (∀ x ∈ (getHalf u h).badComps, x.1 ≠ i.val) ∧ (getHalf u h).badRules = (getHalf s h).badRules) ∧
      (comparator = false → (∀ x ∈ (getHalf u h).badRules, x.1 ≠ i.val) ∧ (getHalf u h).badComps = (getHalf s h).badComps) ∧
      u.tbl = s.tbl ∧ u.stn = s.stn)

/-- Retirement and claims of editions, and the events of an update. An edition retires when it is superseded, its counts are zero and it
is not past the critical report; the two reports of a stuck one come at their times. A waiting commit is applied when its claim is met,
and given up at its deadline; a hold of folios ends at its time. An activation pause ends when no bounded packet is left or the bound has
passed, and the image then runs on trial; an overwrite writes one block; a trial is confirmed within its window, and a failed self-check
or the window's end asks for the reset that falls back. A rollback step raises the fuse counter by one. Out of its condition each changes
nothing. Each of these forms completes, exec answering a next state under conditions on the state and operands alone: EDITION_RETIRE,
RETIRE_STUCK_TIMEOUT, RETIRE_STUCK_CRITICAL, COMMIT_CLAIM_APPLY, CLAIM_HOLD_EXPIRY, ACTIVATION_PAUSE_RESUME, OVERWRITE_BLOCK,
TRIAL_CONFIRM, TRIAL_SELF_CHECK_FAIL, HEALTH_WINDOW_EXPIRY, ROLLBACK_STEP. -/
def Obligations.EditionAndUpdateEvents : Prop :=
  ∀ (s : State),
    (∀ t : Fin 4,
      (liveEd s t.val = none → exec (.editionRetire t) s = .next s ∧ exec (.retireStuckTimeout t) s = .next s ∧
        exec (.retireStuckCritical t) s = .next s) ∧
      (∀ e, liveEd s t.val = some e →
        (e.superAt = none ∨ tagCount s 0 t.val ≠ 0 ∨ tagCount s 1 t.val ≠ 0 ∨ e.stuck = 2 → exec (.editionRetire t) s = .next s) ∧
        (e.superAt.isSome = true → tagCount s 0 t.val = 0 → tagCount s 1 t.val = 0 → e.stuck ≠ 2 → ∃ u, exec (.editionRetire t) s = .next u ∧
          liveEd u t.val = none ∧ (∀ x, x ≠ t.val → liveEd u x = liveEd s x) ∧ u.ed.newest = s.ed.newest) ∧
        (∀ a, e.superAt = some a →
          (e.stuck ≠ 0 ∨ s.clk < a + 2 * retireTime s e → exec (.retireStuckTimeout t) s = .next s) ∧
          (e.stuck = 0 → a + 2 * retireTime s e ≤ s.clk → ∃ u, exec (.retireStuckTimeout t) s = .next u ∧
            liveEd u t.val = some { e with stuck := 1, stuckAt := s.clk } ∧ u.flt.total = satAdd 32 s.flt.total 1)) ∧
        (e.stuck ≠ 1 ∨ s.clk < e.stuckAt + retireTime s e → exec (.retireStuckCritical t) s = .next s) ∧
        (e.stuck = 1 → e.stuckAt + retireTime s e ≤ s.clk → ∃ u, exec (.retireStuckCritical t) s = .next u ∧
          liveEd u t.val = some { e with stuck := 2, stuckAt := s.clk } ∧ Latched u 0x85 0x13))) ∧
    (s.ed.wait = none → exec .commitClaimApply s = .next s) ∧
    (∀ w, s.ed.wait = some w → let m := minimaOf s (w.cand :: (liveEds s).map (·.2));
      ((raiseOf s m : Int) ≤ sharedFolios s → ∃ u, exec .commitClaimApply s = .next u ∧ u.ed.wait = none ∧
        u.ed.newest = some (u.store.serial % 4) ∧ u.buf.minima = m ∧ u.buf.claim = 0 ∧ u.ed.staged = none ∧ ∃ e,
        liveEd u (u.store.serial % 4) = some e ∧ e.serial = u.store.serial ∧ e.actAt = s.clk ∧ e.images = w.cand.images) ∧
      (sharedFolios s < (raiseOf s m : Int) → w.deadline ≤ s.clk → ∃ u, exec .commitClaimApply s = .next u ∧ u.ed.wait = none ∧
        u.ed.live = s.ed.live ∧ u.ed.newest = s.ed.newest) ∧
      (sharedFolios s < (raiseOf s m : Int) → s.clk < w.deadline → exec .commitClaimApply s = .next s)) ∧
    (s.buf.claim ≠ 0 → s.buf.claimUntil ≤ s.clk → exec .claimHoldExpiry s = .next { s with buf := { s.buf with claim := 0, claimUntil := 0 } }) ∧
    (s.buf.claim = 0 ∨ s.clk < s.buf.claimUntil → exec .claimHoldExpiry s = .next s) ∧
    (s.fw.pause = false ∨ (boundedLeft s = true ∧ s.clk ≤ s.fw.trialAt + largestBound s) → exec .activationPauseResume s = .next s) ∧
    (s.fw.pause = true → boundedLeft s = false ∨ s.fw.trialAt + largestBound s < s.clk → ∃ u, exec .activationPauseResume s = .next u ∧
      u.fw.pause = false ∧ u.fw.trial = true ∧ u.fw.trialAt = s.clk ∧ u.fw.busy = s.flt.fatal ∧ u.fw.ready = !s.flt.fatal ∧
      u.fw.version = fwImgVersion (targetBytes s) ∧ u.stn = s.stn) ∧
    (s.fw.overwrite = false ∨ fwImgBlocks s.store.journal.length ≤ s.store.journal.nextBlock → exec .overwriteBlock s = .next s) ∧
    (s.fw.overwrite = true → s.store.journal.nextBlock < fwImgBlocks s.store.journal.length → ∃ u, exec .overwriteBlock s = .next u ∧
      u.store.journal.nextBlock = s.store.journal.nextBlock + 1 ∧
      (∀ i, i < (blockBytes s s.store.journal.nextBlock).length →
        byteAt u.store.slotA (262144 * s.store.journal.nextBlock + i) = byteAt (blockBytes s s.store.journal.nextBlock) i) ∧
      (s.store.journal.nextBlock + 1 = fwImgBlocks s.store.journal.length → u.fw.resetAsked = some .activation) ∧
      (s.store.journal.nextBlock + 1 ≠ fwImgBlocks s.store.journal.length → u.fw = s.fw)) ∧
    (onTrial s = false → exec .trialConfirm s = .next s ∧ exec .trialSelfCheckFail s = .next s ∧ exec .healthWindowExpiry s = .next s) ∧
    (onTrial s = true →
      (s.flt.fatal = false → s.clk ≤ windowEnd s → ∃ u, exec .trialConfirm s = .next u ∧ u.fw.trial = false ∧
        u.store.journal.state = 0 ∧ u.fw.stepping = decide (s.fuses.rollback < s.fw.level) ∧ u.fuses = s.fuses) ∧
      (∃ u, exec .trialSelfCheckFail s = .next u ∧ u.fw.resetAsked = some .fallback) ∧
      (windowEnd s ≤ s.clk → ∃ u, exec .healthWindowExpiry s = .next u ∧ u.fw.resetAsked = some .expiry) ∧
      (s.clk < windowEnd s → exec .healthWindowExpiry s = .next s)) ∧
    (s.fw.stepping = false → exec .rollbackStep s = .next s) ∧
    (s.fw.stepping = true → ∃ u, exec .rollbackStep s = .next u ∧ u.fuses = { s.fuses with rollback := s.fuses.rollback + 1 } ∧
      u.fw.stepping = decide (s.fuses.rollback + 1 < s.fw.level) ∧ pget u pidFwRollbackStep = s.fuses.rollback + 1)

/-- Steps, slews, the PTP servo, lane calibration, PPS and SyncE. A step window ends when its interval has passed; a slew ends when all
its cycles have run, and an adjustment that counts as a step then starts the window's interval. With a reference the servo locks to the
best one and makes the time valid; an offset at or above the threshold with no step window steps the Datum to it, a smaller one starts a
slew of it where the frequency leaves room; without a reference nothing happens. A lane that is active and due is calibrated: it is marked
and reported when it fails. An edge of PPS_IN is stamped in steps of 0.2 ns; its loss takes the clock to PTP or to HOLDOVER when it
followed PPS_IN. PPS_OUT rises once a second, never cutting a pulse short, and falls at its width. The holdover offset, the loss of the
oscillator's holdover, SyncE's squelch and hold-off and the loss of the PTP reference change their own state. Otherwise each changes
nothing. Each of these forms completes, exec answering a next state under conditions on the state and operands alone: TIME_STEP_CLEAR,
SLEW_END, PTP_SERVO_CORRECTION, LANE_CALIBRATION, PPS_IN_EDGE, PPS_IN_LOST, PPS_OUT_PULSE, HOLD_OFFSET_UPDATE, OSC_HOLD_LOST,
SYNCE_SQUELCH, SYNCE_HOLDOFF_EXPIRY, PPS_OUT_PULSE_END, PTP_REFERENCE_LOST. -/
def Obligations.TimeEvents : Prop :=
  ∀ (s : State),
    (s.datum.stepWin = none → exec .timeStepClear s = .next s) ∧
    (∀ w, s.datum.stepWin = some w →
      (w.s = none ∨ s.clk < w.since + residencyInterval s w.lim → exec .timeStepClear s = .next s) ∧
      (w.s.isSome = true → w.since + residencyInterval s w.lim ≤ s.clk → ∃ u, exec .timeStepClear s = .next u ∧
        u.datum = { s.datum with stepWin := none } ∧ u.stn = s.stn ∧ u.tbl = s.tbl)) ∧
    (s.datum.slew = none → exec .slewEnd s = .next s) ∧
    (∀ w, s.datum.slew = some w → (slewActive w = true → exec .slewEnd s = .next s) ∧
      (slewActive w = false → ∃ u, exec .slewEnd s = .next u ∧ u.datum.slew = none ∧ u.datum.units = s.datum.units ∧
        (∀ x, s.datum.stepWin = some x → x.s = none → ∃ y, u.datum.stepWin = some y ∧ y.s = some (now s) ∧ y.since = s.clk) ∧
        ((∀ x, s.datum.stepWin = some x → x.s.isSome = true) → u.datum.stepWin = s.datum.stepWin))) ∧
    (∀ offset : Option Int, (bestSource s offset.isSome s.datum.ppsInAt.isSome = none → exec (.ptpServoCorrection offset) s = .next s) ∧
      (∀ x, bestSource s offset.isSome s.datum.ppsInAt.isSome = some x →
        let d := if x = 0 then offset.getD 0 else s.datum.ppsPhase.getD 0
        let s1 := servoFreq { s with datum := { s.datum with
          st := 1, src := x, ptpUp := offset.isSome, valid := true, ppsPhase := if x = 0 then s.datum.ppsPhase else none } }
        ∃ u, exec (.ptpServoCorrection offset) s = .next u ∧ u.datum.st = 1 ∧ u.datum.src = x ∧ u.datum.ptpUp = offset.isSome ∧ u.datum.valid = true ∧
          (d = 0 ∨ offsetTarget s d = none → u.datum.units = s.datum.units ∧ u.datum.slew = s.datum.slew) ∧
          (∀ v, offsetTarget s d = some v → d ≠ 0 →
            (pget s pidTimeStepThresholdNs * 65536 ≤ d.natAbs → s1.datum.stepWin = none →
              u.datum.units = v ∧ u.datum.slew = none ∧ u.datum.stepWin.isSome = true ∧ u.tbl.learnQ = []) ∧
            (d.natAbs < pget s pidTimeStepThresholdNs * 65536 ∨ s1.datum.stepWin.isSome = true → u.datum.units = s.datum.units ∧
              (roomPpb s1.datum.freq = 0 ∨ ∃ w, u.datum.slew = some w ∧ w.offset = d ∧ w.cycles = 0 ∧
                1 ≤ w.rate.natAbs ∧ w.rate.natAbs ≤ roomPpb s1.datum.freq))))) ∧
    (∀ (lane : Fin 32) (ok : Bool), let due := laneActive lane.val && calDue s lane.val
      ∃ u, exec (.laneCalibration lane ok) s = .next u ∧
        (lane.val ∈ u.datum.badLanes ↔ if due = true then ok = false else lane.val ∈ s.datum.badLanes) ∧
        sget none u.datum.calAt lane.val = (if due = true then some s.clk else sget none s.datum.calAt lane.val) ∧
        u.flt.total = (if due = true ∧ ok = false then satAdd 32 s.flt.total 1 else s.flt.total) ∧
        (∀ l, l ≠ lane.val → (l ∈ u.datum.badLanes ↔ l ∈ s.datum.badLanes)) ∧ u.datum.units = s.datum.units ∧ u.stn = s.stn) ∧
    (∀ interp : BitVec 3, let t := now s + interp.toNat * 2 ^ 32 / 5 - pget s pidTimePpsInDelay * 2 ^ 32
      ∃ u, exec (.ppsInEdge interp) s = .next u ∧ u.datum = { s.datum with
        ppsInAt := some s.clk, ppsInLast := t, ppsPhase := some (secondPhase t) }) ∧
    (s.datum.ppsInAt = none → exec .ppsInLost s = .next s) ∧
    (∀ t, s.datum.ppsInAt = some t → (s.clk ≤ t + ppsLimit → exec .ppsInLost s = .next s) ∧
      (t + ppsLimit < s.clk → ∃ u, exec .ppsInLost s = .next u ∧ u.datum.ppsInAt = none ∧ u.datum.units = s.datum.units ∧
        u.datum.st = (if s.datum.st = 1 ∧ s.datum.src = 1 ∧ s.datum.ptpUp = false then 2 else s.datum.st) ∧
        u.datum.src = (if s.datum.st = 1 ∧ s.datum.src = 1 ∧ s.datum.ptpUp = true then 0 else s.datum.src))) ∧
    (ppsOutOn s = false → exec .ppsOutPulse s = .next s) ∧
    (ppsOutOn s = true → (ppsPhase s).1 < timeIncrement s.datum → 0 ≤ (ppsPhase s).2 → s.datum.ppsOutSec ≠ some (ppsPhase s).2.toNat →
      exec .ppsOutPulse s = .next { s with datum := { s.datum with
        ppsOutSec := some (ppsPhase s).2.toNat
        ppsOutUntil := some (max (s.datum.ppsOutUntil.getD 0) (s.clk + pget s pidTimePpsOutWidthUs * 1250)) } }) ∧
    (s.datum.ppsOutUntil = none → exec .ppsOutPulseEnd s = .next s) ∧
    (∀ x, s.datum.ppsOutUntil = some x → (s.clk < x → exec .ppsOutPulseEnd s = .next s) ∧
      (x ≤ s.clk → exec .ppsOutPulseEnd s = .next { s with datum := { s.datum with ppsOutUntil := none } })) ∧
    (∀ ppb : BitVec 32, ∃ u, exec (.holdOffsetUpdate ppb) s = .next u ∧ pget u pidTimeHoldOffsetPpb = ppb.toNat ∧ u.datum.oscHold = true ∧
      u.datum.slew = s.datum.slew ∧ (s.datum.st ≠ 2 → u.datum.freq = s.datum.freq) ∧
      (s.datum.st = 2 → rateSum u.datum ≤ maxOffset ∧ -maxOffset ≤ rateSum u.datum)) ∧
    (s.datum.oscHold = false → exec .oscHoldLost s = .next s) ∧
    (s.datum.oscHold = true → ∃ u, exec .oscHoldLost s = .next u ∧ u.datum = { s.datum with oscHold := false }) ∧
    (∀ k : Fin 2,
      (∃ u, exec (.synceSquelch k) s = .next u ∧ sget false u.datum.squelch k.val = true ∧ sget none u.datum.holdoff k.val = none ∧
        ∀ j, j ≠ k.val → sget false u.datum.squelch j = sget false s.datum.squelch j) ∧
      (sget none s.datum.holdoff k.val = none → exec (.synceHoldoffExpiry k) s = .next s) ∧
      (∀ x, sget none s.datum.holdoff k.val = some x →
        (s.clk < x ∨ synceLane s k.val = none → exec (.synceHoldoffExpiry k) s = .next s) ∧
        (x ≤ s.clk → (synceLane s k.val).isSome = true → ∃ u, exec (.synceHoldoffExpiry k) s = .next u ∧
          sget false u.datum.squelch k.val = false ∧ sget none u.datum.holdoff k.val = none))) ∧
    (s.datum.st = 1 → s.datum.src = 0 → s.datum.ppsInAt.isSome = true →
      exec .ptpReferenceLost s = .next { s with datum := { s.datum with ptpUp := false, src := 1 } }) ∧
    (s.datum.st = 1 → s.datum.src = 0 → s.datum.ppsInAt = none →
      exec .ptpReferenceLost s = .next { s with datum := { s.datum with ptpUp := false, st := 2 } }) ∧
    (s.datum.st ≠ 1 ∨ s.datum.src ≠ 0 → exec .ptpReferenceLost s = .next { s with datum := { s.datum with ptpUp := false } })

/-- What reset leaves. After reset the device is BUSY and not READY, no edition is live, no packet exists, every station is OUT without a
role and its threads are OFF, every lock is free, every ring is disabled, nothing is latched, table memory is zero and in canonical form,
and every parameter has its reset value. The reset values that the spec does not state are those of log entry 5. -/
def Obligations.ResetValues : Prop :=
  State.reset.pending = [] ∧ State.reset.fw.busy = true ∧ State.reset.fw.ready = false ∧ State.reset.fw.resetN = false ∧
    State.reset.flt.fatal = false ∧ State.reset.flt.total = 0 ∧ (∀ t, liveEd State.reset t = none) ∧ State.reset.ed.newest = none ∧
    (∀ i, getPkt State.reset i = none) ∧ (∀ k, (getStn State.reset k).st = ssOut ∧ (getStn State.reset k).role = roleNone) ∧
    (∀ k l, (getThr State.reset k l).st = (if k < 17 ∧ l < 96 then .off else .idle) ∧ ∀ r, (getThr State.reset k l).reg r = 0) ∧
    (∀ w, lockWord State.reset w = 0) ∧ State.reset.held = [] ∧ (∀ n, (getRing State.reset n).enable = false) ∧
    State.reset.host.link = false ∧ (∀ id, pget State.reset id = preset id) ∧ State.reset.datum.st = 0 ∧ State.reset.datum.units = 0 ∧
    (∀ x, bget State.reset.tbl.mem x = 0) ∧ Memory.wf State.reset.tbl.mem = true ∧ Memory.wf State.reset.hbm.mem = true

/-- No command stops the block. On every state every command answers a next state: a wrong operand traps its thread, a wrong host command
answers its status, and an event out of its condition changes nothing. The block has no fault and no refusal. -/
def Obligations.EveryCommandAnswers : Prop :=
  ∀ (c : Instr) (s : State), ∃ u, exec c s = .next u

/-- Every step keeps table memory in its canonical form. Where the addressed table memory lists its bytes with addresses strictly rising
and lists no byte that reads as an unlisted one does, it still does so after any step: any command, or a tick of the clock. Equal contents
are then equal data. The form is the model's own. -/
def Obligations.TableMemoryCanonical : Prop :=
  ∀ s u : State, Memory.wf s.tbl.mem = true → step s = .next u → Memory.wf u.tbl.mem = true

/-- No step lowers the rollback counter or changes another fuse. Whatever the command, and on a tick, the rollback counter of the fuses
never falls and rises by at most one; every other fuse keeps its value. So no command can make an image acceptable that the counter
refuses, nor change the permissions that the fuses give. -/
def Obligations.RollbackNeverLowered : Prop :=
  ∀ s u : State, step s = .next u → s.fuses.rollback ≤ u.fuses.rollback ∧ u.fuses.rollback ≤ s.fuses.rollback + 1 ∧
    u.fuses = { s.fuses with rollback := u.fuses.rollback }
end

