-- ==== Sys2Proof/Laws/Sparse.lean ====
section
/-! SUPPORT. The laws of sparse maps: a read after a write, and that every operation keeps the canonical form. -/

namespace Sys2Proof.Machine

variable {α : Type}

@[simp] theorem sget_nil (d : α) (k : Nat) : sget d [] k = d := rfl

theorem sget_sdel_same (d : α) (m : Sparse α) (k : Nat) : sget d (sdel m k) k = d := by
  induction m with
  | nil => rfl
  | cons x rest ih =>
    obtain ⟨j, w⟩ := x
    by_cases h : j = k
    · simpa [sdel, h] using ih
    · simp [sdel, h, sget] at ih ⊢; exact ih

theorem sget_sdel_ne (d : α) (m : Sparse α) {k j : Nat} (h : j ≠ k) : sget d (sdel m k) j = sget d m j := by
  induction m with
  | nil => rfl
  | cons x rest ih =>
    obtain ⟨i, w⟩ := x
    by_cases hi : i = k
    · have : i ≠ j := fun e => h (e ▸ hi)
      simp [sdel, hi, sget] at ih ⊢
      rw [if_neg (fun e => h e.symm)]; exact ih
    · simp [sdel, hi, sget] at ih ⊢; rw [ih]

theorem sget_sput_ne (d : α) (m : Sparse α) {k j : Nat} (v : α) (h : j ≠ k) : sget d (sput m k v) j = sget d m j := by
  induction m with
  | nil => simp [sput, sget]; intro e; exact absurd e.symm h
  | cons x rest ih =>
    obtain ⟨i, w⟩ := x
    simp only [sput]
    split
    · simp [sget]; intro e; exact absurd e.symm h
    · simp [sget, ih]

theorem sget_sput_sdel (d : α) (m : Sparse α) (k : Nat) (v : α) : sget d (sput (sdel m k) k v) k = v := by
  induction m with
  | nil => simp [sdel, sput, sget]
  | cons x rest ih =>
    obtain ⟨i, w⟩ := x
    by_cases hi : i = k
    · simpa [sdel, hi] using ih
    · simp [sdel, hi] at ih ⊢
      simp only [sput]
      split
      · simp [sget]
      · simp [sget, hi]; exact ih

/-- A key reads back what was written to it. -/
@[simp] theorem sget_sset_same [DecidableEq α] (d : α) (m : Sparse α) (k : Nat) (v : α) : sget d (sset d m k v) k = v := by
  unfold sset
  split
  · next h => rw [h]; exact sget_sdel_same d m k
  · exact sget_sput_sdel d m k v

/-- Every other key reads as before. -/
theorem sget_sset_ne [DecidableEq α] (d e : α) (m : Sparse α) {k j : Nat} (v : α) (h : j ≠ k) :
    sget e (sset d m k v) j = sget e m j := by
  unfold sset
  split
  · exact sget_sdel_ne e m h
  · rw [sget_sput_ne e _ v h, sget_sdel_ne e m h]

@[simp] theorem sget_smod_same [DecidableEq α] (d : α) (m : Sparse α) (k : Nat) (f : α → α) :
    sget d (smod d m k f) k = f (sget d m k) := by simp [smod]

theorem sget_smod_ne [DecidableEq α] (d : α) (m : Sparse α) {k j : Nat} (f : α → α) (h : j ≠ k) :
    sget d (smod d m k f) j = sget d m j := by simp [smod, sget_sset_ne d d m _ h]

/-! ### The canonical form -/

theorem swfFrom_mono [DecidableEq α] (d : α) (m : Sparse α) {lo hi : Nat} (h : lo ≤ hi) (w : swfFrom d hi m = true) :
    swfFrom d lo m = true := by
  cases m with
  | nil => rfl
  | cons x rest =>
    obtain ⟨j, v⟩ := x
    simp [swfFrom] at w ⊢
    exact ⟨⟨Nat.le_trans h w.1.1, w.1.2⟩, w.2⟩

theorem swfFrom_sdel [DecidableEq α] (d : α) (m : Sparse α) (k lo : Nat) (w : swfFrom d lo m = true) :
    swfFrom d lo (sdel m k) = true := by
  induction m generalizing lo with
  | nil => rfl
  | cons x rest ih =>
    obtain ⟨j, v⟩ := x
    simp [swfFrom] at w
    by_cases hj : j = k
    · have := ih (j + 1) w.2
      simp [sdel, hj] at this ⊢
      exact swfFrom_mono d _ (by omega) this
    · have := ih (j + 1) w.2
      simp [sdel, hj, swfFrom] at this ⊢
      exact ⟨w.1, this⟩

theorem swfFrom_sput [DecidableEq α] (d : α) (m : Sparse α) (k lo : Nat) (v : α) (hv : v ≠ d) (hk : lo ≤ k)
    (w : swfFrom d lo (sdel m k) = true) : swfFrom d lo (sput (sdel m k) k v) = true := by
  induction m generalizing lo with
  | nil => simp [sdel, sput, swfFrom, hv, hk]
  | cons x rest ih =>
    obtain ⟨j, u⟩ := x
    by_cases hj : j = k
    · simp [sdel, hj] at w ih ⊢; exact ih lo hk w
    · simp [sdel, hj, swfFrom] at w ⊢
      simp only [sput]
      split
      · next h => simp [swfFrom, hv, hk, w.1.2]; exact ⟨by omega, w.2⟩
      · next h =>
        simp [swfFrom, w.1]
        have := ih (j + 1) (by omega)
        simp [sdel] at this
        exact this w.2

/-- Writing keeps the canonical form. -/
theorem swf_sset [DecidableEq α] (d : α) (m : Sparse α) (k : Nat) (v : α) (w : swf d m = true) : swf d (sset d m k v) = true := by
  have h := swfFrom_sdel d m k 0 w
  unfold sset
  split
  · exact h
  · next hv => exact swfFrom_sput d m k 0 v hv (Nat.zero_le k) h

theorem swf_smod [DecidableEq α] (d : α) (m : Sparse α) (k : Nat) (f : α → α) (w : swf d m = true) : swf d (smod d m k f) = true :=
  swf_sset d m k _ w

theorem swf_ssetRange [DecidableEq α] (d : α) (vs : List α) (m : Sparse α) (k : Nat) (w : swf d m = true) :
    swf d (ssetRange d m k vs) = true := by
  induction vs generalizing m k with
  | nil => exact w
  | cons v rest ih => exact ih _ _ (swf_sset d m k v w)

/-- A range reads back what was written to it, and every key outside it reads as before. -/
theorem sget_ssetRange [DecidableEq α] (d : α) (vs : List α) (m : Sparse α) (k j : Nat) :
    sget d (ssetRange d m k vs) j = if k ≤ j ∧ j < k + vs.length then vs.getD (j - k) d else sget d m j := by
  induction vs generalizing m k with
  | nil => simp [ssetRange]
  | cons v rest ih =>
    simp only [ssetRange]
    rw [ih]
    by_cases h1 : j = k
    · subst h1; simp
    · rw [sget_sset_ne d d m v h1]
      by_cases h2 : k + 1 ≤ j ∧ j < k + 1 + rest.length
      · rw [if_pos h2, if_pos (by simp; omega)]
        have : j - k = (j - (k + 1)) + 1 := by omega
        rw [this]; simp
      · rw [if_neg h2, if_neg (by simp; omega)]

/-- Two maps in canonical form with the same reads are the same map. -/
theorem swf_ext [DecidableEq α] (d : α) (m n : Sparse α) (hm : swf d m = true) (hn : swf d n = true)
    (h : ∀ k, sget d m k = sget d n k) : m = n := by
  have low : ∀ (m : Sparse α) (lo k : Nat), swfFrom d lo m = true → k < lo → sget d m k = d := by
    intro m
    induction m with
    | nil => intros; rfl
    | cons x rest ih =>
      intro lo k w hk
      obtain ⟨j, v⟩ := x
      simp [swfFrom] at w
      rw [sget, if_neg (by omega)]
      exact ih (j + 1) k w.2 (by omega)
  have main : ∀ (m n : Sparse α) (lo : Nat), swfFrom d lo m = true → swfFrom d lo n = true → (∀ k, sget d m k = sget d n k) → m = n := by
    intro m
    induction m with
    | nil =>
      intro n lo _ hn h
      cases n with
      | nil => rfl
      | cons y rest =>
        obtain ⟨j, v⟩ := y
        simp [swfFrom] at hn
        have := h j
        simp [sget] at this
        exact absurd this.symm hn.1.2
    | cons x rest ih =>
      intro n lo hm hn h
      obtain ⟨j, v⟩ := x
      simp [swfFrom] at hm
      cases n with
      | nil =>
        have := h j
        simp [sget] at this
        exact absurd this hm.1.2
      | cons y more =>
        obtain ⟨i, u⟩ := y
        simp [swfFrom] at hn
        have hji : j = i := by
          rcases Nat.lt_trichotomy j i with hlt | heq | hgt
          · have := h j
            rw [sget, if_pos rfl, sget, if_neg (by omega), low more (i + 1) j hn.2 (by omega)] at this
            exact absurd this hm.1.2
          · exact heq
          · have := h i
            rw [sget, if_neg (by omega), low rest (j + 1) i hm.2 (by omega), sget, if_pos rfl] at this
            exact absurd this.symm hn.1.2
        subst hji
        have hv : v = u := by have := h j; simpa [sget] using this
        subst hv
        congr 1
        refine ih more (j + 1) hm.2 hn.2 fun k => ?_
        by_cases hk : j = k
        · subst hk; rw [low rest _ _ hm.2 (by omega), low more _ _ hn.2 (by omega)]
        · have := h k
          rwa [sget, if_neg hk, sget, if_neg hk] at this
  exact main m n 0 hm hn h

/-- A map that gives every key of a list one value. -/
theorem sget_const (d x : α) (l : List Nat) (k : Nat) : sget d (l.map fun i => (i, x)) k = if k ∈ l then x else d := by
  induction l with
  | nil => rfl
  | cons i rest ih =>
    simp only [List.map_cons, sget, ih, List.mem_cons]
    by_cases h : i = k
    · simp [h]
    · simp [h, Ne.symm h]

end Sys2Proof.Machine
end

