-- ==== Sys2Proof/Laws/State.lean ====
section
/-! SUPPORT. What the basic updates of the state leave: one lemma for each field and update, and the reads of what they write. -/

namespace Sys2Proof.Machine

variable (s : State)

/-! ### pset -/

@[simp] theorem pset_pending (id v : Nat) : (pset s id v).pending = s.pending := rfl
@[simp] theorem pset_clk (id v : Nat) : (pset s id v).clk = s.clk := rfl
@[simp] theorem pset_datum (id v : Nat) : (pset s id v).datum = s.datum := rfl
@[simp] theorem pset_excTokens (id v : Nat) : (pset s id v).excTokens = s.excTokens := rfl
@[simp] theorem pset_excLast (id v : Nat) : (pset s id v).excLast = s.excLast := rfl
@[simp] theorem pset_ed (id v : Nat) : (pset s id v).ed = s.ed := rfl
@[simp] theorem pset_pkts (id v : Nat) : (pset s id v).pkts = s.pkts := rfl
@[simp] theorem pset_west (id v : Nat) : (pset s id v).west = s.west := rfl
@[simp] theorem pset_east (id v : Nat) : (pset s id v).east = s.east := rfl
@[simp] theorem pset_stn (id v : Nat) : (pset s id v).stn = s.stn := rfl
@[simp] theorem pset_delayed (id v : Nat) : (pset s id v).delayed = s.delayed := rfl
@[simp] theorem pset_prep (id v : Nat) : (pset s id v).prep = s.prep := rfl
@[simp] theorem pset_readmits (id v : Nat) : (pset s id v).readmits = s.readmits := rfl
@[simp] theorem pset_vacant (id v : Nat) : (pset s id v).vacant = s.vacant := rfl
@[simp] theorem pset_spareCheck (id v : Nat) : (pset s id v).spareCheck = s.spareCheck := rfl
@[simp] theorem pset_locks (id v : Nat) : (pset s id v).locks = s.locks := rfl
@[simp] theorem pset_held (id v : Nat) : (pset s id v).held = s.held := rfl
@[simp] theorem pset_chans (id v : Nat) : (pset s id v).chans = s.chans := rfl
@[simp] theorem pset_tbl (id v : Nat) : (pset s id v).tbl = s.tbl := rfl
@[simp] theorem pset_buf (id v : Nat) : (pset s id v).buf = s.buf := rfl
@[simp] theorem pset_tm (id v : Nat) : (pset s id v).tm = s.tm := rfl
@[simp] theorem pset_hbm (id v : Nat) : (pset s id v).hbm = s.hbm := rfl
@[simp] theorem pset_host (id v : Nat) : (pset s id v).host = s.host := rfl
@[simp] theorem pset_flt (id v : Nat) : (pset s id v).flt = s.flt := rfl
@[simp] theorem pset_store (id v : Nat) : (pset s id v).store = s.store := rfl
@[simp] theorem pset_fuses (id v : Nat) : (pset s id v).fuses = s.fuses := rfl
@[simp] theorem pset_fw (id v : Nat) : (pset s id v).fw = s.fw := rfl
@[simp] theorem pset_env (id v : Nat) : (pset s id v).env = s.env := rfl
@[simp] theorem pset_freeCtr (id v : Nat) : (pset s id v).freeCtr = s.freeCtr := rfl

/-! ### modStn -/

@[simp] theorem modStn_pending (k : Nat) (f : Station → Station) : (modStn s k f).pending = s.pending := rfl
@[simp] theorem modStn_clk (k : Nat) (f : Station → Station) : (modStn s k f).clk = s.clk := rfl
@[simp] theorem modStn_datum (k : Nat) (f : Station → Station) : (modStn s k f).datum = s.datum := rfl
@[simp] theorem modStn_par (k : Nat) (f : Station → Station) : (modStn s k f).par = s.par := rfl
@[simp] theorem modStn_excTokens (k : Nat) (f : Station → Station) : (modStn s k f).excTokens = s.excTokens := rfl
@[simp] theorem modStn_excLast (k : Nat) (f : Station → Station) : (modStn s k f).excLast = s.excLast := rfl
@[simp] theorem modStn_ed (k : Nat) (f : Station → Station) : (modStn s k f).ed = s.ed := rfl
@[simp] theorem modStn_pkts (k : Nat) (f : Station → Station) : (modStn s k f).pkts = s.pkts := rfl
@[simp] theorem modStn_west (k : Nat) (f : Station → Station) : (modStn s k f).west = s.west := rfl
@[simp] theorem modStn_east (k : Nat) (f : Station → Station) : (modStn s k f).east = s.east := rfl
@[simp] theorem modStn_delayed (k : Nat) (f : Station → Station) : (modStn s k f).delayed = s.delayed := rfl
@[simp] theorem modStn_prep (k : Nat) (f : Station → Station) : (modStn s k f).prep = s.prep := rfl
@[simp] theorem modStn_readmits (k : Nat) (f : Station → Station) : (modStn s k f).readmits = s.readmits := rfl
@[simp] theorem modStn_vacant (k : Nat) (f : Station → Station) : (modStn s k f).vacant = s.vacant := rfl
@[simp] theorem modStn_spareCheck (k : Nat) (f : Station → Station) : (modStn s k f).spareCheck = s.spareCheck := rfl
@[simp] theorem modStn_locks (k : Nat) (f : Station → Station) : (modStn s k f).locks = s.locks := rfl
@[simp] theorem modStn_held (k : Nat) (f : Station → Station) : (modStn s k f).held = s.held := rfl
@[simp] theorem modStn_chans (k : Nat) (f : Station → Station) : (modStn s k f).chans = s.chans := rfl
@[simp] theorem modStn_tbl (k : Nat) (f : Station → Station) : (modStn s k f).tbl = s.tbl := rfl
@[simp] theorem modStn_buf (k : Nat) (f : Station → Station) : (modStn s k f).buf = s.buf := rfl
@[simp] theorem modStn_tm (k : Nat) (f : Station → Station) : (modStn s k f).tm = s.tm := rfl
@[simp] theorem modStn_hbm (k : Nat) (f : Station → Station) : (modStn s k f).hbm = s.hbm := rfl
@[simp] theorem modStn_host (k : Nat) (f : Station → Station) : (modStn s k f).host = s.host := rfl
@[simp] theorem modStn_flt (k : Nat) (f : Station → Station) : (modStn s k f).flt = s.flt := rfl
@[simp] theorem modStn_store (k : Nat) (f : Station → Station) : (modStn s k f).store = s.store := rfl
@[simp] theorem modStn_fuses (k : Nat) (f : Station → Station) : (modStn s k f).fuses = s.fuses := rfl
@[simp] theorem modStn_fw (k : Nat) (f : Station → Station) : (modStn s k f).fw = s.fw := rfl
@[simp] theorem modStn_env (k : Nat) (f : Station → Station) : (modStn s k f).env = s.env := rfl
@[simp] theorem modStn_freeCtr (k : Nat) (f : Station → Station) : (modStn s k f).freeCtr = s.freeCtr := rfl

/-! ### modThr -/

@[simp] theorem modThr_pending (k l : Nat) (f : Thread → Thread) : (modThr s k l f).pending = s.pending := rfl
@[simp] theorem modThr_clk (k l : Nat) (f : Thread → Thread) : (modThr s k l f).clk = s.clk := rfl
@[simp] theorem modThr_datum (k l : Nat) (f : Thread → Thread) : (modThr s k l f).datum = s.datum := rfl
@[simp] theorem modThr_par (k l : Nat) (f : Thread → Thread) : (modThr s k l f).par = s.par := rfl
@[simp] theorem modThr_excTokens (k l : Nat) (f : Thread → Thread) : (modThr s k l f).excTokens = s.excTokens := rfl
@[simp] theorem modThr_excLast (k l : Nat) (f : Thread → Thread) : (modThr s k l f).excLast = s.excLast := rfl
@[simp] theorem modThr_ed (k l : Nat) (f : Thread → Thread) : (modThr s k l f).ed = s.ed := rfl
@[simp] theorem modThr_pkts (k l : Nat) (f : Thread → Thread) : (modThr s k l f).pkts = s.pkts := rfl
@[simp] theorem modThr_west (k l : Nat) (f : Thread → Thread) : (modThr s k l f).west = s.west := rfl
@[simp] theorem modThr_east (k l : Nat) (f : Thread → Thread) : (modThr s k l f).east = s.east := rfl
@[simp] theorem modThr_delayed (k l : Nat) (f : Thread → Thread) : (modThr s k l f).delayed = s.delayed := rfl
@[simp] theorem modThr_prep (k l : Nat) (f : Thread → Thread) : (modThr s k l f).prep = s.prep := rfl
@[simp] theorem modThr_readmits (k l : Nat) (f : Thread → Thread) : (modThr s k l f).readmits = s.readmits := rfl
@[simp] theorem modThr_vacant (k l : Nat) (f : Thread → Thread) : (modThr s k l f).vacant = s.vacant := rfl
@[simp] theorem modThr_spareCheck (k l : Nat) (f : Thread → Thread) : (modThr s k l f).spareCheck = s.spareCheck := rfl
@[simp] theorem modThr_locks (k l : Nat) (f : Thread → Thread) : (modThr s k l f).locks = s.locks := rfl
@[simp] theorem modThr_held (k l : Nat) (f : Thread → Thread) : (modThr s k l f).held = s.held := rfl
@[simp] theorem modThr_chans (k l : Nat) (f : Thread → Thread) : (modThr s k l f).chans = s.chans := rfl
@[simp] theorem modThr_tbl (k l : Nat) (f : Thread → Thread) : (modThr s k l f).tbl = s.tbl := rfl
@[simp] theorem modThr_buf (k l : Nat) (f : Thread → Thread) : (modThr s k l f).buf = s.buf := rfl
@[simp] theorem modThr_tm (k l : Nat) (f : Thread → Thread) : (modThr s k l f).tm = s.tm := rfl
@[simp] theorem modThr_hbm (k l : Nat) (f : Thread → Thread) : (modThr s k l f).hbm = s.hbm := rfl
@[simp] theorem modThr_host (k l : Nat) (f : Thread → Thread) : (modThr s k l f).host = s.host := rfl
@[simp] theorem modThr_flt (k l : Nat) (f : Thread → Thread) : (modThr s k l f).flt = s.flt := rfl
@[simp] theorem modThr_store (k l : Nat) (f : Thread → Thread) : (modThr s k l f).store = s.store := rfl
@[simp] theorem modThr_fuses (k l : Nat) (f : Thread → Thread) : (modThr s k l f).fuses = s.fuses := rfl
@[simp] theorem modThr_fw (k l : Nat) (f : Thread → Thread) : (modThr s k l f).fw = s.fw := rfl
@[simp] theorem modThr_env (k l : Nat) (f : Thread → Thread) : (modThr s k l f).env = s.env := rfl
@[simp] theorem modThr_freeCtr (k l : Nat) (f : Thread → Thread) : (modThr s k l f).freeCtr = s.freeCtr := rfl

/-! ### modTask -/

@[simp] theorem modTask_pending (k i : Nat) (f : Task → Task) : (modTask s k i f).pending = s.pending := rfl
@[simp] theorem modTask_clk (k i : Nat) (f : Task → Task) : (modTask s k i f).clk = s.clk := rfl
@[simp] theorem modTask_datum (k i : Nat) (f : Task → Task) : (modTask s k i f).datum = s.datum := rfl
@[simp] theorem modTask_par (k i : Nat) (f : Task → Task) : (modTask s k i f).par = s.par := rfl
@[simp] theorem modTask_excTokens (k i : Nat) (f : Task → Task) : (modTask s k i f).excTokens = s.excTokens := rfl
@[simp] theorem modTask_excLast (k i : Nat) (f : Task → Task) : (modTask s k i f).excLast = s.excLast := rfl
@[simp] theorem modTask_ed (k i : Nat) (f : Task → Task) : (modTask s k i f).ed = s.ed := rfl
@[simp] theorem modTask_pkts (k i : Nat) (f : Task → Task) : (modTask s k i f).pkts = s.pkts := rfl
@[simp] theorem modTask_west (k i : Nat) (f : Task → Task) : (modTask s k i f).west = s.west := rfl
@[simp] theorem modTask_east (k i : Nat) (f : Task → Task) : (modTask s k i f).east = s.east := rfl
@[simp] theorem modTask_delayed (k i : Nat) (f : Task → Task) : (modTask s k i f).delayed = s.delayed := rfl
@[simp] theorem modTask_prep (k i : Nat) (f : Task → Task) : (modTask s k i f).prep = s.prep := rfl
@[simp] theorem modTask_readmits (k i : Nat) (f : Task → Task) : (modTask s k i f).readmits = s.readmits := rfl
@[simp] theorem modTask_vacant (k i : Nat) (f : Task → Task) : (modTask s k i f).vacant = s.vacant := rfl
@[simp] theorem modTask_spareCheck (k i : Nat) (f : Task → Task) : (modTask s k i f).spareCheck = s.spareCheck := rfl
@[simp] theorem modTask_locks (k i : Nat) (f : Task → Task) : (modTask s k i f).locks = s.locks := rfl
@[simp] theorem modTask_held (k i : Nat) (f : Task → Task) : (modTask s k i f).held = s.held := rfl
@[simp] theorem modTask_chans (k i : Nat) (f : Task → Task) : (modTask s k i f).chans = s.chans := rfl
@[simp] theorem modTask_tbl (k i : Nat) (f : Task → Task) : (modTask s k i f).tbl = s.tbl := rfl
@[simp] theorem modTask_buf (k i : Nat) (f : Task → Task) : (modTask s k i f).buf = s.buf := rfl
@[simp] theorem modTask_tm (k i : Nat) (f : Task → Task) : (modTask s k i f).tm = s.tm := rfl
@[simp] theorem modTask_hbm (k i : Nat) (f : Task → Task) : (modTask s k i f).hbm = s.hbm := rfl
@[simp] theorem modTask_host (k i : Nat) (f : Task → Task) : (modTask s k i f).host = s.host := rfl
@[simp] theorem modTask_flt (k i : Nat) (f : Task → Task) : (modTask s k i f).flt = s.flt := rfl
@[simp] theorem modTask_store (k i : Nat) (f : Task → Task) : (modTask s k i f).store = s.store := rfl
@[simp] theorem modTask_fuses (k i : Nat) (f : Task → Task) : (modTask s k i f).fuses = s.fuses := rfl
@[simp] theorem modTask_fw (k i : Nat) (f : Task → Task) : (modTask s k i f).fw = s.fw := rfl
@[simp] theorem modTask_env (k i : Nat) (f : Task → Task) : (modTask s k i f).env = s.env := rfl
@[simp] theorem modTask_freeCtr (k i : Nat) (f : Task → Task) : (modTask s k i f).freeCtr = s.freeCtr := rfl

/-! ### setPkt -/

@[simp] theorem setPkt_pending (i : Nat) (p : Packet) : (setPkt s i p).pending = s.pending := rfl
@[simp] theorem setPkt_clk (i : Nat) (p : Packet) : (setPkt s i p).clk = s.clk := rfl
@[simp] theorem setPkt_datum (i : Nat) (p : Packet) : (setPkt s i p).datum = s.datum := rfl
@[simp] theorem setPkt_par (i : Nat) (p : Packet) : (setPkt s i p).par = s.par := rfl
@[simp] theorem setPkt_excTokens (i : Nat) (p : Packet) : (setPkt s i p).excTokens = s.excTokens := rfl
@[simp] theorem setPkt_excLast (i : Nat) (p : Packet) : (setPkt s i p).excLast = s.excLast := rfl
@[simp] theorem setPkt_ed (i : Nat) (p : Packet) : (setPkt s i p).ed = s.ed := rfl
@[simp] theorem setPkt_west (i : Nat) (p : Packet) : (setPkt s i p).west = s.west := rfl
@[simp] theorem setPkt_east (i : Nat) (p : Packet) : (setPkt s i p).east = s.east := rfl
@[simp] theorem setPkt_stn (i : Nat) (p : Packet) : (setPkt s i p).stn = s.stn := rfl
@[simp] theorem setPkt_delayed (i : Nat) (p : Packet) : (setPkt s i p).delayed = s.delayed := rfl
@[simp] theorem setPkt_prep (i : Nat) (p : Packet) : (setPkt s i p).prep = s.prep := rfl
@[simp] theorem setPkt_readmits (i : Nat) (p : Packet) : (setPkt s i p).readmits = s.readmits := rfl
@[simp] theorem setPkt_vacant (i : Nat) (p : Packet) : (setPkt s i p).vacant = s.vacant := rfl
@[simp] theorem setPkt_spareCheck (i : Nat) (p : Packet) : (setPkt s i p).spareCheck = s.spareCheck := rfl
@[simp] theorem setPkt_locks (i : Nat) (p : Packet) : (setPkt s i p).locks = s.locks := rfl
@[simp] theorem setPkt_held (i : Nat) (p : Packet) : (setPkt s i p).held = s.held := rfl
@[simp] theorem setPkt_chans (i : Nat) (p : Packet) : (setPkt s i p).chans = s.chans := rfl
@[simp] theorem setPkt_tbl (i : Nat) (p : Packet) : (setPkt s i p).tbl = s.tbl := rfl
@[simp] theorem setPkt_buf (i : Nat) (p : Packet) : (setPkt s i p).buf = s.buf := rfl
@[simp] theorem setPkt_tm (i : Nat) (p : Packet) : (setPkt s i p).tm = s.tm := rfl
@[simp] theorem setPkt_hbm (i : Nat) (p : Packet) : (setPkt s i p).hbm = s.hbm := rfl
@[simp] theorem setPkt_host (i : Nat) (p : Packet) : (setPkt s i p).host = s.host := rfl
@[simp] theorem setPkt_flt (i : Nat) (p : Packet) : (setPkt s i p).flt = s.flt := rfl
@[simp] theorem setPkt_store (i : Nat) (p : Packet) : (setPkt s i p).store = s.store := rfl
@[simp] theorem setPkt_fuses (i : Nat) (p : Packet) : (setPkt s i p).fuses = s.fuses := rfl
@[simp] theorem setPkt_fw (i : Nat) (p : Packet) : (setPkt s i p).fw = s.fw := rfl
@[simp] theorem setPkt_env (i : Nat) (p : Packet) : (setPkt s i p).env = s.env := rfl
@[simp] theorem setPkt_freeCtr (i : Nat) (p : Packet) : (setPkt s i p).freeCtr = s.freeCtr := rfl

/-! ### dropPkt -/

/-- A dropped packet changes the packets and the snapshot entry that its trap record names. -/
theorem dropPkt_eq (i : Nat) : dropPkt s i = { s with pkts := sset none s.pkts i none, stn := (dropPkt s i).stn } := by
  unfold dropPkt markReusable
  split
  · rfl
  · split <;> rfl

/-- A packet without a trap record leaves the stations as they are. -/
theorem dropPkt_stn (i : Nat) (h : ∀ p, getPkt s i = some p → p.trap = none) : (dropPkt s i).stn = s.stn := by
  unfold dropPkt
  split
  · rfl
  · next p hp => simp [markReusable, h p hp]

@[simp] theorem dropPkt_pkts (i : Nat) : (dropPkt s i).pkts = sset none s.pkts i none := by rw [dropPkt_eq]
@[simp] theorem dropPkt_pending (i : Nat) : (dropPkt s i).pending = s.pending := by rw [dropPkt_eq]
@[simp] theorem dropPkt_clk (i : Nat) : (dropPkt s i).clk = s.clk := by rw [dropPkt_eq]
@[simp] theorem dropPkt_datum (i : Nat) : (dropPkt s i).datum = s.datum := by rw [dropPkt_eq]
@[simp] theorem dropPkt_par (i : Nat) : (dropPkt s i).par = s.par := by rw [dropPkt_eq]
@[simp] theorem dropPkt_excTokens (i : Nat) : (dropPkt s i).excTokens = s.excTokens := by rw [dropPkt_eq]
@[simp] theorem dropPkt_excLast (i : Nat) : (dropPkt s i).excLast = s.excLast := by rw [dropPkt_eq]
@[simp] theorem dropPkt_ed (i : Nat) : (dropPkt s i).ed = s.ed := by rw [dropPkt_eq]
@[simp] theorem dropPkt_west (i : Nat) : (dropPkt s i).west = s.west := by rw [dropPkt_eq]
@[simp] theorem dropPkt_east (i : Nat) : (dropPkt s i).east = s.east := by rw [dropPkt_eq]
@[simp] theorem dropPkt_delayed (i : Nat) : (dropPkt s i).delayed = s.delayed := by rw [dropPkt_eq]
@[simp] theorem dropPkt_prep (i : Nat) : (dropPkt s i).prep = s.prep := by rw [dropPkt_eq]
@[simp] theorem dropPkt_readmits (i : Nat) : (dropPkt s i).readmits = s.readmits := by rw [dropPkt_eq]
@[simp] theorem dropPkt_vacant (i : Nat) : (dropPkt s i).vacant = s.vacant := by rw [dropPkt_eq]
@[simp] theorem dropPkt_spareCheck (i : Nat) : (dropPkt s i).spareCheck = s.spareCheck := by rw [dropPkt_eq]
@[simp] theorem dropPkt_locks (i : Nat) : (dropPkt s i).locks = s.locks := by rw [dropPkt_eq]
@[simp] theorem dropPkt_held (i : Nat) : (dropPkt s i).held = s.held := by rw [dropPkt_eq]
@[simp] theorem dropPkt_chans (i : Nat) : (dropPkt s i).chans = s.chans := by rw [dropPkt_eq]
@[simp] theorem dropPkt_tbl (i : Nat) : (dropPkt s i).tbl = s.tbl := by rw [dropPkt_eq]
@[simp] theorem dropPkt_buf (i : Nat) : (dropPkt s i).buf = s.buf := by rw [dropPkt_eq]
@[simp] theorem dropPkt_tm (i : Nat) : (dropPkt s i).tm = s.tm := by rw [dropPkt_eq]
@[simp] theorem dropPkt_hbm (i : Nat) : (dropPkt s i).hbm = s.hbm := by rw [dropPkt_eq]
@[simp] theorem dropPkt_host (i : Nat) : (dropPkt s i).host = s.host := by rw [dropPkt_eq]
@[simp] theorem dropPkt_flt (i : Nat) : (dropPkt s i).flt = s.flt := by rw [dropPkt_eq]
@[simp] theorem dropPkt_store (i : Nat) : (dropPkt s i).store = s.store := by rw [dropPkt_eq]
@[simp] theorem dropPkt_fuses (i : Nat) : (dropPkt s i).fuses = s.fuses := by rw [dropPkt_eq]
@[simp] theorem dropPkt_fw (i : Nat) : (dropPkt s i).fw = s.fw := by rw [dropPkt_eq]
@[simp] theorem dropPkt_env (i : Nat) : (dropPkt s i).env = s.env := by rw [dropPkt_eq]
@[simp] theorem dropPkt_freeCtr (i : Nat) : (dropPkt s i).freeCtr = s.freeCtr := by rw [dropPkt_eq]

/-! ### Counters -/

@[simp] theorem pcount_pending (id n : Nat) : (pcount s id n).pending = s.pending := rfl
@[simp] theorem pcount_clk (id n : Nat) : (pcount s id n).clk = s.clk := rfl
@[simp] theorem pcount_datum (id n : Nat) : (pcount s id n).datum = s.datum := rfl
@[simp] theorem pcount_excTokens (id n : Nat) : (pcount s id n).excTokens = s.excTokens := rfl
@[simp] theorem pcount_excLast (id n : Nat) : (pcount s id n).excLast = s.excLast := rfl
@[simp] theorem pcount_ed (id n : Nat) : (pcount s id n).ed = s.ed := rfl
@[simp] theorem pcount_pkts (id n : Nat) : (pcount s id n).pkts = s.pkts := rfl
@[simp] theorem pcount_west (id n : Nat) : (pcount s id n).west = s.west := rfl
@[simp] theorem pcount_east (id n : Nat) : (pcount s id n).east = s.east := rfl
@[simp] theorem pcount_stn (id n : Nat) : (pcount s id n).stn = s.stn := rfl
@[simp] theorem pcount_delayed (id n : Nat) : (pcount s id n).delayed = s.delayed := rfl
@[simp] theorem pcount_prep (id n : Nat) : (pcount s id n).prep = s.prep := rfl
@[simp] theorem pcount_readmits (id n : Nat) : (pcount s id n).readmits = s.readmits := rfl
@[simp] theorem pcount_vacant (id n : Nat) : (pcount s id n).vacant = s.vacant := rfl
@[simp] theorem pcount_spareCheck (id n : Nat) : (pcount s id n).spareCheck = s.spareCheck := rfl
@[simp] theorem pcount_locks (id n : Nat) : (pcount s id n).locks = s.locks := rfl
@[simp] theorem pcount_held (id n : Nat) : (pcount s id n).held = s.held := rfl
@[simp] theorem pcount_chans (id n : Nat) : (pcount s id n).chans = s.chans := rfl
@[simp] theorem pcount_tbl (id n : Nat) : (pcount s id n).tbl = s.tbl := rfl
@[simp] theorem pcount_buf (id n : Nat) : (pcount s id n).buf = s.buf := rfl
@[simp] theorem pcount_tm (id n : Nat) : (pcount s id n).tm = s.tm := rfl
@[simp] theorem pcount_hbm (id n : Nat) : (pcount s id n).hbm = s.hbm := rfl
@[simp] theorem pcount_host (id n : Nat) : (pcount s id n).host = s.host := rfl
@[simp] theorem pcount_flt (id n : Nat) : (pcount s id n).flt = s.flt := rfl
@[simp] theorem pcount_store (id n : Nat) : (pcount s id n).store = s.store := rfl
@[simp] theorem pcount_fuses (id n : Nat) : (pcount s id n).fuses = s.fuses := rfl
@[simp] theorem pcount_fw (id n : Nat) : (pcount s id n).fw = s.fw := rfl
@[simp] theorem pcount_env (id n : Nat) : (pcount s id n).env = s.env := rfl
@[simp] theorem pcount_freeCtr (id n : Nat) : (pcount s id n).freeCtr = s.freeCtr := rfl

@[simp] theorem pinc_pending (id : Nat) : (pinc s id).pending = s.pending := rfl
@[simp] theorem pinc_clk (id : Nat) : (pinc s id).clk = s.clk := rfl
@[simp] theorem pinc_datum (id : Nat) : (pinc s id).datum = s.datum := rfl
@[simp] theorem pinc_excTokens (id : Nat) : (pinc s id).excTokens = s.excTokens := rfl
@[simp] theorem pinc_excLast (id : Nat) : (pinc s id).excLast = s.excLast := rfl
@[simp] theorem pinc_ed (id : Nat) : (pinc s id).ed = s.ed := rfl
@[simp] theorem pinc_pkts (id : Nat) : (pinc s id).pkts = s.pkts := rfl
@[simp] theorem pinc_west (id : Nat) : (pinc s id).west = s.west := rfl
@[simp] theorem pinc_east (id : Nat) : (pinc s id).east = s.east := rfl
@[simp] theorem pinc_stn (id : Nat) : (pinc s id).stn = s.stn := rfl
@[simp] theorem pinc_delayed (id : Nat) : (pinc s id).delayed = s.delayed := rfl
@[simp] theorem pinc_prep (id : Nat) : (pinc s id).prep = s.prep := rfl
@[simp] theorem pinc_readmits (id : Nat) : (pinc s id).readmits = s.readmits := rfl
@[simp] theorem pinc_vacant (id : Nat) : (pinc s id).vacant = s.vacant := rfl
@[simp] theorem pinc_spareCheck (id : Nat) : (pinc s id).spareCheck = s.spareCheck := rfl
@[simp] theorem pinc_locks (id : Nat) : (pinc s id).locks = s.locks := rfl
@[simp] theorem pinc_held (id : Nat) : (pinc s id).held = s.held := rfl
@[simp] theorem pinc_chans (id : Nat) : (pinc s id).chans = s.chans := rfl
@[simp] theorem pinc_tbl (id : Nat) : (pinc s id).tbl = s.tbl := rfl
@[simp] theorem pinc_buf (id : Nat) : (pinc s id).buf = s.buf := rfl
@[simp] theorem pinc_tm (id : Nat) : (pinc s id).tm = s.tm := rfl
@[simp] theorem pinc_hbm (id : Nat) : (pinc s id).hbm = s.hbm := rfl
@[simp] theorem pinc_host (id : Nat) : (pinc s id).host = s.host := rfl
@[simp] theorem pinc_flt (id : Nat) : (pinc s id).flt = s.flt := rfl
@[simp] theorem pinc_store (id : Nat) : (pinc s id).store = s.store := rfl
@[simp] theorem pinc_fuses (id : Nat) : (pinc s id).fuses = s.fuses := rfl
@[simp] theorem pinc_fw (id : Nat) : (pinc s id).fw = s.fw := rfl
@[simp] theorem pinc_env (id : Nat) : (pinc s id).env = s.env := rfl
@[simp] theorem pinc_freeCtr (id : Nat) : (pinc s id).freeCtr = s.freeCtr := rfl

/-- `pmax` changes counters only. -/
theorem pmax_eq (id v : Nat) : pmax s id v = { s with par := (pmax s id v).par } := by
  unfold pmax; dsimp only; split <;> rfl

@[simp] theorem pmax_pending (id v : Nat) : (pmax s id v).pending = s.pending := by rw [pmax_eq]
@[simp] theorem pmax_clk (id v : Nat) : (pmax s id v).clk = s.clk := by rw [pmax_eq]
@[simp] theorem pmax_datum (id v : Nat) : (pmax s id v).datum = s.datum := by rw [pmax_eq]
@[simp] theorem pmax_excTokens (id v : Nat) : (pmax s id v).excTokens = s.excTokens := by rw [pmax_eq]
@[simp] theorem pmax_excLast (id v : Nat) : (pmax s id v).excLast = s.excLast := by rw [pmax_eq]
@[simp] theorem pmax_ed (id v : Nat) : (pmax s id v).ed = s.ed := by rw [pmax_eq]
@[simp] theorem pmax_pkts (id v : Nat) : (pmax s id v).pkts = s.pkts := by rw [pmax_eq]
@[simp] theorem pmax_west (id v : Nat) : (pmax s id v).west = s.west := by rw [pmax_eq]
@[simp] theorem pmax_east (id v : Nat) : (pmax s id v).east = s.east := by rw [pmax_eq]
@[simp] theorem pmax_stn (id v : Nat) : (pmax s id v).stn = s.stn := by rw [pmax_eq]
@[simp] theorem pmax_delayed (id v : Nat) : (pmax s id v).delayed = s.delayed := by rw [pmax_eq]
@[simp] theorem pmax_prep (id v : Nat) : (pmax s id v).prep = s.prep := by rw [pmax_eq]
@[simp] theorem pmax_readmits (id v : Nat) : (pmax s id v).readmits = s.readmits := by rw [pmax_eq]
@[simp] theorem pmax_vacant (id v : Nat) : (pmax s id v).vacant = s.vacant := by rw [pmax_eq]
@[simp] theorem pmax_spareCheck (id v : Nat) : (pmax s id v).spareCheck = s.spareCheck := by rw [pmax_eq]
@[simp] theorem pmax_locks (id v : Nat) : (pmax s id v).locks = s.locks := by rw [pmax_eq]
@[simp] theorem pmax_held (id v : Nat) : (pmax s id v).held = s.held := by rw [pmax_eq]
@[simp] theorem pmax_chans (id v : Nat) : (pmax s id v).chans = s.chans := by rw [pmax_eq]
@[simp] theorem pmax_tbl (id v : Nat) : (pmax s id v).tbl = s.tbl := by rw [pmax_eq]
@[simp] theorem pmax_buf (id v : Nat) : (pmax s id v).buf = s.buf := by rw [pmax_eq]
@[simp] theorem pmax_tm (id v : Nat) : (pmax s id v).tm = s.tm := by rw [pmax_eq]
@[simp] theorem pmax_hbm (id v : Nat) : (pmax s id v).hbm = s.hbm := by rw [pmax_eq]
@[simp] theorem pmax_host (id v : Nat) : (pmax s id v).host = s.host := by rw [pmax_eq]
@[simp] theorem pmax_flt (id v : Nat) : (pmax s id v).flt = s.flt := by rw [pmax_eq]
@[simp] theorem pmax_store (id v : Nat) : (pmax s id v).store = s.store := by rw [pmax_eq]
@[simp] theorem pmax_fuses (id v : Nat) : (pmax s id v).fuses = s.fuses := by rw [pmax_eq]
@[simp] theorem pmax_fw (id v : Nat) : (pmax s id v).fw = s.fw := by rw [pmax_eq]
@[simp] theorem pmax_env (id v : Nat) : (pmax s id v).env = s.env := by rw [pmax_eq]
@[simp] theorem pmax_freeCtr (id v : Nat) : (pmax s id v).freeCtr = s.freeCtr := by rw [pmax_eq]

/-! ### Reads -/

/-- A parameter reads what was written to it. -/
@[simp] theorem pget_pset_same (id v : Nat) : pget (pset s id v) id = v := by simp [pget, pset]

/-- Every other parameter reads as before. -/
theorem pget_pset_ne {id j : Nat} (v : Nat) (h : j ≠ id) : pget (pset s id v) j = pget s j := by
  simp only [pget, pset]; exact sget_sset_ne _ _ _ v h

@[simp] theorem getStn_modStn_same (k : Nat) (f : Station → Station) : getStn (modStn s k f) k = f (getStn s k) := by
  simp [getStn, modStn]

theorem getStn_modStn_ne {k j : Nat} (f : Station → Station) (h : j ≠ k) : getStn (modStn s k f) j = getStn s j := by
  simp [getStn, modStn, sget_smod_ne _ _ _ h]

@[simp] theorem getThr_modThr_same (k l : Nat) (f : Thread → Thread) : getThr (modThr s k l f) k l = f (getThr s k l) := by
  simp [getThr, modThr]

theorem getThr_modThr_ne {k l j i : Nat} (f : Thread → Thread) (h : (j, i) ≠ (k, l)) :
    getThr (modThr s k l f) j i = getThr s j i := by
  by_cases hk : j = k
  · subst hk
    have : i ≠ l := fun e => h (by rw [e])
    simp [getThr, modThr, sget_smod_ne _ _ _ this]
  · simp [getThr, modThr, getStn_modStn_ne _ _ hk]

@[simp] theorem getTask_modThr (k l j i : Nat) (f : Thread → Thread) : getTask (modThr s k l f) j i = getTask s j i := by
  by_cases hk : j = k
  · subst hk; simp [getTask, modThr]
  · simp [getTask, modThr, getStn_modStn_ne _ _ hk]

@[simp] theorem getTask_modTask_same (k i : Nat) (f : Task → Task) : getTask (modTask s k i f) k i = f (getTask s k i) := by
  simp [getTask, modTask]

@[simp] theorem getThr_modTask (k i j l : Nat) (f : Task → Task) : getThr (modTask s k i f) j l = getThr s j l := by
  by_cases hk : j = k
  · subst hk; simp [getThr, modTask]
  · simp [getThr, modTask, getStn_modStn_ne _ _ hk]

@[simp] theorem getPkt_setPkt_same (i : Nat) (p : Packet) : getPkt (setPkt s i p) i = some p := by simp [getPkt, setPkt]

theorem getPkt_setPkt_ne {i j : Nat} (p : Packet) (h : j ≠ i) : getPkt (setPkt s i p) j = getPkt s j := by
  simp only [getPkt, setPkt]; exact sget_sset_ne _ _ _ _ h

theorem pget_modStn (k id : Nat) (f : Station → Station) : pget (modStn s k f) id = pget s id := rfl

theorem pget_modThr (k l id : Nat) (f : Thread → Thread) : pget (modThr s k l f) id = pget s id := rfl

@[simp] theorem getStn_pset (id v k : Nat) : getStn (pset s id v) k = getStn s k := rfl
@[simp] theorem getStn_pcount (id n k : Nat) : getStn (pcount s id n) k = getStn s k := rfl
@[simp] theorem getStn_pinc (id k : Nat) : getStn (pinc s id) k = getStn s k := rfl
@[simp] theorem getStn_pmax (id v k : Nat) : getStn (pmax s id v) k = getStn s k := by rw [pmax_eq]; rfl
@[simp] theorem getThr_pset (id v k l : Nat) : getThr (pset s id v) k l = getThr s k l := rfl
@[simp] theorem getThr_pcount (id n k l : Nat) : getThr (pcount s id n) k l = getThr s k l := rfl
@[simp] theorem getThr_pinc (id k l : Nat) : getThr (pinc s id) k l = getThr s k l := rfl
@[simp] theorem getThr_pmax (id v k l : Nat) : getThr (pmax s id v) k l = getThr s k l := by rw [pmax_eq]; rfl

/-! ### Registers (R142) -/

/-- g0 reads zero. -/
@[simp] theorem reg_zero (th : Thread) : th.reg 0 = 0 := rfl

/-- A write of g0 is discarded. -/
@[simp] theorem setReg_zero (th : Thread) (v : Word) : th.setReg 0 v = th := rfl

theorem reg_setReg_same (th : Thread) (r : BitVec 4) (v : Word) (h : r ≠ 0) : (th.setReg r v).reg r = v := by
  unfold Thread.reg Thread.setReg
  simp only [if_neg h, sget_sset_same]

theorem reg_setReg_ne (th : Thread) {r q : BitVec 4} (v : Word) (h : q ≠ r) : (th.setReg r v).reg q = th.reg q := by
  by_cases hr : r = 0
  · subst hr; rfl
  · by_cases hq : q = 0
    · subst hq; rfl
    · have : q.toNat ≠ r.toNat := fun e => h (BitVec.eq_of_toNat_eq e)
      unfold Thread.reg Thread.setReg
      simp only [if_neg hr, if_neg hq]
      exact sget_sset_ne _ _ _ _ this

/-- p0 reads 1. -/
@[simp] theorem pred_zero (th : Thread) : th.pred 0 = true := rfl

/-- A write of p0 is discarded. -/
@[simp] theorem setPred_zero (th : Thread) (v : Bool) : th.setPred 0 v = th := rfl

@[simp] theorem pred_setReg (th : Thread) (r : BitVec 4) (v : Word) (n : BitVec 3) : (th.setReg r v).pred n = th.pred n := by
  unfold Thread.setReg; split <;> rfl

@[simp] theorem reg_setPred (th : Thread) (n : BitVec 3) (v : Bool) (r : BitVec 4) : (th.setPred n v).reg r = th.reg r := by
  unfold Thread.setPred; split <;> rfl

end Sys2Proof.Machine
end

