-- ==== Sys2Proof/Laws/Issue.lean ====
section
/-! SUPPORT. What the issue of an instruction can do, said once (R150, R156, R157). -/

namespace Sys2Proof.Machine

/-- The slot: thread t's SLOTS counts, and the use of its core's slots, the station's stall figures and two counters move; nothing else. -/
theorem useSlot_thr (s : State) (k l : Nat) :
    getThr (useSlot s k l) k l = { getThr s k l with slots := (getThr s k l).slots + 1, lastAt := some s.clk } := by
  unfold useSlot
  dsimp only
  rw [getThr, getStn_modStn_same]
  dsimp only
  rw [sget_smod_same]
  split <;> simp [getThr]

theorem useSlot_thr_ne (s : State) {k l j i : Nat} (h : (j, i) ≠ (k, l)) : getThr (useSlot s k l) j i = getThr s j i := by
  unfold useSlot
  dsimp only
  by_cases hk : j = k
  · subst hk
    have hi : i ≠ l := fun e => h (by rw [e])
    rw [getThr, getStn_modStn_same]
    dsimp only
    rw [sget_smod_ne _ _ _ hi]
    split <;> simp [getThr]
  · rw [getThr, getStn_modStn_ne _ _ hk]
    split <;> simp [getThr]

theorem useSlot_rest (s : State) (k l j : Nat) : stnRest (getStn (useSlot s k l) j) = stnRest (getStn s j) := by
  unfold useSlot
  dsimp only
  by_cases hk : j = k
  · subst hk
    rw [getStn_modStn_same]
    split <;> simp [stnRest]
  · rw [getStn_modStn_ne _ _ hk]
    split <;> simp

theorem pget_pmax_ne (s : State) {id j : Nat} (v : Nat) (h : j ≠ id) : pget (pmax s id v) j = pget s j := by
  unfold pmax
  dsimp only
  split
  · exact pget_pset_ne s _ h
  · rfl

theorem pget_pinc_ne (s : State) {id j : Nat} (h : j ≠ id) : pget (pinc s id) j = pget s j := pget_pset_ne s _ h

theorem useSlot_pget (s : State) (k l id : Nat) (h1 : id ≠ pidDispSStallMax k) (h2 : id ≠ pidStnSCoreReclaimed k (l / 8)) :
    pget (useSlot s k l) id = pget s id := by
  unfold useSlot
  dsimp only
  rw [pget_modStn]
  split
  · exact pget_pmax_ne s _ h1
  · rw [pget_pinc_ne _ h2]; exact pget_pmax_ne s _ h1

/-- Only stations and counters may differ from s. -/
def StnPar (s u : State) : Prop := u = { s with stn := u.stn, par := u.par }

theorem stnPar_refl (s : State) : StnPar s s := rfl

theorem stnPar_pset {s u : State} (h : StnPar s u) (id v : Nat) : StnPar s (pset u id v) := by
  have e := congrArg (fun y : State => ({ y with par := (pset u id v).par } : State)) h
  exact e

theorem stnPar_modStn {s u : State} (h : StnPar s u) (k : Nat) (f : Station → Station) : StnPar s (modStn u k f) := by
  have e := congrArg (fun y : State => ({ y with stn := (modStn u k f).stn } : State)) h
  exact e

theorem stnPar_pmax {s u : State} (h : StnPar s u) (id v : Nat) : StnPar s (pmax u id v) := by
  unfold pmax
  dsimp only
  split
  · exact stnPar_pset h id _
  · exact h

theorem useSlot_stnPar (s : State) (k l : Nat) : StnPar s (useSlot s k l) := by
  unfold useSlot
  dsimp only
  apply stnPar_modStn
  split
  · exact stnPar_pmax (stnPar_refl s) _ _
  · exact stnPar_pset (stnPar_pmax (stnPar_refl s) _ _) _ _

theorem stnRest_modThr (s : State) (k l j : Nat) (f : Thread → Thread) :
    stnRest (getStn (modThr s k l f) j) = stnRest (getStn s j) := by
  by_cases h : j = k
  · subst h; unfold modThr; rw [getStn_modStn_same]; rfl
  · unfold modThr; rw [getStn_modStn_ne _ _ h]

theorem issuedState_thr (s : State) (t : Tid) (n : Nat) : thrOf (issuedState s t n) t = issuedThr s t n := by
  unfold thrOf issuedState issuedThr thrOf
  rw [getThr_modThr_same, useSlot_thr]

/-- Changing the context of thread t after its slot changes that thread only. -/
theorem onlyThread_issued (s : State) (t : Tid) (n : Nat) (f : Thread → Thread) :
    OnlyThread s (modThr (issuedState s t n) t.stn.val (tlane t) f) t (f (issuedThr s t n)) := by
  refine ⟨?_, ?_, ?_, ?_, ?_⟩
  · rw [← issuedState_thr]; exact getThr_modThr_same _ _ _ _
  · intro k l h
    rw [issuedState, getThr_modThr_ne _ _ h, getThr_modThr_ne _ _ h, useSlot_thr_ne _ h]
  · intro k
    rw [stnRest_modThr, issuedState, stnRest_modThr, useSlot_rest]
  · intro id h1 h2
    rw [pget_modThr, issuedState, pget_modThr]
    exact useSlot_pget s t.stn.val (tlane t) id h1 h2
  · exact stnPar_modStn (stnPar_modStn (useSlot_stnPar s _ _) _ _) _ _

/-- A thread that cannot issue does nothing; a squashed helper instruction is counted as killed (R185, R186). -/
theorem issueAs_not (helper : Bool) (s : State) (t : Tid) (p : Guard) (b : Bool) (n : Nat) (body : State → Effects)
    (h : canIssue s t.stn.val (tlane t) = false) : issueAs helper s t p b n body =
      .next (killTag s t.stn.val (helper && squashed s.clk (getThr s t.stn.val (tlane t)))) := by simp [issueAs, h]

theorem issue_not (s : State) (t : Tid) (p : Guard) (b : Bool) (n : Nat) (body : State → Effects)
    (h : canIssue s t.stn.val (tlane t) = false) : issue s t p b n body = .next s := by
  unfold issue; rw [issueAs_not false s t p b n body h]; rfl

/-- An undefined encoding traps, whatever its guard; that of a helper instruction is counted as killed (R157, R186). -/
theorem issueAs_undef (helper : Bool) (s : State) (t : Tid) (p : Guard) (n : Nat) (body : State → Effects)
    (h : canIssue s t.stn.val (tlane t) = true) : issueAs helper s t p true n body =
      .next (takeTrap (killTag (useSlot s t.stn.val (tlane t)) t.stn.val helper) t.stn.val (tlane t) trapUndefined) := by
  simp [issueAs, h]

theorem issue_undef (s : State) (t : Tid) (p : Guard) (n : Nat) (body : State → Effects)
    (h : canIssue s t.stn.val (tlane t) = true) :
    issue s t p true n body = .next (takeTrap (useSlot s t.stn.val (tlane t)) t.stn.val (tlane t) trapUndefined) := by
  unfold issue; rw [issueAs_undef false s t p n body h]; rfl

theorem haltBoundary_none (s : State) (k l : Nat) (h : (getThr s k l).halt = none) : haltBoundary s k l = s := by
  simp [haltBoundary, h]

theorem advance_halt (n : Nat) (th : Thread) : (advance n th).halt = th.halt := by unfold advance; split <;> rfl

theorem issuedThr_halt (s : State) (t : Tid) (n : Nat) : (issuedThr s t n).halt = (thrOf s t).halt := by
  unfold issuedThr; rw [advance_halt]

/-- A false guard leaves everything but the slot (R156). -/
theorem issueAs_guard (helper : Bool) (s : State) (t : Tid) (p : Guard) (n : Nat) (body : State → Effects) (h : Ready s t)
    (hu : guardUndef p = false) (hg : (thrOf s t).guard p = false) :
    issueAs helper s t p false n body = .next (issuedState s t n) := by
  have hg' : (getThr s t.stn.val (tlane t)).guard p = false := hg
  have hh : (getThr (issuedState s t n) t.stn.val (tlane t)).halt = none := by
    have := issuedThr_halt s t n
    rw [← issuedState_thr] at this
    exact this.trans h.2
  have hb := haltBoundary_none _ _ _ hh
  simp only [issueAs, h.1, hu, hg', Bool.not_true, Bool.false_eq_true, if_false, Bool.or_self, Bool.not_false, if_true]
  exact congrArg Host.Outcome.next hb

theorem issue_guard (s : State) (t : Tid) (p : Guard) (n : Nat) (body : State → Effects) (h : Ready s t)
    (hu : guardUndef p = false) (hg : (thrOf s t).guard p = false) :
    issue s t p false n body = .next (issuedState s t n) := issueAs_guard false s t p n body h hu hg

/-- An instruction that runs has the effect of its body, or traps. -/
theorem issueAs_runs (helper : Bool) (s : State) (t : Tid) (p : Guard) (n : Nat) (body : State → Effects) (h : Runs s t p) :
    issueAs helper s t p false n body = match body (issuedState s t n) with
      | .ok u => .next (haltBoundary u t.stn.val (tlane t))
      | .error i => .next (takeTrap (killTag (useSlot s t.stn.val (tlane t)) t.stn.val helper) t.stn.val (tlane t) i) := by
  simp only [issueAs, h.1.1, h.2.1, h.2.2, Bool.not_true, Bool.false_eq_true, if_false, Bool.or_self]
  unfold issuedState
  cases body _ <;> rfl

theorem issue_runs (s : State) (t : Tid) (p : Guard) (n : Nat) (body : State → Effects) (h : Runs s t p) :
    issue s t p false n body = match body (issuedState s t n) with
      | .ok u => .next (haltBoundary u t.stn.val (tlane t))
      | .error i => .next (takeTrap (useSlot s t.stn.val (tlane t)) t.stn.val (tlane t) i) := issueAs_runs false s t p n body h

/-- With no store of an earlier CPY to come, an access is made in the state that the slot leaves (R165). -/
theorem orderStores_none (s : State) (k l a : Nat) (h : ∀ e ∈ s.delayed, storeOf k l a e.2 = false) : orderStores s k l a = s := by
  have h1 : s.delayed.filter (fun e => storeOf k l a e.2) = [] := by
    rw [List.filter_eq_nil_iff]; intro e he; simp [h e he]
  have h2 : s.delayed.filter (fun e => !storeOf k l a e.2) = s.delayed := by
    rw [List.filter_eq_self]; intro e he; simp [h e he]
  unfold orderStores
  dsimp only
  rw [h1, h2]
  rfl

theorem issuedState_delayed (s : State) (t : Tid) (n : Nat) : (issuedState s t n).delayed = s.delayed := by
  have h := stnPar_modStn (useSlot_stnPar s t.stn.val (tlane t)) t.stn.val fun st =>
    { st with threads := smod {} st.threads (tlane t) (advance n) }
  have e := congrArg State.delayed h
  exact e

theorem accessState_eq (s : State) (t : Tid) (n a : Nat) (h : NoStoreWaits s t a) : accessState s t n a = issuedState s t n := by
  refine orderStores_none _ _ _ _ fun e he => h e ?_
  rwa [issuedState_delayed] at he

/-- An instruction that changes its thread's context only, when it runs. -/
theorem issueThr_runs (s : State) (t : Tid) (p : Guard) (n : Nat) (f : Thread → Thread) (h : Runs s t p)
    (hf : (f (issuedThr s t n)).halt = none) :
    ∃ u, issueThr s t p false n f = .next u ∧ OnlyThread s u t (f (issuedThr s t n)) := by
  refine ⟨_, ?_, onlyThread_issued s t n f⟩
  have hh : (getThr (modThr (issuedState s t n) t.stn.val (tlane t) f) t.stn.val (tlane t)).halt = none := by
    rw [getThr_modThr_same]
    have := issuedState_thr s t n
    unfold thrOf at this
    rw [this, hf]
  unfold issueThr
  rw [issue_runs s t p n _ h]
  exact congrArg Host.Outcome.next (haltBoundary_none _ _ _ hh)

/-! ### Contexts after the slot -/

@[simp] theorem issuedThr_reg (s : State) (t : Tid) (n : Nat) (r : BitVec 4) : (issuedThr s t n).reg r = (thrOf s t).reg r := by
  unfold issuedThr advance; split <;> rfl

@[simp] theorem issuedThr_pred (s : State) (t : Tid) (n : Nat) (r : BitVec 3) : (issuedThr s t n).pred r = (thrOf s t).pred r := by
  unfold issuedThr advance; split <;> rfl

@[simp] theorem setReg_halt (th : Thread) (r : BitVec 4) (v : Word) : (th.setReg r v).halt = th.halt := by
  unfold Thread.setReg; split <;> rfl

@[simp] theorem setPred_halt (th : Thread) (r : BitVec 3) (v : Bool) : (th.setPred r v).halt = th.halt := by
  unfold Thread.setPred; split <;> rfl

end Sys2Proof.Machine
end

