-- ==== Sys2Proof/Laws/Core.lean ====
section
/-! SUPPORT. Every core and helper instruction is an issue of its guard, its encoding and its length (R150, R157); the rest of its effect is a body. -/

namespace Sys2Proof.Machine

set_option Elab.async false

theorem nopInsn_issue (s : State) (t : Tid) (p : Guard) :
    ∃ body, exec (.nopInsn t p) s = issue s t p (shortBad .short p []) (2) body :=
  ⟨_, by simp only [exec, execNopInsn, issueThr]; rfl⟩

theorem mov_issue (s : State) (t : Tid) (p : Guard) (rd : BitVec 4) (rs : BitVec 4) :
    ∃ body, exec (.mov t p rd rs) s = issue s t p (shortBad .short p [rd, rs]) (2) body :=
  ⟨_, by simp only [exec, execMov, issueThr]; rfl⟩

theorem add_issue (s : State) (t : Tid) (p : Guard) (f : Form) (rd : BitVec 4) (rs : BitVec 4) (rt : BitVec 4) :
    ∃ body, exec (.add t p f rd rs rt) s = issue s t p (shortBad f p [rd, rs, rt]) (formBytes f) body :=
  ⟨_, by simp only [exec, execAdd, aluRRR, issueThr]; rfl⟩

theorem sub_issue (s : State) (t : Tid) (p : Guard) (f : Form) (rd : BitVec 4) (rs : BitVec 4) (rt : BitVec 4) :
    ∃ body, exec (.sub t p f rd rs rt) s = issue s t p (shortBad f p [rd, rs, rt]) (formBytes f) body :=
  ⟨_, by simp only [exec, execSub, aluRRR, issueThr]; rfl⟩

theorem and_issue (s : State) (t : Tid) (p : Guard) (f : Form) (rd : BitVec 4) (rs : BitVec 4) (rt : BitVec 4) :
    ∃ body, exec (.and t p f rd rs rt) s = issue s t p (shortBad f p [rd, rs, rt]) (formBytes f) body :=
  ⟨_, by simp only [exec, execAnd, aluRRR, issueThr]; rfl⟩

theorem or_issue (s : State) (t : Tid) (p : Guard) (f : Form) (rd : BitVec 4) (rs : BitVec 4) (rt : BitVec 4) :
    ∃ body, exec (.or t p f rd rs rt) s = issue s t p (shortBad f p [rd, rs, rt]) (formBytes f) body :=
  ⟨_, by simp only [exec, execOr, aluRRR, issueThr]; rfl⟩

theorem xor_issue (s : State) (t : Tid) (p : Guard) (f : Form) (rd : BitVec 4) (rs : BitVec 4) (rt : BitVec 4) :
    ∃ body, exec (.xor t p f rd rs rt) s = issue s t p (shortBad f p [rd, rs, rt]) (formBytes f) body :=
  ⟨_, by simp only [exec, execXor, aluRRR, issueThr]; rfl⟩

theorem andn_issue (s : State) (t : Tid) (p : Guard) (f : Form) (rd : BitVec 4) (rs : BitVec 4) (rt : BitVec 4) :
    ∃ body, exec (.andn t p f rd rs rt) s = issue s t p (shortBad f p [rd, rs, rt]) (formBytes f) body :=
  ⟨_, by simp only [exec, execAndn, aluRRR, issueThr]; rfl⟩

theorem shl_issue (s : State) (t : Tid) (p : Guard) (rd : BitVec 4) (rs : BitVec 4) (rt : BitVec 4) :
    ∃ body, exec (.shl t p rd rs rt) s = issue s t p (false) (4) body :=
  ⟨_, by simp only [exec, execShl, aluRRR, issueThr]; rfl⟩

theorem shr_issue (s : State) (t : Tid) (p : Guard) (rd : BitVec 4) (rs : BitVec 4) (rt : BitVec 4) :
    ∃ body, exec (.shr t p rd rs rt) s = issue s t p (false) (4) body :=
  ⟨_, by simp only [exec, execShr, aluRRR, issueThr]; rfl⟩

theorem sar_issue (s : State) (t : Tid) (p : Guard) (rd : BitVec 4) (rs : BitVec 4) (rt : BitVec 4) :
    ∃ body, exec (.sar t p rd rs rt) s = issue s t p (false) (4) body :=
  ⟨_, by simp only [exec, execSar, aluRRR, issueThr]; rfl⟩

theorem rol_issue (s : State) (t : Tid) (p : Guard) (rd : BitVec 4) (rs : BitVec 4) (rt : BitVec 4) :
    ∃ body, exec (.rol t p rd rs rt) s = issue s t p (false) (4) body :=
  ⟨_, by simp only [exec, execRol, aluRRR, issueThr]; rfl⟩

theorem min_issue (s : State) (t : Tid) (p : Guard) (rd : BitVec 4) (rs : BitVec 4) (rt : BitVec 4) :
    ∃ body, exec (.min t p rd rs rt) s = issue s t p (false) (4) body :=
  ⟨_, by simp only [exec, execMin, aluRRR, issueThr]; rfl⟩

theorem max_issue (s : State) (t : Tid) (p : Guard) (rd : BitVec 4) (rs : BitVec 4) (rt : BitVec 4) :
    ∃ body, exec (.max t p rd rs rt) s = issue s t p (false) (4) body :=
  ⟨_, by simp only [exec, execMax, aluRRR, issueThr]; rfl⟩

theorem minu_issue (s : State) (t : Tid) (p : Guard) (rd : BitVec 4) (rs : BitVec 4) (rt : BitVec 4) :
    ∃ body, exec (.minu t p rd rs rt) s = issue s t p (false) (4) body :=
  ⟨_, by simp only [exec, execMinu, aluRRR, issueThr]; rfl⟩

theorem maxu_issue (s : State) (t : Tid) (p : Guard) (rd : BitVec 4) (rs : BitVec 4) (rt : BitVec 4) :
    ∃ body, exec (.maxu t p rd rs rt) s = issue s t p (false) (4) body :=
  ⟨_, by simp only [exec, execMaxu, aluRRR, issueThr]; rfl⟩

theorem mul_issue (s : State) (t : Tid) (p : Guard) (rd : BitVec 4) (rs : BitVec 4) (rt : BitVec 4) :
    ∃ body, exec (.mul t p rd rs rt) s = issue s t p (false) (4) body :=
  ⟨_, by simp only [exec, execMul, aluRRR, issueThr]; rfl⟩

theorem mulhu_issue (s : State) (t : Tid) (p : Guard) (rd : BitVec 4) (rs : BitVec 4) (rt : BitVec 4) :
    ∃ body, exec (.mulhu t p rd rs rt) s = issue s t p (false) (4) body :=
  ⟨_, by simp only [exec, execMulhu, aluRRR, issueThr]; rfl⟩

theorem sxb_issue (s : State) (t : Tid) (p : Guard) (rd : BitVec 4) (rs : BitVec 4) (rt : BitVec 4) :
    ∃ body, exec (.sxb t p rd rs rt) s = issue s t p (rt != 0) (4) body :=
  ⟨_, by simp only [exec, execSxb, aluRR, issueThr]; rfl⟩

theorem sxh_issue (s : State) (t : Tid) (p : Guard) (rd : BitVec 4) (rs : BitVec 4) (rt : BitVec 4) :
    ∃ body, exec (.sxh t p rd rs rt) s = issue s t p (rt != 0) (4) body :=
  ⟨_, by simp only [exec, execSxh, aluRR, issueThr]; rfl⟩

theorem zxb_issue (s : State) (t : Tid) (p : Guard) (rd : BitVec 4) (rs : BitVec 4) (rt : BitVec 4) :
    ∃ body, exec (.zxb t p rd rs rt) s = issue s t p (rt != 0) (4) body :=
  ⟨_, by simp only [exec, execZxb, aluRR, issueThr]; rfl⟩

theorem zxh_issue (s : State) (t : Tid) (p : Guard) (rd : BitVec 4) (rs : BitVec 4) (rt : BitVec 4) :
    ∃ body, exec (.zxh t p rd rs rt) s = issue s t p (rt != 0) (4) body :=
  ⟨_, by simp only [exec, execZxh, aluRR, issueThr]; rfl⟩

theorem clz_issue (s : State) (t : Tid) (p : Guard) (rd : BitVec 4) (rs : BitVec 4) (rt : BitVec 4) :
    ∃ body, exec (.clz t p rd rs rt) s = issue s t p (rt != 0) (4) body :=
  ⟨_, by simp only [exec, execClz, aluRR, issueThr]; rfl⟩

theorem popc_issue (s : State) (t : Tid) (p : Guard) (rd : BitVec 4) (rs : BitVec 4) (rt : BitVec 4) :
    ∃ body, exec (.popc t p rd rs rt) s = issue s t p (rt != 0) (4) body :=
  ⟨_, by simp only [exec, execPopc, aluRR, issueThr]; rfl⟩

theorem addi_issue (s : State) (t : Tid) (p : Guard) (f : Form) (rd : BitVec 4) (rs : BitVec 4) (imm : BitVec 13) :
    ∃ body, exec (.addi t p f rd rs imm) s = issue s t p (shortBad f p [rd] || (f = .short && rs != rd)) (formBytes f) body :=
  ⟨_, by simp only [exec, execAddi, issueThr]; rfl⟩

theorem shi_issue (s : State) (t : Tid) (p : Guard) (f : Form) (rd : BitVec 4) (rs : BitVec 4) (kind : BitVec 2) (n : BitVec 5) :
    ∃ body, exec (.shi t p f rd rs kind n) s = issue s t p (shortBad f p [rd] || (f = .short && rs != rd)) (formBytes f) body :=
  ⟨_, by simp only [exec, execShi, issueThr]; rfl⟩

theorem andi_issue (s : State) (t : Tid) (p : Guard) (rd : BitVec 4) (rs : BitVec 4) (imm : BitVec 13) :
    ∃ body, exec (.andi t p rd rs imm) s = issue s t p (false) (4) body :=
  ⟨_, by simp only [exec, execAndi, issueThr]; rfl⟩

theorem ori_issue (s : State) (t : Tid) (p : Guard) (rd : BitVec 4) (rs : BitVec 4) (imm : BitVec 13) :
    ∃ body, exec (.ori t p rd rs imm) s = issue s t p (false) (4) body :=
  ⟨_, by simp only [exec, execOri, issueThr]; rfl⟩

theorem xori_issue (s : State) (t : Tid) (p : Guard) (rd : BitVec 4) (rs : BitVec 4) (imm : BitVec 13) :
    ∃ body, exec (.xori t p rd rs imm) s = issue s t p (false) (4) body :=
  ⟨_, by simp only [exec, execXori, issueThr]; rfl⟩

theorem movhi_issue (s : State) (t : Tid) (p : Guard) (rd : BitVec 4) (imm : BitVec 16) :
    ∃ body, exec (.movhi t p rd imm) s = issue s t p (false) (4) body :=
  ⟨_, by simp only [exec, execMovhi, issueThr]; rfl⟩

theorem sel_issue (s : State) (t : Tid) (p : Guard) (rd : BitVec 4) (rs : BitVec 4) (rt : BitVec 4) (pa : BitVec 3) :
    ∃ body, exec (.sel t p rd rs rt pa) s = issue s t p (false) (4) body :=
  ⟨_, by simp only [exec, execSel, issueThr]; rfl⟩

theorem movi_issue (s : State) (t : Tid) (p : Guard) (f : Form) (rd : BitVec 4) (imm : BitVec 16) :
    ∃ body, exec (.movi t p f rd imm) s = issue s t p (shortBad f p [rd]) (formBytes f) body :=
  ⟨_, by simp only [exec, execMovi, issueThr]; rfl⟩

theorem cmp_issue (s : State) (t : Tid) (p : Guard) (f : Form) (pd : BitVec 3) (rs : BitVec 4) (rt : BitVec 4) (cond : BitVec 4) (comb : BitVec 2) :
    ∃ body, exec (.cmp t p f pd rs rt cond comb) s = issue s t p (compareBad f p [rs, rt] pd cond comb 2) (formBytes f) body :=
  ⟨_, by simp only [exec, execCmp, issueThr]; rfl⟩

theorem cmpi_issue (s : State) (t : Tid) (p : Guard) (f : Form) (pd : BitVec 3) (rs : BitVec 4) (imm : BitVec 8) (cond : BitVec 4) (comb : BitVec 2) :
    ∃ body, exec (.cmpi t p f pd rs imm cond comb) s = issue s t p (compareBad f p [rs] pd cond comb 1) (formBytes f) body :=
  ⟨_, by simp only [exec, execCmpi, issueThr]; rfl⟩

theorem pand_issue (s : State) (t : Tid) (p : Guard) (pd : BitVec 3) (pa : BitVec 3) (pb : BitVec 3) :
    ∃ body, exec (.pand t p pd pa pb) s = issue s t p (false) (4) body :=
  ⟨_, by simp only [exec, execPand, predOp, issueThr]; rfl⟩

theorem por_issue (s : State) (t : Tid) (p : Guard) (pd : BitVec 3) (pa : BitVec 3) (pb : BitVec 3) :
    ∃ body, exec (.por t p pd pa pb) s = issue s t p (false) (4) body :=
  ⟨_, by simp only [exec, execPor, predOp, issueThr]; rfl⟩

theorem pxor_issue (s : State) (t : Tid) (p : Guard) (pd : BitVec 3) (pa : BitVec 3) (pb : BitVec 3) :
    ∃ body, exec (.pxor t p pd pa pb) s = issue s t p (false) (4) body :=
  ⟨_, by simp only [exec, execPxor, predOp, issueThr]; rfl⟩

theorem pandn_issue (s : State) (t : Tid) (p : Guard) (pd : BitVec 3) (pa : BitVec 3) (pb : BitVec 3) :
    ∃ body, exec (.pandn t p pd pa pb) s = issue s t p (false) (4) body :=
  ⟨_, by simp only [exec, execPandn, predOp, issueThr]; rfl⟩

theorem pnot_issue (s : State) (t : Tid) (p : Guard) (pd : BitVec 3) (pa : BitVec 3) (pb : BitVec 3) :
    ∃ body, exec (.pnot t p pd pa pb) s = issue s t p (pb != 0) (4) body :=
  ⟨_, by simp only [exec, execPnot, predOp, issueThr]; rfl⟩

theorem pset_issue (s : State) (t : Tid) (p : Guard) (pd : BitVec 3) (pa : BitVec 3) (pb : BitVec 3) :
    ∃ body, exec (.pset t p pd pa pb) s = issue s t p (pa != 0 || pb != 0) (4) body :=
  ⟨_, by simp only [exec, execPset, predOp, issueThr]; rfl⟩

theorem pclr_issue (s : State) (t : Tid) (p : Guard) (pd : BitVec 3) (pa : BitVec 3) (pb : BitVec 3) :
    ∃ body, exec (.pclr t p pd pa pb) s = issue s t p (pa != 0 || pb != 0) (4) body :=
  ⟨_, by simp only [exec, execPclr, predOp, issueThr]; rfl⟩

theorem ext_issue (s : State) (t : Tid) (p : Guard) (rd : BitVec 4) (rs : BitVec 4) (pos : BitVec 5) (len1 : BitVec 5) :
    ∃ body, exec (.ext t p rd rs pos len1) s = issue s t p (fieldBad pos len1) (4) body :=
  ⟨_, by simp only [exec, execExt, issueThr]; rfl⟩

theorem exts_issue (s : State) (t : Tid) (p : Guard) (rd : BitVec 4) (rs : BitVec 4) (pos : BitVec 5) (len1 : BitVec 5) :
    ∃ body, exec (.exts t p rd rs pos len1) s = issue s t p (fieldBad pos len1) (4) body :=
  ⟨_, by simp only [exec, execExts, issueThr]; rfl⟩

theorem ins_issue (s : State) (t : Tid) (p : Guard) (rd : BitVec 4) (rs : BitVec 4) (pos : BitVec 5) (len1 : BitVec 5) :
    ∃ body, exec (.ins t p rd rs pos len1) s = issue s t p (fieldBad pos len1) (4) body :=
  ⟨_, by simp only [exec, execIns, issueThr]; rfl⟩

theorem ldb_issue (s : State) (t : Tid) (p : Guard) (f : Form) (rd : BitVec 4) (rs : BitVec 4) (off : BitVec 12) (pi : Bool) :
    ∃ body, exec (.ldb t p f rd rs off pi) s = issue s t p (shortBad f p [rd, rs] || shortOffBad f off pi || (pi && rd = rs)) (formBytes f) body :=
  ⟨_, by simp only [exec, execLdb, loadOp]; rfl⟩

theorem ldw_issue (s : State) (t : Tid) (p : Guard) (f : Form) (rd : BitVec 4) (rs : BitVec 4) (off : BitVec 12) (pi : Bool) :
    ∃ body, exec (.ldw t p f rd rs off pi) s = issue s t p (shortBad f p [rd, rs] || shortOffBad f off pi || (pi && rd = rs)) (formBytes f) body :=
  ⟨_, by simp only [exec, execLdw, loadOp]; rfl⟩

theorem ldh_issue (s : State) (t : Tid) (p : Guard) (rd : BitVec 4) (rs : BitVec 4) (off : BitVec 12) (pi : Bool) :
    ∃ body, exec (.ldh t p rd rs off pi) s = issue s t p (pi && rd = rs) (4) body :=
  ⟨_, by simp only [exec, execLdh, loadOp]; rfl⟩

theorem ldbs_issue (s : State) (t : Tid) (p : Guard) (rd : BitVec 4) (rs : BitVec 4) (off : BitVec 12) (pi : Bool) :
    ∃ body, exec (.ldbs t p rd rs off pi) s = issue s t p (pi && rd = rs) (4) body :=
  ⟨_, by simp only [exec, execLdbs, loadOp]; rfl⟩

theorem ldhs_issue (s : State) (t : Tid) (p : Guard) (rd : BitVec 4) (rs : BitVec 4) (off : BitVec 12) (pi : Bool) :
    ∃ body, exec (.ldhs t p rd rs off pi) s = issue s t p (pi && rd = rs) (4) body :=
  ⟨_, by simp only [exec, execLdhs, loadOp]; rfl⟩

theorem stb_issue (s : State) (t : Tid) (p : Guard) (f : Form) (rd : BitVec 4) (rs : BitVec 4) (off : BitVec 12) (pi : Bool) :
    ∃ body, exec (.stb t p f rd rs off pi) s = issue s t p (shortBad f p [rd, rs] || shortOffBad f off pi) (formBytes f) body :=
  ⟨_, by simp only [exec, execStb, storeOp]; rfl⟩

theorem stw_issue (s : State) (t : Tid) (p : Guard) (f : Form) (rd : BitVec 4) (rs : BitVec 4) (off : BitVec 12) (pi : Bool) :
    ∃ body, exec (.stw t p f rd rs off pi) s = issue s t p (shortBad f p [rd, rs] || shortOffBad f off pi) (formBytes f) body :=
  ⟨_, by simp only [exec, execStw, storeOp]; rfl⟩

theorem sth_issue (s : State) (t : Tid) (p : Guard) (rd : BitVec 4) (rs : BitVec 4) (off : BitVec 12) (pi : Bool) :
    ∃ body, exec (.sth t p rd rs off pi) s = issue s t p (false) (4) body :=
  ⟨_, by simp only [exec, execSth, storeOp]; rfl⟩

theorem cpy_issue (s : State) (t : Tid) (p : Guard) (gD : BitVec 4) (gS : BitVec 4) (size : BitVec 2) :
    ∃ body, exec (.cpy t p gD gS size) s = issue s t p ((sizeBytes size).isNone) (4) body :=
  ⟨_, by simp only [exec, execCpy]; rfl⟩

theorem atomFadd_issue (s : State) (t : Tid) (p : Guard) (rd : BitVec 4) (ra : BitVec 4) (rt : BitVec 4) :
    ∃ body, exec (.atomFadd t p rd ra rt) s = issue s t p (false) (4) body :=
  ⟨_, by simp only [exec, execAtomFadd, atomOp]; rfl⟩

theorem atomSwap_issue (s : State) (t : Tid) (p : Guard) (rd : BitVec 4) (ra : BitVec 4) (rt : BitVec 4) :
    ∃ body, exec (.atomSwap t p rd ra rt) s = issue s t p (false) (4) body :=
  ⟨_, by simp only [exec, execAtomSwap, atomOp]; rfl⟩

theorem atomCas_issue (s : State) (t : Tid) (p : Guard) (rd : BitVec 4) (ra : BitVec 4) (rt : BitVec 4) :
    ∃ body, exec (.atomCas t p rd ra rt) s = issue s t p (false) (4) body :=
  ⟨_, by simp only [exec, execAtomCas, atomOp]; rfl⟩

theorem br_issue (s : State) (t : Tid) (p : Guard) (off : BitVec 17) :
    ∃ body, exec (.br t p off) s = issue s t p (false) (4) body :=
  ⟨_, by simp only [exec, execBr]; rfl⟩

theorem wait_issue (s : State) (t : Tid) (p : Guard) (mask : BitVec 16) (tsel : BitVec 5) :
    ∃ body, exec (.wait t p mask tsel) s = issue s t p (false) (4) body :=
  ⟨_, by simp only [exec, execWait]; rfl⟩

theorem signal_issue (s : State) (t : Tid) (p : Guard) (gT : BitVec 4) (f : BitVec 4) :
    ∃ body, exec (.signal t p gT f) s = issue s t p (false) (4) body :=
  ⟨_, by simp only [exec, execSignal]; rfl⟩

theorem trap_issue (s : State) (t : Tid) (p : Guard) (code : BitVec 8) :
    ∃ body, exec (.trap t p code) s = issue s t p (false) (4) body :=
  ⟨_, by simp only [exec, execTrap]; rfl⟩

theorem hlock_issue (s : State) (t : Tid) (p : Guard) (f : BitVec 4) :
    ∃ body, exec (.hlock t p f) s = issue s t p (false) (4) body :=
  ⟨_, by simp only [exec, execHlock]; rfl⟩

theorem chw_issue (s : State) (t : Tid) (p : Guard) (gS : BitVec 4) (ch : BitVec 8) (w : BitVec 4) :
    ∃ body, exec (.chw t p gS ch w) s = issue s t p (false) (4) body :=
  ⟨_, by simp only [exec, execChw]; rfl⟩

theorem che_issue (s : State) (t : Tid) (p : Guard) (gS : BitVec 4) (ch : BitVec 8) (w : BitVec 4) :
    ∃ body, exec (.che t p gS ch w) s = issue s t p (false) (4) body :=
  ⟨_, by simp only [exec, execChe]; rfl⟩

theorem brs_issue (s : State) (t : Tid) (p : Guard) (off : BitVec 10) :
    ∃ body, exec (.brs t p off) s = issue s t p (shortBad .short p []) (2) body :=
  ⟨_, by simp only [exec, execBrs]; rfl⟩

theorem rep_issue (s : State) (t : Tid) (gN : BitVec 3) (cap : BitVec 8) (target : RepTarget) (tf : Form) :
    ∃ body, exec (.rep t gN cap target tf) s = issue s t ({ pred := 0, neg := false } : Guard) (false) (2) body :=
  ⟨_, by simp only [exec, execRep]; rfl⟩

theorem endInsn_issue (s : State) (t : Tid) (p : Guard) (f : Form) :
    ∃ body, exec (.endInsn t p f) s = issue s t p (shortBad f p []) (formBytes f) body :=
  ⟨_, by simp only [exec, execEndInsn]; rfl⟩

theorem hfree_issue (s : State) (t : Tid) (p : Guard) (f : BitVec 4) (h : jobRunning s t.stn.val (tlane t) = false) :
    ∃ body, exec (.hfree t p f) s = issue s t p (f != 0) 4 body :=
  ⟨_, by simp only [exec, execHfree, h, Bool.false_and, Bool.false_eq_true, if_false]; rfl⟩

theorem chp_issue (s : State) (t : Tid) (p : Guard) (gS : BitVec 4) (ch : BitVec 8) (w : BitVec 4) :
    ∃ body, exec (.chp t p gS ch w) s = issue s t p (gS != 0 || w != 0) (4) body :=
  ⟨_, by simp only [exec, execChp]; rfl⟩

theorem crc_issue (s : State) (t : Tid) (p : Guard) (rd : BitVec 4) (gA : BitVec 4) (poly : BitVec 3) (size : BitVec 2) (pi : Bool) :
    ∃ m body, exec (.crc t p rd gA poly size pi) s = issueHelper s t p m (3 < poly.toNat || (sizeBytes size).isNone || (pi && rd = gA)) body :=
  ⟨_, _, by simp only [exec, execCrc]; rfl⟩

theorem csadd_issue (s : State) (t : Tid) (p : Guard) (rd : BitVec 4) (rs : BitVec 4) (rt : BitVec 4) :
    ∃ m body, exec (.csadd t p rd rs rt) s = issueHelper s t p m (false) body :=
  ⟨_, _, by simp only [exec, execCsadd, csumOp]; rfl⟩

theorem csupd_issue (s : State) (t : Tid) (p : Guard) (rd : BitVec 4) (rs : BitVec 4) (rt : BitVec 4) :
    ∃ m body, exec (.csupd t p rd rs rt) s = issueHelper s t p m (false) body :=
  ⟨_, _, by simp only [exec, execCsupd, csumOp]; rfl⟩

theorem csupd32_issue (s : State) (t : Tid) (p : Guard) (rd : BitVec 4) (rs : BitVec 4) (rt : BitVec 4) :
    ∃ m body, exec (.csupd32 t p rd rs rt) s = issueHelper s t p m (false) body :=
  ⟨_, _, by simp only [exec, execCsupd32, csumOp]; rfl⟩

theorem csnot_issue (s : State) (t : Tid) (p : Guard) (rd : BitVec 4) (rs : BitVec 4) (rt : BitVec 4) :
    ∃ m body, exec (.csnot t p rd rs rt) s = issueHelper s t p m (rt != 0) body :=
  ⟨_, _, by simp only [exec, execCsnot, csumOp]; rfl⟩

theorem bswap32_issue (s : State) (t : Tid) (p : Guard) (rd : BitVec 4) (rs : BitVec 4) :
    ∃ m body, exec (.bswap32 t p rd rs) s = issueHelper s t p m (false) body :=
  ⟨_, _, by simp only [exec, execBswap32, bswapOp]; rfl⟩

theorem bswap16_issue (s : State) (t : Tid) (p : Guard) (rd : BitVec 4) (rs : BitVec 4) :
    ∃ m body, exec (.bswap16 t p rd rs) s = issueHelper s t p m (false) body :=
  ⟨_, _, by simp only [exec, execBswap16, bswapOp]; rfl⟩

theorem bswapH_issue (s : State) (t : Tid) (p : Guard) (rd : BitVec 4) (rs : BitVec 4) :
    ∃ m body, exec (.bswapH t p rd rs) s = issueHelper s t p m (false) body :=
  ⟨_, _, by simp only [exec, execBswapH, bswapOp]; rfl⟩

theorem hfin_issue (s : State) (t : Tid) (p : Guard) (rd : BitVec 4) (rs : BitVec 4) :
    ∃ m body, exec (.hfin t p rd rs) s = issueHelper s t p m (false) body :=
  ⟨_, _, by simp only [exec, execHfin]; rfl⟩

theorem fcmp_issue (s : State) (t : Tid) (p : Guard) (pd : BitVec 3) (gA : BitVec 4) (gB : BitVec 4) (n1 : BitVec 4) (cond : BitVec 2) :
    ∃ m body, exec (.fcmp t p pd gA gB n1 cond) s = issueHelper s t p m (1 < cond.toNat) body :=
  ⟨_, _, by simp only [exec, execFcmp]; rfl⟩

theorem hash_issue (s : State) (t : Tid) (p : Guard) (rd : BitVec 4) (rs : BitVec 4) (rt : BitVec 4) (ksel : Bool) :
    ∃ m body, exec (.hash t p rd rs rt ksel) s = issueHelper s t p m (!ksel && rt != 0) body :=
  ⟨_, _, by simp only [exec, execHash]; rfl⟩

theorem lkupMac_issue (s : State) (t : Tid) (p : Guard) (gS : BitVec 4) (tbl : BitVec 4) (r : BitVec 3) (f : BitVec 4) :
    ∃ m body, exec (.lkupMac t p gS tbl r f) s = issueHelper s t p m (false) body :=
  ⟨_, _, by simp only [exec, execLkupMac, lkupOp]; rfl⟩

theorem lkupLpm4_issue (s : State) (t : Tid) (p : Guard) (gS : BitVec 4) (tbl : BitVec 4) (r : BitVec 3) (f : BitVec 4) :
    ∃ m body, exec (.lkupLpm4 t p gS tbl r f) s = issueHelper s t p m (false) body :=
  ⟨_, _, by simp only [exec, execLkupLpm4, lkupOp]; rfl⟩

theorem lkupLpm6_issue (s : State) (t : Tid) (p : Guard) (gS : BitVec 4) (tbl : BitVec 4) (r : BitVec 3) (f : BitVec 4) :
    ∃ m body, exec (.lkupLpm6 t p gS tbl r f) s = issueHelper s t p m (false) body :=
  ⟨_, _, by simp only [exec, execLkupLpm6, lkupOp]; rfl⟩

theorem lkupStream_issue (s : State) (t : Tid) (p : Guard) (gS : BitVec 4) (tbl : BitVec 4) (r : BitVec 3) (f : BitVec 4) :
    ∃ m body, exec (.lkupStream t p gS tbl r f) s = issueHelper s t p m (false) body :=
  ⟨_, _, by simp only [exec, execLkupStream, lkupOp]; rfl⟩

theorem lkupExact_issue (s : State) (t : Tid) (p : Guard) (gS : BitVec 4) (tbl : BitVec 4) (r : BitVec 3) (f : BitVec 4) :
    ∃ m body, exec (.lkupExact t p gS tbl r f) s = issueHelper s t p m (false) body :=
  ⟨_, _, by simp only [exec, execLkupExact, lkupOp]; rfl⟩

theorem lread_issue (s : State) (t : Tid) (p : Guard) (gI : BitVec 4) (tbl : BitVec 4) (r : BitVec 3) (f : BitVec 4) :
    ∃ m body, exec (.lread t p gI tbl r f) s = issueHelper s t p m (false) body :=
  ⟨_, _, by simp only [exec, execLread]; rfl⟩

theorem learn_issue (s : State) (t : Tid) (p : Guard) (gS : BitVec 4) (tbl : BitVec 4) :
    ∃ m body, exec (.learn t p gS tbl) s = issueHelper s t p m (false) body :=
  ⟨_, _, by simp only [exec, execLearn]; rfl⟩

theorem cnt_issue (s : State) (t : Tid) (p : Guard) (gI : BitVec 4) (tbl : BitVec 4) (gB : BitVec 4) :
    ∃ m body, exec (.cnt t p gI tbl gB) s = issueHelper s t p m (false) body :=
  ⟨_, _, by simp only [exec, execCnt]; rfl⟩

end Sys2Proof.Machine
end

