-- ==== Sys2Proof/Laws/Memory.lean ====
section
/-! SUPPORT. Every operation that writes an addressed memory keeps its canonical form, changes exactly the bytes written, and touches nothing
else: table memory, station memory and HBM. -/

namespace Sys2Proof.Machine

/-! ### Table memory -/

theorem tblWrite_mem (s : State) (a : Nat) (bs : List Byte) : (tblWrite s a bs).tbl.mem = ssetRange 0 s.tbl.mem a bs := rfl

theorem tblWrite_eq (s : State) (a : Nat) (bs : List Byte) :
    tblWrite s a bs = { s with tbl := { s.tbl with mem := ssetRange 0 s.tbl.mem a bs, bad := (tblWrite s a bs).tbl.bad } } := rfl

theorem tblWrite_wf (s : State) (a : Nat) (bs : List Byte) (w : Memory.wf s.tbl.mem = true) :
    Memory.wf (tblWrite s a bs).tbl.mem = true := swf_ssetRange 0 bs s.tbl.mem a w

/-- What a byte of table memory holds after a write: the byte written, or what it held. -/
theorem bget_tblWrite (s : State) (a x : Nat) (bs : List Byte) : bget (tblWrite s a bs).tbl.mem x =
    if a ≤ x ∧ x < a + bs.length then bs.getD (x - a) 0 else bget s.tbl.mem x := sget_ssetRange 0 bs s.tbl.mem a x

/-! ### Station memory -/

/-- A write of station memory keeps the form in every station. -/
theorem stnWrite_wf (s : State) (k j place : Nat) (bs : List Byte) (w : Memory.wf (getStn s j).mem = true) :
    Memory.wf (getStn (modStn s k fun st => { st with mem := ssetRange 0 st.mem place bs }) j).mem = true := by
  by_cases h : j = k
  · subst h
    rw [getStn_modStn_same]
    exact swf_ssetRange 0 bs _ place w
  · rw [getStn_modStn_ne s _ h]
    exact w

/-! ### HBM -/

/-- A request changes the memory controller only (R378). -/
theorem requestRange_eq (s : State) (a n : Nat) : requestRange s a n = { s with hbm := (requestRange s a n).hbm } := by
  unfold requestRange
  generalize List.range _ = l
  induction l generalizing s with
  | nil => rfl
  | cons i rest ih => rw [List.foldl_cons, ih]; rfl

/-- A write over the host window changes the memory only (R379). -/
theorem writeHdm_eq (s : State) (off : Nat) (bs : List Byte) : writeHdm s off bs = { s with hbm := (writeHdm s off bs).hbm } := by
  unfold writeHdm
  dsimp only
  rw [requestRange_eq]

/-- A request wakes channels and counts; it leaves the contents. -/
theorem requestRange_mem (s : State) (a n : Nat) : (requestRange s a n).hbm.mem = s.hbm.mem := by
  unfold requestRange
  generalize List.range _ = l
  induction l generalizing s with
  | nil => rfl
  | cons i rest ih =>
    rw [List.foldl_cons, ih]
    rfl

theorem writeHdm_mem (s : State) (off : Nat) (bs : List Byte) : (writeHdm s off bs).hbm.mem = ssetRange 0 s.hbm.mem off bs := by
  unfold writeHdm
  simp only [requestRange_mem]

theorem writeHdm_wf (s : State) (off : Nat) (bs : List Byte) (w : Memory.wf s.hbm.mem = true) :
    Memory.wf (writeHdm s off bs).hbm.mem = true := by
  rw [writeHdm_mem]
  exact swf_ssetRange 0 bs _ off w

/-! ### Reset -/

/-- A station at reset: OUT with its threads OFF, or no station at all (R119, R446). -/
theorem reset_stn (k : Nat) : getStn State.reset k = if k < 17 then { threads := offThreads } else {} := by
  have h := sget_const ({} : Station) { threads := offThreads } (List.range 17) k
  simp only [List.mem_range] at h
  exact h

/-- Every memory of the reset state lists nothing, which is the canonical form of zeros. -/
theorem reset_wf : Memory.wf State.reset.tbl.mem = true ∧ Memory.wf State.reset.hbm.mem = true ∧
    ∀ k, Memory.wf (getStn State.reset k).mem = true := ⟨rfl, rfl, fun k => by rw [reset_stn]; split <;> rfl⟩

end Sys2Proof.Machine
end

