-- ==== Sys2Proof/Laws/Host.lean ====
section
/-! SUPPORT. What the shared operations of the command interface and of the log leave alone, and what an accepted host command comes to. -/

namespace Sys2Proof.Machine

/-! ### Attention and events -/

/-- Attention messages change the host interface only (R421). -/
theorem foldl_sendMsix_eq (c : Nat → Bool) (l : List Nat) (s : State) :
    l.foldl (fun s b => if c b then sendMsix s b else s) s =
      { s with host := (l.foldl (fun s b => if c b then sendMsix s b else s) s).host } := by
  induction l generalizing s with
  | nil => rfl
  | cons b l ih =>
    simp only [List.foldl_cons]
    by_cases hc : c b = true
    · simp only [hc, if_true]; rw [ih]; rfl
    · simp only [hc]; exact ih s

/-- Evaluating attention changes the host interface only. -/
theorem settleAttn_eq (s : State) : settleAttn s = { s with host := (settleAttn s).host } := by
  unfold settleAttn
  simp only
  rw [foldl_sendMsix_eq (fun b => (attnPending s &&& ~~~s.host.attnSeen).getLsbD b)]

theorem pushEvent_eq (s : State) (n : Nat) (e : Event) : pushEvent s n e = { s with host := (pushEvent s n e).host } := rfl

/-- An event changes the host interface, the counter of lost events, and over PCIe the memory that holds the ring (R396, R415). -/
theorem ringEvent_eq (s : State) (code cls : Nat) (detail : List Byte) :
    ringEvent s code cls detail = { s with host := (ringEvent s code cls detail).host, par := (ringEvent s code cls detail).par,
                                           hbm := (ringEvent s code cls detail).hbm } := by
  unfold ringEvent
  dsimp only
  split
  · rfl
  · split
    · rfl
    · split
      · rfl
      · split
        · rw [pushEvent_eq, writeHdm_eq]
        · rfl

/-- Logging changes the host interface, parameters, the log queue, and over PCIe the memory that holds the event ring (R396, R442). -/
theorem logEvent_eq (s : State) (code cls : Nat) (detail : List Byte) :
    logEvent s code cls detail = { s with
      host := (logEvent s code cls detail).host, par := (logEvent s code cls detail).par, flt := (logEvent s code cls detail).flt
      hbm := (logEvent s code cls detail).hbm } := by
  unfold logEvent
  simp only
  rw [settleAttn_eq, ringEvent_eq]

/-- Over CXL an event leaves the memory as it is (R396). -/
theorem ringEvent_hbm (s : State) (code cls : Nat) (detail : List Byte) (h : s.host.cxl = true) :
    (ringEvent s code cls detail).hbm = s.hbm := by
  unfold ringEvent
  dsimp only
  simp only [h, if_true]
  split
  · rfl
  · split <;> rfl

theorem logEvent_hbm (s : State) (code cls : Nat) (detail : List Byte) (h : s.host.cxl = true) :
    (logEvent s code cls detail).hbm = s.hbm := by
  unfold logEvent
  dsimp only
  rw [settleAttn_eq]
  exact ringEvent_hbm s code cls detail h

/-! ### The guarantee's state -/

/-- A state that differs from another as the log changes it. -/
theorem foldl_logEvent_eq (c : Nat → Bool) (code cls : Nat) (detail : List Byte) (l : List Nat) (s : State) :
    let u := l.foldl (fun s b => if c b then logEvent s code cls detail else s) s
    u = { s with host := u.host, par := u.par, flt := u.flt, hbm := u.hbm } := by
  induction l generalizing s with
  | nil => rfl
  | cons b l ih =>
    simp only [List.foldl_cons]
    by_cases hc : c b = true
    · simp only [hc, if_true]; rw [ih, logEvent_eq]
    · simp only [hc]; exact ih s

/-- Settling the guarantee changes the host interface, parameters, the log queue, and over PCIe the memory that holds the event ring (R52). -/
theorem settleBound_eq (s0 s : State) (h : Hf) : settleBound s0 s h = { s with
    host := (settleBound s0 s h).host, par := (settleBound s0 s h).par, flt := (settleBound s0 s h).flt, hbm := (settleBound s0 s h).hbm } := by
  unfold settleBound
  simp only
  have f := foldl_logEvent_eq (fun b => bitOf (boundReason s h) b && !bitOf (boundReason s0 h) b) 0x0010 clsWarning
    (leBytes 1 (hIdx h) ++ leBytes 4 (boundReason s h)) (List.range 4) s
  simp only at f
  split
  · rw [logEvent_eq, f]
  · rw [f]

theorem settleBounds_eq (s0 s : State) : settleBounds s0 s = { s with
    host := (settleBounds s0 s).host, par := (settleBounds s0 s).par, flt := (settleBounds s0 s).flt, hbm := (settleBounds s0 s).hbm } := by
  unfold settleBounds
  rw [settleBound_eq, settleBound_eq]

theorem settleBounds_datum (s0 s : State) : (settleBounds s0 s).datum = s.datum := by rw [settleBounds_eq]

/-! ### Replies -/

/-- A reply changes the host interface only. -/
theorem sendReply_eq (s : State) (h : CmdHdr) (opcode status : Nat) (payload : List Byte) :
    sendReply s h opcode status payload = { s with host := (sendReply s h opcode status payload).host } := rfl

theorem sendReply_done (s : State) (h : CmdHdr) (opcode status : Nat) (payload : List Byte) :
    (sendReply s h opcode status payload).host.done =
      s.host.done ++ [⟨h.iface, opcode, status, h.tag, payload⟩] := rfl

/-- An accepted command has the effect of its body, and its reply (R408). -/
theorem hostCmd_accepted (s : State) (h : CmdHdr) (op : Nat) (flags : BitVec 16) (body : State → Answer)
    (ha : Accepted s h op flags) : hostCmd s h op flags body = .next (finish h op (body s)) := by
  obtain ⟨h1, h2, h3, h4, h5⟩ := ha
  simp_all [hostCmd]

end Sys2Proof.Machine
end

