-- ==== Sys2Proof/Tests/Slice0.lean ====
section
/-! SUPPORT. Tests: ill-formed commands, the premises of every statement met by a concrete state, and single results. The expected values come from
the manual's tables and examples, worked by hand. -/

set_option Elab.async false

namespace Sys2Proof.Tests

open Sys2Proof.Machine

/-! ### Small states -/

def t0 : Tid := { stn := 0, core := 0, thr := 0 }
def always : Guard := { pred := 0, neg := false }
def ifP1 : Guard := { pred := 1, neg := false }
def undef : Guard := { pred := 0, neg := true }

/-- A device that has booted, with its host link up. -/
def base : State := { State.reset with
  fw := { State.reset.fw with busy := false, ready := true, resetN := true, bootStep := 9 }
  host := { State.reset.host with link := true } }

/-- A running thread with a few register values. -/
def th0 : Thread := { st := .running, g := [(1, 7), (2, 0x1000), (3, 0xFFFFFFFE), (4, 0x4000), (5, 3)] }

/-- Station 0 in service with one task, which runs on thread 0 of core 0. -/
def station (th : Thread) : Station :=
  { role := 0, st := ssInService, threads := [(0, th)], tasks := [(0, { st := .running })] }

def onThread (th : Thread) : State := { base with stn := [(0, station th)] }

def with0 (f : Station → Station) : State := { base with stn := [(0, f (station th0))] }

/-- The state that an outcome answers. -/
def next (r : Host.Outcome State Fault Refusal) : State :=
  match r with
  | .next u => u
  | _ => State.reset

/-- The outcome is a next state. -/
def goes (r : Host.Outcome State Fault Refusal) : Bool :=
  match r with
  | .next _ => true
  | _ => false

theorem runs0 : Runs (onThread th0) t0 always := ⟨⟨by decide +kernel, by decide +kernel⟩, by decide +kernel, by decide +kernel⟩

/-! ### Well-formedness -/

theorem test_wf_guard : (Instr.add t0 undef .long 1 2 3).wellFormed = false ∧ (Instr.add t0 always .long 1 2 3).wellFormed = true := by
  decide +kernel
theorem test_wf_short : (Instr.add t0 always .short 8 2 3).wellFormed = false ∧ (Instr.add t0 { pred := 2, neg := false } .short 1 2 3).wellFormed = false ∧
    (Instr.add t0 ifP1 .short 7 2 3).wellFormed = true := by decide +kernel
theorem test_wf_simm : (Instr.addi t0 always .short 1 1 64).wellFormed = false ∧ (Instr.addi t0 always .short 1 1 63).wellFormed = true := by
  decide +kernel
theorem test_wf_shortMem : (Instr.ldw t0 always .short 1 2 16 false).wellFormed = false ∧
    (Instr.ldw t0 always .short 1 2 15 true).wellFormed = false ∧ (Instr.ldw t0 always .short 1 2 15 false).wellFormed = true := by
  decide +kernel
theorem test_wf_access : (Instr.hostMemoryAccess 0 4 (.write [1, 2, 3])).wellFormed = false ∧
    (Instr.hostMemoryAccess 0 4 (.write [1, 2, 3, 4])).wellFormed = true := by decide +kernel
theorem test_wf_fetched : (Instr.commandAccept (.packet [] [])).wellFormed = false ∧
    (Instr.commandAccept (.packet (List.replicate 32 0) [])).wellFormed = true := by decide +kernel
/-! ### Core instructions: the premises of the statements, and results -/

theorem meets_IssueAdvances : (thrOf (onThread th0) t0).repActive = false ∧
    (thrOf (onThread { th0 with repActive := true, repLeft := 2 }) t0).repLeft = 2 ∧
    (thrOf (onThread { th0 with repActive := true, repLeft := 1 }) t0).repActive = true ∧
    issueOf (.mov t0 always 1 2) = some (t0, always, false, 2) ∧ canIssue base 0 0 = false := by decide +kernel
/-- A thread whose last helper instruction an event squashed, in the cycle in which it would have committed. -/
def inFlight : State := { onThread { th0 with squashAt := some 6 } with clk := 8 }
theorem meets_IssueAdvances_squashed : issueOf (.hfin t0 always 1 2) = some (t0, always, false, 4) ∧ canIssue inFlight 0 0 = false ∧
    jobRunning inFlight 0 0 = false ∧ helperInsn (.hfin t0 always 1 2) = true ∧ helperInsn (.mov t0 always 1 2) = false ∧
    squashed inFlight.clk (thrOf inFlight t0) = true ∧ squashed base.clk (thrOf (onThread th0) t0) = false := by decide +kernel
theorem meets_FalseGuard : issueOf (.add t0 ifP1 .short 1 2 3) = some (t0, ifP1, false, 2) ∧ guardUndef ifP1 = false ∧
    (thrOf (onThread th0) t0).guard ifP1 = false ∧ jobRunning (onThread th0) 0 0 = false := by decide +kernel
theorem test_falseGuard : exec (.add t0 ifP1 .short 1 2 3) (onThread th0) = .next (issuedState (onThread th0) t0 2) := by rfl
theorem meets_UndefinedTraps : issueOf (.sxb t0 always 1 2 1) = some (t0, always, true, 4) ∧
    issueOf (.mov t0 undef 1 2) = some (t0, undef, true, 2) ∧ canIssue (onThread th0) 0 0 = true ∧
    jobRunning (onThread th0) 0 0 = false ∧ (undef.pred = 0 ∧ undef.neg = true) ∧ 12 ≤ (12 : BitVec 4).toNat ∧
    32 < (1 : BitVec 5).toNat + ((31 : BitVec 5).toNat + 1) ∧ 7 < (8 : BitVec 4).toNat := by decide +kernel
theorem test_undefined : (getThr (next (exec (.sxb t0 always 1 2 1) (onThread th0))) 0 0).st ≠ .running := by decide +kernel
theorem meets_TrapTaken : (getThr (onThread { th0 with st := .trapped, trap := some (trapUndefined, 5) }) 0 0).trap = some (trapUndefined, 5) ∧
    (getThr (onThread { th0 with st := .trapped, trap := some (trapUndefined, 5) }) 0 0).halt = none := by decide +kernel
theorem meets_RegisterOps : shortBad .short always [1, 2, 7] = false ∧ shortBad .long always [1, 2, 15] = false := by decide +kernel
theorem test_add : (thrOf (next (exec (.add t0 always .short 1 1 3) (onThread th0))) t0).reg 1 = 5 := by decide +kernel
theorem test_sub : (thrOf (next (exec (.sub t0 always .long 6 5 1) (onThread th0))) t0).reg 6 = 0xFFFFFFFC := by decide +kernel
theorem test_andn : (thrOf (next (exec (.andn t0 always .long 6 3 1) (onThread th0))) t0).reg 6 = 0xFFFFFFF8 := by decide +kernel
theorem test_g0 : (thrOf (next (exec (.add t0 always .short 0 1 3) (onThread th0))) t0).reg 0 = 0 := by decide +kernel
theorem test_rol : (thrOf (next (exec (.rol t0 always 6 3 5) (onThread th0))) t0).reg 6 = 0xFFFFFFF7 := by decide +kernel
theorem test_sar : (thrOf (next (exec (.sar t0 always 6 3 5) (onThread th0))) t0).reg 6 = 0xFFFFFFFF := by decide +kernel
theorem test_mulhu : (thrOf (next (exec (.mulhu t0 always 6 3 5) (onThread th0))) t0).reg 6 = 2 := by decide +kernel
theorem test_clz : (thrOf (next (exec (.clz t0 always 6 2 0) (onThread th0))) t0).reg 6 = 19 ∧
    (thrOf (next (exec (.clz t0 always 6 0 0) (onThread th0))) t0).reg 6 = 32 := by decide +kernel
theorem test_sxb : (thrOf (next (exec (.sxb t0 always 6 3 0) (onThread th0))) t0).reg 6 = 0xFFFFFFFE := by decide +kernel
theorem meets_ImmediateOps : shortBad .short always [1] = false ∧ shortBad .long always [15] = false := by decide +kernel
theorem test_addi : (thrOf (next (exec (.addi t0 always .short 1 1 0x1FC0) (onThread th0))) t0).reg 1 = 0xFFFFFFC7 := by decide +kernel
theorem test_movhi : (thrOf (next (exec (.movhi t0 always 1 0x8000) (onThread th0))) t0).reg 1 = 0x80000007 := by decide +kernel
theorem meets_CompareOps : guardShort always = true ∧ cmpHolds .short 2 3 7 = some true ∧ cmpHolds .long 11 3 7 = some false ∧
    cmpLong 6 7 8 = some true ∧ cmpHolds .short 7 3 ((0x1F : BitVec 8).setWidth 4 |>.setWidth 32) = some false := by decide +kernel
theorem test_cmpi : (thrOf (next (exec (.cmpi t0 always .long 2 3 0xFF 2 0) (onThread th0))) t0).pred 2 = true ∧
    (thrOf (next (exec (.cmpi t0 always .long 2 3 0xFF 6 0) (onThread th0))) t0).pred 2 = false := by decide +kernel
theorem test_pandn : (thrOf (next (exec (.pandn t0 always 2 0 1) (onThread th0))) t0).pred 2 = true := by decide +kernel
theorem meets_BitFieldOps : (0 : BitVec 5).toNat + ((31 : BitVec 5).toNat + 1) ≤ 32 ∧ (31 : BitVec 5).toNat + ((0 : BitVec 5).toNat + 1) ≤ 32 := by
  decide +kernel
theorem test_ins : (thrOf (next (exec (.ins t0 always 3 1 28 3) (onThread th0))) t0).reg 3 = 0x7FFFFFFE := by decide +kernel
theorem test_exts : (thrOf (next (exec (.exts t0 always 6 1 1 1) (onThread th0))) t0).reg 6 = 0xFFFFFFFF := by decide +kernel

/-! ### Loads and stores -/

theorem meets_ThreadLoads : shortBad .short always [1, 2] = false ∧ shortOffBad .short 15 false = false ∧ (1 : BitVec 4) ≠ 2 := by decide +kernel
theorem meets_ThreadLoads_allowed : accessOk (accessState (onThread th0) t0 4 0x2000) 0 0 0x2000 4 = true ∧ rangeOf 0x2000 = .flow ∧
    accessOk (accessState (onThread th0) t0 4 0x2001) 0 0 0x2001 4 = false := by decide +kernel
theorem meets_ThreadLoads_order : NoStoreWaits (onThread th0) t0 0x2000 ∧ ¬ ReadActs 0x2000 := by
  unfold NoStoreWaits ReadActs
  decide +kernel
theorem meets_AddressRanges : rangeOf 0x0FFF = .unmapped ∧ 0x10000 < 0xFFFF + 2 ∧ rangeOf (0x1FFE + 4 - 1) ≠ rangeOf 0x1FFE ∧
    rangeOf 0x2001 = .flow ∧ rangeOf 0xE800 = .aperture ∧ rangeOf 0xE001 = .locks ∧ rangeOf 0x4000 = .shared ∧
    12 < (getThr (onThread { th0 with wbank := 13 }) 0 0).wbank.toNat := by decide +kernel
theorem meets_ThreadStores : shortBad .short always [1, 5] = false ∧ shortOffBad .short 0 false = false := by decide +kernel
theorem meets_StoreEffects : accessOk (onThread th0) 0 0 0x1800 4 = true ∧ accessOk (onThread th0) 0 0 0x0000 4 = true ∧
    accessOk (onThread th0) 0 0 0x012C 2 = true ∧ descByteRw (0x012C - 0x120) = true ∧ descByteRw (0x012D - 0x120) = true ∧
    accessOk (onThread th0) 0 0 0x0120 1 = true ∧ descByteRw (0x0120 - 0x120) = false := by decide +kernel
theorem meets_StoreEffects_aperture : accessOk (onThread { th0 with tbase := 0x5800 }) 0 0 0xE800 4 = true ∧
    regionOf (apertureAddr (getThr (onThread { th0 with tbase := 0x5800 }) 0 0) 0xE800) = .general ∧
    accessOk (onThread th0) 0 0 0xE800 4 = true ∧ regionOf (apertureAddr (getThr (onThread th0) 0 0) 0xE800) ≠ .general ∧
    accessOk (onThread th0) 0 0 0x0160 4 = true := by decide +kernel
theorem meets_StoreThenLoad : (match tstore (onThread th0) 0 0 0x2000 4 0x01020304 with
    | .ok _ => true
    | .error _ => false) = true ∧ rangeOf 0x2000 = .flow := by decide +kernel
theorem test_store_order : bget (getStn (next (exec (.stw t0 always .long 3 2 0 false)
      (onThread { th0 with g := [(2, 0x2000), (3, 0x01020304)] }))) 0).mem 0 = 4 ∧
    bget (thrOf (next (exec (.stw t0 always .long 3 0 8 false) (onThread { th0 with g := [(3, 0x01020304)] }))) t0).head 8 = 1 := by
  decide +kernel
theorem test_postInc : (thrOf (next (exec (.ldh t0 always 1 2 0 true) (onThread { th0 with g := [(2, 0xDFFE)] }))) t0).reg 2 = 0xE000 := by
  decide +kernel
theorem test_ldbs : (thrOf (next (exec (.ldbs t0 always 1 0 8 false) (onThread { th0 with head := [(8, 0x80)] }))) t0).reg 1 = 0xFFFFFF80 := by
  decide +kernel
theorem meets_CopyAndAtomics : sizeBytes 2 = some 4 ∧ (match tload (accessState (onThread th0) t0 4 0x2000) 0 0 0x2000 4 with
    | .ok (v, s2) => (match tstore (orderStores s2 0 0 0x2004) 0 0 0x2004 4 v with
      | .ok _ => true
      | .error _ => false)
    | .error _ => false) = true ∧ storesLater 0x2004 = true ∧ rangeLatency 0x2000 - commitCycles ≠ 0 ∧ storesLater 0x0000 = false ∧ rangeOf 0x4000 = .shared ∧ 0x4000 % 4 = 0 ∧ (thrOf (onThread th0) t0).wbank.toNat ≤ 12 ∧
    rangeOf 0x1000 ≠ .shared ∧ rangeOf 0x1000 ≠ .aperture ∧ 0x4002 % 4 ≠ 0 := by decide +kernel
theorem test_atomFadd : bget (getStn (next (exec (.atomFadd t0 always 6 4 1) (onThread th0))) 0).mem 98304 = 7 := by decide +kernel
theorem test_cpy : (thrOf (next (exec (.cpy t0 always 1 2 1) (onThread { th0 with g := [(1, 0x2000), (2, 0x2008)] }))) t0).reg 2 = 0x200A := by
  decide +kernel

/-! ### Control flow -/

theorem meets_BranchesAndRep : (thrOf (onThread th0) t0).repActive = false ∧ guardShort always = true ∧
    0 < Nat.min ((thrOf (onThread th0) t0).reg ((1 : BitVec 3).setWidth 4)).toNat (255 : BitVec 8).toNat ∧
    Nat.min ((thrOf (onThread th0) t0).reg ((1 : BitVec 3).setWidth 4)).toNat (0 : BitVec 8).toNat = 0 ∧ RepTarget.wait ≠ .other := by
  decide +kernel
theorem test_br : (thrOf (next (exec (.br t0 always 3) (onThread th0))) t0).pc = 10 := by decide +kernel
theorem test_rep : (thrOf (next (exec (.rep t0 1 10 .other .long) (onThread th0))) t0).repLeft = 7 ∧
    (thrOf (next (exec (.rep t0 0 10 .other .long) (onThread th0))) t0).pc = 6 := by decide +kernel
theorem meets_WaitAndSignal : (thrTask (onThread th0) 0 0).flags &&& 1 ≠ 1 ∧
    (thrTask (with0 fun st => { st with tasks := [(0, { st := .running, flags := 3 })] }) 0 0).flags &&& 3 = 3 ∧
    flagsMetAt (thrTask (with0 fun st => { st with tasks := [(0, { st := .running, flags := 3 })] }) 0 0) 3 = 0 ∧ commitCycles = 4 ∧
    (getTask (onThread th0) 0 0).st = .running ∧ (getTask (onThread th0) 0 0).gen = BitVec.ofNat 12 (0 / 2 ^ 16) ∧
    (getThr (onThread th0) 0 (getTask (onThread th0) 0 0).thread).wait = none ∧ (getTask base 0 0).st = .free ∧
    (thrOf (onThread { th0 with wait := some { mask := 1, deadline := 5 } }) t0).wait = some { mask := 1, deadline := 5 } ∧
    base.clk < 5 ∧ 5 ≤ ({ base with clk := 5 } : State).clk := by decide +kernel
theorem meets_WaitAndSignal_image : (match taskImage { onThread th0 with ed := { live := [(0, some { images := [(0, some (List.replicate 600 1))] })] } }
    (thrTask (onThread th0) 0 0) with
    | some img => (opTimeout img 0 0).isSome
    | none => false) = true := by decide +kernel
theorem test_waitTimeout : (thrOf (next (exec (.waitTimeout t0) { onThread { th0 with wait := some { mask := 1, deadline := 5 } } with clk := 5 })) t0).pred 7
    = true := by decide +kernel
theorem meets_EndAndTrap : shortBad .short always [] = false ∧ (thrOf (onThread { th0 with ended := true, endAt := 8 }) t0).ended = true ∧
    base.clk < 8 ∧ getPkt { onThread { th0 with ended := true } with pkts := [(0, some {})] } (thrTask (onThread th0) 0 0).pkt = some {} ∧
    ({} : Packet).trap = none ∧ (thrTask (onThread th0) 0 0).cancelled = false := by decide +kernel
theorem meets_HelperLock : lockUser { onThread th0 with ed := { live := [(0, some { vals := [(pidHlpRoleLockUsers 0, 1)] })] } } 0 0 = true ∧
    lockUser (onThread th0) 0 0 = false ∧ (getStn (onThread th0) 0).lockHolder = none ∧ (getStn (onThread th0) 0).lockQueue = [] ∧
    holdsHelper (getStn (with0 fun st => { st with lockHolder := some { lane := 0 } }) 0) 0 = true ∧
    holdsHelper (getStn (onThread th0) 0) 0 = false ∧ jobRunning (onThread th0) 0 0 = false := by decide +kernel
theorem meets_ChannelInstructions : (thrOf (onThread th0) t0).openMsg = none ∧ (getChan (onThread th0) 0 3).full = false ∧
    ({ opens := 16 } : Chan).full = true ∧ (thrOf (onThread { th0 with openMsg := some { ch := 3 } }) t0).openMsg = some { ch := 3 } := by
  decide +kernel

/-! ### Helpers -/

theorem meets_FieldAndHashUnits : helperOk (issuedState (onThread { th0 with g := [(2, 0x2000)] }) t0 4) 0 0 0x2000 16 = true ∧
    helperOk (issuedState (onThread th0) t0 4) 0 0 0 1 = true ∧ (3 : BitVec 3).toNat ≤ 3 ∧ sizeBytes 0 = some 1 ∧ (1 : BitVec 4) ≠ 2 ∧
    alignedFor 0x2000 4 = true := by decide +kernel
theorem test_csadd : (thrOf (next (exec (.csadd t0 always 6 1 2) (onThread { th0 with g := [(1, 0xFFFF), (2, 0x00010001)] }))) t0).reg 6 = 2 := by
  decide +kernel
theorem test_crc_ethernet : crcPoly 0 0xFFFFFFFF ([0x31, 0x32, 0x33, 0x34, 0x35, 0x36, 0x37, 0x38, 0x39] : List Byte) = 0x340BC6D9 := by
  decide +kernel
theorem test_bswap : (thrOf (next (exec (.bswap32 t0 always 6 1) (onThread { th0 with g := [(1, 0x01020304)] }))) t0).reg 6 = 0x04030201 := by
  decide +kernel
theorem meets_LookupRequests : helperOk (issuedState (onThread th0) t0 4) 0 0 0 8 = true ∧
    slotBusy (issuedState (onThread th0) t0 4) 0 0 7 = false ∧ helperOk (issuedState (onThread th0) t0 4) 0 0 0x0FFF 8 = false ∧
    slotBusy (issuedState (with0 fun st => { st with slots := [(slotKey 0 true 7, { st := 1 })] }) t0 4) 0 0 7 = true := by decide +kernel
def req0 : LookReq := { kind := 0, cls := 1, key := [0, 5, 2, 0, 0, 0, 0, 1], slot := 2 }
theorem meets_LookupService : nextReq [{ kind := 7 }, req0] 95 = some req0 ∧ bounded req0.cls = true ∧ req0.lane < 96 ∧
    portQueue (getStn (with0 fun st => { st with port0 := [req0] }) 0) 0 = [req0] ∧ portQueue (getStn (onThread th0) 0) 1 = [] ∧ req0.kind ≤ 5 ∧
    (getStn (with0 fun st => { st with results := [{ req := { kind := 0 } }] }) 0).results = [{ req := { kind := 0 } }] ∧
    (getStn (onThread th0) 0).results = [] ∧ slotOwned { station th0 with slots := [(slotKey 0 true 0, { st := 1 })] } (slotKey 0 true 0) {} = true ∧
    slotOwned (station th0) (slotKey 0 true 0) {} = false ∧ reqAlive (onThread th0) 0 {} = true := by decide +kernel
theorem meets_CryptoUnit : base.fuses.crypto = true ∧ jobRunning (onThread th0) 0 0 = false ∧
    holdsHelper (getStn (with0 fun st => { st with lockHolder := some {} }) 0) 0 = true ∧
    helperOk (issuedState (onThread th0) t0 4) 0 0 0x1800 32 = true ∧ rangeOf 0x1800 = .scratch ∧ 0x1800 % 4 = 0 ∧
    slotBusy (issuedState (onThread th0) t0 4) 0 0 0 = false ∧ emuBudget (issuedState (onThread th0) t0 4) 0 0 0x3A = 0 ∧
    (getStn (with0 fun st => { st with job := some { doneAt := 5 } }) 0).job = some { doneAt := 5 } ∧ base.clk < 5 ∧
    jobOwned (with0 fun st => { st with slots := [(slotKey 0 true 0, { st := 1 })] }) 0 {} = true ∧ jobOwned (onThread th0) 0 {} = false := by
  decide +kernel
theorem meets_ThreadRegisters : runsOn (getStn (onThread th0) 0) 0 = true ∧ ctlWritable (0x0C : BitVec 8).toNat = false ∧
    ctlWritable (0x0E : BitVec 8).toNat = true := by decide +kernel
theorem test_nowLo : (thrOf (next (exec (.nowLoRead t0 1) { onThread th0 with datum := { units := 5 * 2 ^ 32 } })) t0).reg 1 = 5 := by
  decide +kernel
theorem meets_LockBank : lockPermitted base (0xF10 : BitVec 12).toNat 63 = true ∧ bitOf (lockMask base 63) 31 = false ∧
    lockPermitted (onThread th0) (0 : BitVec 12).toNat 0 = true ∧ runsOn (getStn (onThread th0) (0 / 128)) (0 % 128) = true ∧
    lockHeld (lockWord base 4095) = false ∧ (heldBy base 0xF10).length < lockLimit 0xF10 ∧
    lockOwns { base with locks := [(4095, 0x8F10)], held := [{ master := 0xF10, word := 4095 }] } 0xF10 4095 = true ∧
    lockHeld (0x8F00 : BitVec 16) = true ∧ lockOwner (0x8F00 : BitVec 16) ≠ 0xF10 := by decide +kernel
theorem test_lockAcquire : lockWord (next (exec (.lockAcquire 0xF10 63 63) { base with locks := [(4095, 0x4000)] })) 4095 = 0xCF10 := by
  decide +kernel
theorem test_lockRelease : lockWord (next (exec (.lockRelease 0xF10 0 0)
    { base with locks := [(0, 0xCF10)], held := [{ master := 0xF10, word := 0 }] })) 0 = 0x4000 := by decide +kernel

/-! ### Host commands -/

def svc : CmdHdr := { iface := .service, flags := 0, tag := 0x11223344, rsvd := 0 }
def ring0 : CmdHdr := { iface := .ring 0, flags := 0, tag := 1, rsvd := 0 }

/-- The status of the last reply. -/
def status (r : Host.Outcome State Fault Refusal) : Option Nat := (next r).host.done.getLast?.map (·.status)
/-- The payload of the last reply. -/
def payload (r : Host.Outcome State Fault Refusal) : List Byte := ((next r).host.done.getLast?.map (·.payload)).getD []

theorem meets_HostChecks : opOf (.imageBegin ring0 []) = some (ring0, 0x0800, 0) ∧ accepting State.reset = false ∧ accepting base = true ∧
    ({ svc with rsvd := 1 } : CmdHdr).rsvd ≠ 0 ∧ permitted base ring0.iface 0x0800 = false ∧ permitted base svc.iface 0x0200 = true ∧
    ({ base with fw := { base.fw with recovery := true } } : State).fw.recovery = true ∧ 2 ≤ 0x0200 / 256 ∧ 0x0700 / 256 ≤ 7 ∧
    (base.fw.recovery && 2 ≤ 0x0200 / 256 && 0x0200 / 256 ≤ 7) = false ∧ (1 : BitVec 16) &&& ~~~ 0 ≠ 0 := by decide +kernel
theorem meets_Accepted : Accepted base svc 0x0100 0 ∧ Accepted base svc 0x0200 0 ∧ Accepted base svc 0x0300 1 ∧ Accepted base svc 0x0400 1 ∧
    Accepted base svc 0x0500 0 ∧ Accepted base svc 0x0600 0 ∧ Accepted base svc 0x0700 1 ∧ Accepted base svc 0x0800 0 ∧
    Accepted base svc 0x0900 0 ∧ Accepted base { svc with flags := 1 } 0x0304 1 := by
  unfold Accepted
  decide +kernel
theorem test_denied : status (exec (.imageBegin ring0 []) base) = some stNoPermission := by decide +kernel
theorem meets_DeviceCommands : ([] : List Byte).length ≤ 256 ∧ ([7, 1, 0, 0] : List Byte).length = 4 ∧ leAt ([7, 1, 0, 0] : List Byte) 0 1 ≤ 7 ∧
    leAt ([7, 1, 0, 0] : List Byte) 2 2 = 0 ∧ leAt ([7, 1, 0, 0] : List Byte) 1 1 = 1 ∧ leAt ([0, 0, 0, 0] : List Byte) 1 1 = 0 ∧
    (ring0.iface = .ring 0 ∧ (0 : Fin 8).val = 0) := by decide +kernel
theorem test_nop : payload (exec (.nop svc [1, 2, 3]) base) = [1, 2, 3] := by decide +kernel
theorem meets_ParameterCommands : (leBytes 4 pidTblAgeTickMs).length % 4 = 0 ∧ 4 ≤ (leBytes 4 pidTblAgeTickMs).length ∧
    (match pinfo pidTblAgeTickMs with
    | some (p, ix) => p.scope = .dev && deviceForm pidTblAgeTickMs p ix (leBytes 4 10) &&
      togetherOk (applyParam base pidTblAgeTickMs ix 10) pidTblAgeTickMs ix && !settingBusy base pidTblAgeTickMs ix &&
      !settingBreaks base (applyParam base pidTblAgeTickMs ix 10) pidTblAgeTickMs 10
    | none => false) = true ∧ (pinfo 0xFFFFFFFF).isNone = true ∧
    (match pinfo pidHostDenied with
    | some (p, _) => p.scope = .rc
    | none => false) = true ∧
    setEntries (leBytes 4 pidTblAgeTickMs ++ [4, 0, 0, 0] ++ leBytes 4 10) 12 = some [(pidTblAgeTickMs, leBytes 4 10)] := by decide +kernel
theorem test_paramSet : pget (next (exec (.paramSet svc (leBytes 4 pidTblAgeTickMs ++ [4, 0, 0, 0] ++ leBytes 4 10)) base)) pidTblAgeTickMs = 10 ∧
    payload (exec (.paramSet svc (leBytes 4 pidTblAgeTickMs ++ [4, 0, 0, 0] ++ leBytes 4 9)) base) = [0, 0, 0, 0] := by decide +kernel
/-- A program image of one operation that ends at once, with its CRC from another program. -/
def img0 : List Byte := leBytes 4 0x58425243 ++ [1, 0, 1, 0] ++ leBytes 4 100 ++ leBytes 4 0xE4635A0E ++ List.replicate 48 0 ++ leBytes 4 96 ++ leBytes 4 2
  ++ leBytes 4 100 ++ List.replicate 20 0 ++ [0x40, 0, 0, 0]
def editing : State := { base with ed := { staged := some { owner := .service } } }
def live0 : State := { base with ed := { live := [(1, some { serial := 1, figs := [(0, some {})] })], newest := some 1 } }
set_option maxRecDepth 20000 in
theorem meets_EditionCommands : base.ed.staged = none ∧ (newestEd live0).isSome = true ∧ newestEd base = none ∧
    (editing.ed.staged.map (·.owner)) = some svc.iface ∧ editing.ed.wait = none ∧
    setEntries (leBytes 4 pidClsHashKey ++ [4, 0, 0, 0] ++ leBytes 4 10) 12 = some [(pidClsHashKey, leBytes 4 10)] ∧
    (match pinfo pidClsHashKey with
    | some (p, _) => p.scope = .ed && inForm p (leBytes 4 10) && recordOk pidClsHashKey 10
    | none => false) = true ∧ imageOk ((leBytes 4 0 ++ img0).drop 4) = true ∧ editing.prep = none ∧ editing.buf.claim = 0 ∧
    (editing.ed.staged.map (·.owner)) ≠ some ring0.iface ∧ ({ ring0 with flags := 1 } : CmdHdr).flags.getLsbD 0 = true ∧
    ((liveEds live0).map (·.2)).length = 1 := by decide +kernel
def commit0 : State := { editing with ed := { editing.ed with committed := true } }
def commitE1 : Live := { prog := programCommit commit0 [] {} }
/-- The edition after its images are verified and its bounds admitted. -/
def commitE3 : Except Unit Live :=
  match verifyEdition commit0 [] commitE1 with
  | .error _ => .error ()
  | .ok e2 => match admitEdition commit0 [] e2 with
    | .error _ => .error ()
    | .ok e3 => .ok e3
theorem meets_EditionCommands_structure : areaPoisoned commit0 0 editionArea = false ∧ structureOk commit0 [] commitE1 = true := by decide +kernel
theorem meets_EditionCommands_commit : (match commitE3 with
    | .error _ => false
    | .ok e3 => (liveEds commit0).isEmpty && (liveEd commit0 (nextSerial commit0 % 4)).isNone && (spaceStatus [] none e3).isNone
        && (raiseOf commit0 (minimaOf commit0 [e3]) : Int) ≤ sharedFolios commit0) = true := by decide +kernel
theorem meets_ContractQuery : (newestEd live0).bind (fun e => sget none e.figs 0) = some {} ∧ leAt (List.replicate 8 0 : List Byte) 0 4 = 0 := by
  decide +kernel

/-- A commit waits for its buffer claim. -/
def waiting : State := { base with ed := { wait := some { hdr := svc, cand := {}, deadline := 0 } } }
def secsRec (n : Nat) : List Byte := leBytes 6 n ++ leBytes 4 999999999 ++ [0, 0] ++ leBytes 4 0
def route0 : Route := { family := 4, len := 0, pfx := 0, result := 9 }
def withRoute : State := { base with tbl := { base.tbl with routes := [(5, some route0)] } }
theorem meets_TableCommands : ([3, 63] ++ List.replicate 10 0 : List Byte).length = 12 ∧ leAt ([3, 63] ++ List.replicate 10 0 : List Byte) 1 1 ≤ 63 ∧
    base.tbl.learnQ = [] ∧ routeOf 4 0 (List.replicate 16 0) 9 = some route0 ∧ (routeOf 6 64 (List.replicate 8 1 ++ List.replicate 8 0) 9).isSome = true ∧
    routeOf 4 32 (List.replicate 16 1) 9 = none ∧ findRoute base 4 0 0 = none ∧ findRoute withRoute 4 0 0 = some 5 ∧
    routeCount withRoute 4 + 4 * routeCount withRoute 6 + 1 ≤ 1048576 := by decide +kernel
theorem test_lpmRoute : payload (exec (.lpmRouteAdd svc ([4, 0, 0, 0] ++ leBytes 4 9 ++ List.replicate 16 0)) withRoute) = [5, 0, 0, 0, 0xFF, 0xFF] ∧
    payload (exec (.lpmRouteDelete svc ([4, 0] ++ List.replicate 16 0)) withRoute) = [0] ∧
    payload (exec (.lpmRouteDelete svc ([4, 1] ++ List.replicate 16 0)) withRoute) = [1] := by decide +kernel
theorem meets_TimeCommands : base.datum.st ≠ 1 ∧ base.datum.stepWin = none ∧ (secsRec 5).length = 16 ∧
    recordUnits (secsRec 5) = some ((5 * 10 ^ 9 + 999999999) * 2 ^ 32) ∧ (5 * 10 ^ 9 + 999999999) * 2 ^ 32 / 2 ^ 16 ≠ now base / 2 ^ 16 ∧
    recordUnits (leBytes 6 5 ++ leBytes 4 1000000000 ++ [0, 0] ++ leBytes 4 0) = none ∧
    offsetTarget base (offset16 (leBytes 8 7 ++ [0, 0]) true) = some (7 * 2 ^ 32) ∧ 7 * 2 ^ 32 / 2 ^ 16 ≠ now base / 2 ^ 16 ∧
    offsetTarget base (-1) = none ∧ (offsetTarget base (offset16 (leBytes 8 7 ++ [0, 0] ++ leBytes 4 500000) false)).isSome = true ∧
    base.datum.freq + (500000 : Int) * 65536 = maxOffset ∧ leAt (leBytes 8 7 ++ [0, 0] ++ leBytes 4 500000) 10 4 = 500000 ∧
    toSigned 64 (leAt (leBytes 8 (500000 * 65536)) 0 8) ≤ maxOffset ∧ rateSum { base.datum with freq := maxOffset } = maxOffset ∧
    -maxOffset ≤ rateSum { base.datum with freq := maxOffset } ∧
    leAt ([31] : List Byte) 0 1 < 32 := by decide +kernel
theorem test_timeSet : (next (exec (.timeSet svc (secsRec 5)) base)).datum.units = (5 * 10 ^ 9 + 999999999) * 2 ^ 32 ∧
    status (exec (.timeSet svc (secsRec 5)) { base with datum := { base.datum with st := 1 } }) ≠ some 0 := by decide +kernel
def cap0 : State := { base with hbm := { base.hbm with capture := 1 } }
def winAt (n st : Nat) : State := { cap0 with hbm := { cap0.hbm with windows := [(n, { st := st })] } }
theorem meets_CaptureCommands : sameCycle cap0 = none ∧ openWin cap0 = none ∧ freeWin cap0 = some 0 ∧ openWin (winAt 3 wOpen) = some 3 ∧
    ([3, 0, 0, 0] : List Byte).length = 4 ∧ leAt ([3, 0, 0, 0] : List Byte) 0 1 < 4 ∧ (getWin (winAt 3 wFrozen) 3).st = wFrozen ∧
    (getWin (winAt 3 wFrozen) 0).st = wFree ∧ (getWin (winAt 3 wOpen) 3).st = wOpen := by decide +kernel
theorem test_captureRelease : (getWin (next (exec (.captureRelease svc [3, 0, 0, 0]) (winAt 3 wFrozen))) 3).st = wFree ∧
    status (exec (.captureRelease svc [3, 0, 0, 0]) (winAt 3 wOpen)) = some stBusy := by decide +kernel
def stnSt (x : Nat) : State := { base with stn := [(16, { role := 8, st := x })] }
def inService (n : Nat) : State := { base with stn := (List.range n).map fun k => (k, { role := k, st := ssInService }) }
theorem meets_StationCommands : ([16, 0, 0, 0] : List Byte).length = 4 ∧ leAt ([16, 0, 0, 0] : List Byte) 0 1 ≤ 16 ∧
    (getStn (stnSt ssSpare) 16).st = ssSpare ∧ (getStn (stnSt ssOut) 16).st = ssOut ∧ (getStn (stnSt ssFailed) 16).st = ssFailed ∧
    (getStn (stnSt ssInService) 16).st = ssInService ∧ (getStn (inService 8) 0).st = ssInService ∧ roleHalf (getStn (inService 8) 0).role = some .west ∧
    7 ≤ (servingStations (inService 8) .west).length - 1 ∧ ¬ 7 ≤ (servingStations (inService 7) .west).length - 1 ∧
    readmitWaits (stnSt ssOut) 16 = false ∧ (stnSt ssOut).prep = none ∧ (stnSt ssOut).ed.wait = none ∧ checkRunning (stnSt ssOut) = false ∧
    ({ stnSt ssOut with prep := some {} } : State).prep.isSome = true ∧ leAt ([0, 64, 0xC0, 0x0F] : List Byte) 1 1 ≤ 64 ∧
    leAt ([0, 64, 0xC0, 0x0F] : List Byte) 2 2 + 64 = 4096 := by decide +kernel
theorem test_stationRetire : (getStn (next (exec (.stationRetire svc [0, 0, 0, 0]) (inService 8))) 0).st = ssDraining ∧
    status (exec (.stationRetire svc [0, 0, 0, 0]) (inService 7)) ≠ some 0 := by decide +kernel
def dbg (s : State) : State := { s with fuses := { s.fuses with debug := true } }
def shelf0 : Sparse (Option ShelfEnt) := [(96, some { kind := .halted, thread := { th0 with pc := 4 } })]
def haltedOne : State := dbg { base with stn := [(0, { role := 0, st := ssInService, threads := [(0, { st := .halted })], shelf := shelf0 })] }
theorem meets_DebugAndLockCommands : base.fuses.debug = false ∧ haltedOne.fuses.debug = true ∧ threadParam [16, 11, 7, 0] = some (16, 95) ∧
    threadParam [17, 0, 0, 0] = none ∧ (getStn (dbg (onThread th0)) 0).st ≠ ssPreparing ∧ freeSnapshot (getStn (dbg (onThread th0)) 0) = some 96 ∧
    (getThr (dbg (onThread th0)) 0 0).halt = none ∧ (getThr (dbg (onThread th0)) 0 1).st = .idle ∧
    (getThr (dbg (onThread th0)) 0 0).st = .running ∧ holdsAny { dbg (onThread th0) with held := [{ master := 0 }] } 0 0 = true ∧
    haltedEntry (getStn haltedOne 0) 0 = some (96, { kind := .halted, thread := { th0 with pc := 4 } }) ∧
    (getThr haltedOne 0 0).st = .halted ∧ leAt ([0, 0, 96, 0] : List Byte) 2 2 ≤ 511 ∧
    lockPermitted base (ifaceMaster svc.iface) 63 = true ∧ lockHeld (lockWord base 4095) = false ∧
    leAt ([63, 63, 0x10, 0x0F] : List Byte) 2 2 = ifaceMaster svc.iface ∧ leAt ([1, 255, 0, 0] : List Byte) 0 1 ≤ 1 := by decide +kernel
theorem meets_DebugAndLockCommands_halt : holdsAny (dbg (onThread th0)) 0 0 = false ∧ (getThr (dbg (onThread th0)) 0 0).ended = false ∧
    inEmu (getStn (dbg (onThread th0)) 0) 0 = false ∧ (getThr (dbg (onThread { th0 with ended := true })) 0 0).ended = true ∧
    inEmu (getStn (dbg (with0 fun st => { st with emu := [{ job := { lane := 0 } }] })) 0) 0 = true ∧
    (getThr (dbg (onThread { th0 with st := .trapped })) 0 0).st = .trapped := by decide +kernel
theorem test_threadResume : (getThr (next (exec (.threadResume svc [0, 0, 0, 0]) haltedOne)) 0 0).pc = 4 ∧
    (payload (exec (.contextRead svc [0, 0, 96, 0]) haltedOne)).length = 72 := by decide +kernel
def upd (st : Nat) (len : Nat) (f : Fuses → Fuses := id) : State :=
  { base with store := { base.store with slotA := [], journal := { state := st, length := len, target := 1 } }, fuses := f base.fuses }
theorem meets_ImageCommands : leAt (leBytes 4 (24 * 2 ^ 20) ++ leBytes 4 0) 0 4 = fwImgLimit false ∧ (upd jIdle 0).store.journal.state = jIdle ∧
    (upd jInterrupted 0).store.journal.state = jInterrupted ∧ (leBytes 4 0 ++ [1] : List Byte).length = 5 ∧
    (leBytes 4 0 ++ List.replicate 1024 1 : List Byte).length = 1028 ∧ (targetBytes (upd jReceiving 1)).length + 1 = 1 ∧
    (upd jReceiving 0).store.journal.state = jReceiving ∧ (targetBytes (upd jReceiving 0)).length = (upd jReceiving 0).store.journal.length ∧
    (upd jVerified 0).store.journal.state = jVerified ∧ (upd jVerified 0).ed.wait = none ∧ (upd jVerified 0).prep = none ∧
    (upd jVerified 0 fun f => { f with inPlace := true }).fuses.inPlace = true ∧ (upd jVerified 0).fuses.inPlace = false ∧
    (upd jReceiving 0).store.journal.state ≠ jInterrupted := by decide +kernel
theorem meets_ImageCommands_reset : needsReset (upd jVerified 0) (targetBytes (upd jVerified 0)) = false ∧
    needsReset { upd jVerified 0 with fw := { base.fw with settingsFmt := 1 } } (targetBytes (upd jVerified 0)) = true := by decide +kernel
theorem test_imageData : targetBytes (next (exec (.imageData svc (leBytes 4 0 ++ [7])) (upd jReceiving 1))) = [7] ∧
    status (exec (.imageData svc (leBytes 4 0 ++ [7, 7])) (upd jReceiving 1)) ≠ some 0 := by decide +kernel
def fault0 (p : Pair) : State := { base with flt := { base.flt with pairs := [(0, some p)] } }
theorem meets_LogAndFaultCommands : leAt ([0xFF, 0xFF, 32, 0] : List Byte) 2 1 ≤ 32 ∧ ([0xFF, 0xFF, 32, 0] : List Byte).length = 4 ∧
    base.flt.pairs = [] ∧ base.flt.tempOut = false ∧ base.flt.supplyOut = 0 ∧ liveEds base = [] ∧
    12 ≤ popcount ({ base with hbm := { base.hbm with healthy := 0x0FFF } } : State).hbm.healthy.toNat 16 := by decide +kernel
theorem test_logRead : (payload (exec (.logRead svc [0xFF, 0xFF, 32, 0]) base)).length = 4096 := by decide +kernel

/-! ### Host events -/

def ringOn (n : Nat) (r : Ring) : State := { base with host := { base.host with rings := [(n, r)] } }
theorem meets_HostRegisterWrites : State.reset.host.link = false ∧ base.host.link = true ∧ (getRing (ringOn 7 { enable := true }) 7).enable = true ∧
    (getRing base 7).enable = false ∧ (0x80000004 : BitVec 32).getLsbD 31 = true ∧ 4 ≤ (0x80000004 : BitVec 32).toNat % 32 ∧
    (0x8000000C : BitVec 32).toNat % 32 ≤ 12 ∧ (getRing base 7).sqTail < 2 ^ ((0x80000004 : BitVec 32).toNat % 32) ∧
    (getRing base 7).cqHead < 2 ^ 4 ∧ (0xFFFF : BitVec 16).toNat % 4 ≠ 0 := by decide +kernel
theorem test_cmdCfg : (getRing (next (exec (.cmdCfgEnable 7 0x80000004) base)) 7).enable = true ∧
    (getRing (next (exec (.cmdCfgEnable 7 0x8000000D) base)) 7).enable = false := by decide +kernel
def slot0 : LockSlot := { addr := streamBase 1, len := 64, copy := List.replicate 64 0 }
def locked0 : State := { base with tbl := { base.tbl with slots := [(255, some slot0)] } }
theorem meets_TableWindow : base.host.link = true ∧ (3 : BitVec 26).toNat % 4 ≠ 0 ∧ (0 : BitVec 26).toNat % 4 = 0 ∧
    regionOf 0x2C00000 = .general ∧ regionOf 0x2EFFFFC = .general ∧ regionOf 0x600000 = .mac 1 ∧ regionOf 0xBFFFFC = .mac 1 ∧
    regionOf 0x2800000 = .exact 1 ∧ regionOf 0x2BFFFFC = .exact 1 ∧ regionOf 0x2F00000 = .policer ∧ regionOf 0x2F3FFFC = .policer := by decide +kernel
theorem meets_TableWindow_stream : (∀ h, h = 0 ∨ h = 1 → (streamBase h / 0x400000 + 1) % 2 = h ∧ regionOf (streamBase h) = .stream h ∧
      ((streamBase h + 64 * 65535 + 60) / 0x400000 + 1) % 2 = h ∧ regionOf (streamBase h + 64 * 65535 + 60) = .stream h) ∧
    (0x80000000 : BitVec 32).getLsbD 31 = true ∧ slotOf base (streamBase 1) = none ∧ freeSlot base = some 0 ∧
    slotOf locked0 (streamBase 1) = some (255, slot0) ∧ slot0.len = 64 ∧ slot0.copy.length = 64 := by
  refine ⟨?_, by decide +kernel⟩
  rintro h (rfl | rfl) <;> decide +kernel
theorem meets_TableWindow_widths : ([1, 2, 3] : List Byte).length ≠ 4 ∧ ([1, 2, 3] : List Byte).length ≠ 8 ∧
    ([1, 2, 3, 4, 5, 6, 7, 8] : List Byte).length ≠ 4 ∧ (4 : BitVec 26).toNat % 8 ≠ 0 ∧ (8 : BitVec 26).toNat % 8 = 0 ∧
    goes (exec (.tableWindowWrite 8 (leBytes 4 1)) base) = true ∧ regionOf (streamBase 1 + 64 * 65535) = .stream 1 := by decide +kernel
theorem test_tableWindowWrite : tblByte (next (exec (.tableWindowWrite 3 (leBytes 4 0x01020304)) base)) 0 = 0 ∧
    tblByte (next (exec (.tableEntryStage (BitVec.ofNat 26 (streamBase 1)) 0x01020304) locked0)) (streamBase 1) = 0 := by decide +kernel
def hdr0 : List Byte := [0, 1, 0, 0, 9, 0, 0, 0, 0, 0, 0, 0, 0, 0, 0, 0]
def entry0 : List Byte := leBytes 8 64 ++ leBytes 4 16 ++ leBytes 4 512 ++ leBytes 8 4096 ++ List.replicate 8 0
def ringReady : State := ringOn 7 { enable := true, log2n := 4, sqTail := 1 }
def ringDone : State := { ringOn 7 { enable := true, log2n := 4, cqTail := 15, running := some { opcode := 0x0100, tag := 9, replyCap := 512 } } with
  host := { (ringOn 7 { enable := true, log2n := 4, cqTail := 15, running := some { opcode := 0x0100, tag := 9, replyCap := 512 } }).host with
    done := [{ iface := .ring 7, opcode := 0x0100, status := 0, tag := 9 }] } }
theorem meets_CommandChannel : accepting State.reset = false ∧ accepting base = true ∧ roundRobin 9 base.host.lastAcc (ifaceReady base) = none ∧
    roundRobin 9 ringReady.host.lastAcc (ifaceReady ringReady) = some 7 ∧ entryOk entry0 = true ∧ headerStatus hdr0 16 = none ∧
    (headerStatus hdr0 17).isSome = true ∧ firstReply base .service = none ∧
    firstReply ringDone (.ring 7) = some { iface := .ring 7, opcode := 0x0100, status := 0, tag := 9 } ∧
    (getRing ringDone 7).running = some { opcode := 0x0100, tag := 9, replyCap := 512 } := by decide +kernel
/-- The host link runs PCIe. -/
def overPcie (s : State) : State := { s with host := { s.host with cxl := false } }
/-- HBM behind the host window: a capture and a host region of one unit each, and bytes in it. -/
def hdmWith (s : State) (mem : Sparse Byte) : State := { s with hbm := { s.hbm with capture := 1, host := 1, mem := mem } }
/-- A command ring and a packet of NOP, which lie in the host region over PCIe. -/
def entryP : List Byte := leBytes 8 (2 ^ 29 + 4096) ++ leBytes 4 16 ++ leBytes 4 512 ++ leBytes 8 (2 ^ 29 + 8192) ++ List.replicate 8 0
def ringP : State := hdmWith (overPcie (ringOn 7 { enable := true, log2n := 4, sqTail := 1, baseLo := 0x20000000 }))
  (ssetRange 0 (ssetRange 0 [] (2 ^ 29) entryP) (2 ^ 29 + 4096) hdr0)
theorem meets_CommandChannel_pcie : accepting ringReady = true ∧ accepting ringP = true ∧ roundRobin 9 ringP.host.lastAcc (ifaceReady ringP) = some 7 ∧
    (overPcie ringReady).host.cxl = false ∧ roundRobin 9 (overPcie ringReady).host.lastAcc (ifaceReady (overPcie ringReady)) = some 7 ∧
    fetchPcie (overPcie ringReady) 7 = none ∧ ringP.host.cxl = false ∧ fetchPcie ringP 7 = some (.packet entryP hdr0) ∧ entryOk entryP = true ∧
    ringReady.host.cxl = true ∧ ringDone.host.cxl = true ∧
    inHost ringDone ((getRing ringDone 7).base + 32 * (getRing ringDone 7).size + 16 * (getRing ringDone 7).cqTail) 16 = false ∧
    inHost ringP ((getRing ringP 7).base + 32 * (getRing ringP 7).size + 16 * (getRing ringP 7).cqTail) 16 = true := by decide +kernel
theorem test_commandAccept : ((getRing (next (exec (.commandAccept (.packet entry0 hdr0)) ringReady)) 7).running.map (·.tag)) = some 9 ∧
    ((getRing (next (exec (.commandAccept .fromService) ringP)) 7).running.map (·.opcode)) = some 0x0100 ∧
    (getRing (next (exec (.commandAccept .fromService) (overPcie ringReady))) 7).cause = 4 := by decide +kernel
theorem test_commandComplete : (getRing (next (exec (.commandComplete (.ring 7) .ok) ringDone)) 7).cqTail = 0 := by decide +kernel
def hdm0 : State := { base with hbm := { base.hbm with capture := 1, host := 1 } }
theorem meets_HostMemoryWindow : rangePoisoned hdm0 0 64 = false ∧
    rangePoisoned { hdm0 with hbm := { hdm0.hbm with poisoned := [(hbmUnit / lineBytes, true)] } } 0 64 = true ∧
    HbmErr.corrected ≠ .uncorrectable ∧ HbmErr.none ≠ .uncorrectable ∧ captureBytes hdm0 ≤ hdmBytes hdm0 - 64 ∧ hdmBytes hdm0 ≤ 2 ^ 35 ∧ 64 ≤ captureBytes hdm0 := by decide +kernel

/-! ### Service port, resets, monitors -/

def eth (type : Nat) (rest : List Byte) : List Byte := List.replicate 6 0xFF ++ List.replicate 6 2 ++ beBytes 2 type ++ rest
/-- A service frame to the broadcast address with one information request. -/
def svcFrame : List Byte := sealFrame (eth 0x88B5 ([1, 1, 0, 0, 0, 0] ++ leBytes 2 0x0101 ++ [0, 0, 5, 0, 0, 0, 0, 0, 0, 0, 0, 0, 0, 0]))
def svcUp (v : Service) : State := { base with host := { base.host with svc := { v with link := true } } }
def run0 : List Byte × Running := ([2, 2, 2, 2, 2, 2], { opcode := 0x0200, tag := 5 })
theorem meets_ServicePortAndSmbus : base.host.svc.link = false ∧ (svcUp {}).fw.busy = false ∧ svcAccepts (svcUp {}) svcFrame = true ∧
    svcAccepts (svcUp {}) (svcFrame.take 63) = false ∧ beAt svcFrame 16 2 = 0 ∧ bitOf (leAt svcFrame 18 1) 0 = false ∧
    (trimPacket ((svcFrame.drop 20).take (svcFrame.length - 24))).length ≤ maxPacket ∧ svcKept (svcUp {}).host.svc (bytesAt svcFrame 6 6) 5 = none ∧
    svcPresent (svcUp {}).host.svc (bytesAt svcFrame 6 6) 5 = false ∧ (svcUp {}).host.svc.queue.length < 5 ∧
    reasmLate base = false ∧ reasmLate { svcUp { reasm := some {} } with clk := secCycles + 1 } = true ∧
    reasmLate { svcUp { reasm := some {} } with clk := secCycles } = false ∧ (svcUp { running := some run0 }).host.svc.running = some run0 ∧
    base.clk < 0 + 125000000 ∧ ({ base with clk := 125000000 } : State).clk = 0 + 125000000 ∧
    (svcUp { downSince := some 0 }).host.svc.downSince = some 0 ∧ ({ base with clk := 1250000001 } : State).clk = 0 + 1250000000 + 1 ∧
    base.fw.resetN = true ∧ base.fw.powered = true ∧ 1 ≤ base.fw.bootStep ∧ State.reset.fw.bootStep = 0 := by decide +kernel
theorem test_serviceFrame : (next (exec (.serviceFrameReceived svcFrame) (svcUp {}))).host.svc.queue.length = 1 := by decide +kernel
theorem meets_ResetsAndBoot : State.reset.fw.resetN = false ∧ base.fw.resetN = true ∧ State.reset.fw.powered = true ∧
    ({ base with fw := { base.fw with booting := true } } : State).fw.booting = true ∧ base.flt.fatal = false ∧ base.fw.booting = false ∧
    ({ base with hbm := { base.hbm with healthy := 0xFFFF } } : State).hbm.healthy = 0xFFFF ∧
    ({ base with fw := { base.fw with recovery := true } } : State).fw.recovery = true ∧ base.host.link = true ∧ base.host.perst = false ∧
    5 ≤ base.fw.bootStep ∧ linkSupported 8 16 = true ∧ linkSupported 8 8 = false ∧
    ({ base with fw := { base.fw with resetAsked := some .expiry } } : State).fw.resetAsked = some .expiry ∧ base.fw.resetAsked ≠ some .expiry := by
  decide +kernel
theorem test_perst : (next (exec .perstNAssert base)).host.link = false ∧ (next (exec .perstNAssert base)).host.perst = true := by decide +kernel
theorem meets_MonitorsAndLinks : inRange 0 (supplyRange 0).1 = true ∧ inRange 9 (supplyRange 9).2 = true ∧ (supplyRange 9).2 < 65535 ∧
    inRange 9 ((supplyRange 9).2 + 1) = false ∧ base.fw.resetN = true ∧ base.flt.supplyOut.getLsbD 9 = false ∧
    (List.replicate 24 (0 : BitVec 16)).length = 24 ∧ (List.replicate 23 (0 : BitVec 16)).length ≠ 24 ∧ base.flt.tempOut = false ∧
    (tjLimits base).2 < 1101 ∧ ({ base with flt := { base.flt with tempOut := true } } : State).flt.tempOut = true ∧
    (tjLimits base).2 - 20 = 1080 ∧ (tjLimits base).1 + 20 = -380 ∧ 2 ≤ base.fw.bootStep ∧ State.reset.fw.bootStep < 2 ∧
    (getPort base 31).link = false ∧ (getPort { base with tm := { base.tm with ports := [(31, { link := true })] } } 31).link = true ∧
    lockPermitted (dbg base) debuggerId 63 = true ∧ heldBy (dbg base) debuggerId = [] ∧ lockWord (dbg base) 4095 = 0 := by decide +kernel
theorem test_tempSample : (next (exec (.tempSample (List.replicate 23 500 ++ [1101])) base)).flt.tempOut = true ∧
    (next (exec (.tempSample (List.replicate 23 500 ++ [1100])) base)).flt.tempOut = false := by decide +kernel

/-! ### Packets -/

def frame0 : List Byte := sealFrame (eth 0x0800 [])
def up (p : Nat) : State := { base with tm := { base.tm with ports := [(p, { link := true })] } }
def inQ (q : HalfState) (p : Packet) : State := { base with west := q, pkts := [(0, some p)] }
theorem meets_PacketEntry_frames : (getPort (up 31) 31).link = true ∧ (up 31).fw.pause = false ∧ ({ up 31 with fw := { base.fw with pause := true } } : State).fw.pause = true ∧
    fcsGood frame0 = true ∧ frame0.length = 64 ∧ fcsGood (List.replicate 64 0) = false ∧ fcsGood (fcsOf []) = true ∧ (fcsOf []).length < 64 := by decide +kernel
theorem meets_PacketEntry_asm : asmGives .smdErr = false ∧ asmGives (.assemblyErr 1) = false ∧ asmGives .whole = true ∧ asmGives (.assembled 2) = true ∧
    (15 : Fin 32).val < 16 ∧ ¬ (16 : Fin 32).val < 16 := by decide
theorem meets_PacketEntry_write : (writeFrame (up 31) 31 65 frame0).isSome = true ∧
    (writeFrame { up 31 with buf := { banks := (List.range 16).map fun b => (b, { cache := [], fresh := 24576 }) } } 31 65 frame0).isNone = true ∧
    (writeFrame base 34 65 (sealFrame (List.replicate 60 0))).isSome = true := by decide +kernel
theorem fcs_length (bs : List Byte) : (fcsOf bs).length = 4 := by simp [fcsOf, leBytes]
theorem fcs_good (d : List Byte) : fcsGood (d ++ fcsOf d) = true := by simp [fcsGood, fcs_length]
/-- A frame of 9,217 bytes with its FCS is longer than any that is accepted. -/
theorem meets_PacketEntry_long : fcsGood (List.replicate 9213 0 ++ fcsOf (List.replicate 9213 0)) = true ∧
    9216 < (List.replicate 9213 0 ++ fcsOf (List.replicate 9213 0)).length :=
  ⟨fcs_good _, by rw [List.length_append, List.length_replicate, fcs_length]; omega⟩
theorem meets_PacketEntry_queues : (getHalf base .west).rxQ = [] ∧ (getHalf (inQ { rxQ := [0, 1] } {}) .west).rxQ = [0, 1] ∧
    getPkt (inQ { rxQ := [0, 1] } {}) 0 = some {} ∧ (getHalf (inQ { clsQ := [0] } {}) .west).clsQ = [0] ∧ ({} : Packet).half = .west ∧
    ({} : Packet).get fPass = 0 ∧ base.ed.newest = none ∧ ({} : Packet).copies = 0 ∧ (getHalf (inQ { admQ := [0] } {}) .west).admQ = [0] ∧
    ({ domainFull := true } : Packet).domainFull = true ∧ ({ domainFull := true } : Packet).reason = 0 ∧
    ({ domainFull := true } : Packet).direct = none ∧ ({} : Packet).trap = none := by decide +kernel
/-- An edition with one rule that matches every packet of profile 0. -/
def rule0 : Live := { serial := 0, vals := [(pidClsRule 0, 1)] }
def classify0 : State := { inQ { clsQ := [0] } {} with ed := { live := [(0, some rule0)], newest := some 0 } }
theorem meets_PacketEntry_match : (matchRule rule0 {} (keyOf rule0 ({} : Packet) (profileOf rule0 0 0)) (profileOf rule0 0 0)).isSome = true ∧
    classify0.ed.newest = some 0 ∧ liveEd classify0 0 = some rule0 ∧ (({} : Packet).put fTag 0).get fPathCode = 0 ∧
    (({} : Packet).put fTag 0) = {} := by decide +kernel
theorem test_classify : (getHalf (next (exec (.classify .west) classify0)) .west).admQ = [0] := by decide +kernel
def ptp0 : State := pset (pset (pset base pidPtpClockType 1) (pidPtpPortEnable 31) 1) pidPtpProfile 0
theorem meets_PacketEntry_ptp : pget ptp0 pidPtpClockType ≠ 0 ∧ pget ptp0 (pidPtpPortEnable 31) ≠ 0 ∧ ptp0.fw.ready = true ∧
    pget base pidPtpClockType = 0 ∧ (List.replicate 60 (0 : Byte)).length ≤ 9212 ∧ (writeFrame ptp0 34 65 (sealFrame (List.replicate 60 0))).isSome = true := by
  decide +kernel

/-- A transmit stamp of a Sync that the Registrar sent. -/
def stampRec : List Byte := [0, 0, 0, 2] ++ List.replicate 20 0
def ptp1 : State := { ptp0 with datum := { ptp0.datum with txStamps := [(31, [stampRec])] } }
theorem meets_PacketEntry_second : ptpAllowed ptp0 .sync [] = true ∧ ptpAllowed ptp0 .pdelayReq [] = false ∧ followed .sync = none ∧ followed .followUp = some 0 ∧
    followed .pdelayRespFollowUp = some 3 ∧ ownStamp ptp0 31 0 = none ∧ ownStamp ptp1 31 0 = some stampRec ∧ ptpAllowed ptp1 .followUp [] = true ∧
    pget ptp1 pidPtpClockType ≠ 0 ∧ pget ptp1 (pidPtpPortEnable 31) ≠ 0 ∧ ptp1.fw.ready = true ∧
    (writeFrame ptp0 34 65 (sealFrame (ptpFrame ptp0 31 .sync [] (List.replicate 60 0)))).isSome = true ∧
    (writeFrame ptp1 34 65 (sealFrame (ptpFrame ptp1 31 .followUp stampRec (List.replicate 60 0)))).isSome = true := by decide +kernel

/-! ### Stations -/

def readyTask : State := { base with stn := [(0, { role := 0, st := ssInService, tasks := [(4095, { st := .ready })] })] }
def stalled (c : Nat) : State := { readyTask with clk := c }
def cands (s : State) : List Cand := firstCands 4 ((occupied (getStn s 0)).filterMap fun it => candOf s.clk (getStn s 0) it.1 it.2)
def timerTask (x : Nat) : State := { base with stn := [(0, { st := ssInService, threads := [(0, { st := .running })], tasks := [(4095, { st := .running, timerAt := some x })] })] }
theorem meets_DispatchAndStalls : cands base = [] ∧ (cands readyTask).map (·.idx) = [4095] ∧ (getTask readyTask 0 4095).st = .ready ∧
    taskOver readyTask (getTask readyTask 0 4095) = false ∧ scanHits readyTask (getTask readyTask 0 0) = false ∧
    (getTask (timerTask 1) 0 4095).timerAt = some 1 ∧ (timerTask 1).clk < 1 ∧ (timerTask 0).clk = 0 ∧ (getTask (timerTask 0) 0 4095).st = .running ∧
    (getThr (timerTask 0) 0 (getTask (timerTask 0) 0 4095).thread).wait = none ∧ stallDue (stalled 4095) 0 4096 1 = false ∧
    stallDue (stalled 4096) 0 4096 1 = true ∧ stallDue (stalled 4096) 0 (largestBound base + 4096) 2 = true ∧
    stallDue (stalled 4095) 0 (largestBound base + 4096) 2 = false := by decide +kernel
theorem meets_DispatchAndStalls_place : placeLane { readyTask with ed := { live := [(0, some {})] } } 0 (getTask readyTask 0 4095) = some 0 := by
  decide +kernel
theorem meets_DispatchAndStalls_halt : (thrOf (onThread th0) t0).halt = none ∧
    (thrOf (onThread { th0 with halt := some {} }) t0).halt = some {} ∧ (onThread th0).clk < ({} : HaltReq).since + 4096 ∧
    ({} : HaltReq).since + 4096 ≤ (stalled 4096).clk ∧ (thrOf (onThread { th0 with halt := some {} }) t0).ended = false ∧
    (thrOf (onThread { th0 with halt := some {} }) t0).st ≠ .trapped ∧ inEmu (getStn (onThread { th0 with halt := some {} }) 0) 0 = false ∧
    (thrOf (onThread { th0 with halt := some {}, st := .trapped }) t0).st = .trapped := by decide +kernel
theorem test_forcedHalt : (thrOf (next (exec (.forcedHalt t0) { onThread { th0 with halt := some { entry := 96 } } with clk := 4096 })) t0).st = .halted ∧
    (thrOf (next (exec (.forcedHalt t0) { onThread { th0 with halt := some { entry := 96 } } with clk := 4095 })) t0).st = .running := by
  decide +kernel
def drained (d : Drain) (ts : Sparse Task) : State := { base with stn := [(16, { role := 8, st := ssDraining, drain := some d, tasks := ts })] }
theorem meets_StationEvents : (getStn (stnSt ssDraining) 16).st = ssDraining ∧ (getStn (stnSt ssPreparing) 16).st = ssPreparing ∧
    (getStn base 16).st = ssOut ∧ (getStn base 16).drain = none ∧ (getStn (drained { deadline := 5 } []) 16).drain = some { deadline := 5 } ∧
    occupied (getStn (drained { deadline := 5 } []) 16) = [] ∧ occupied (getStn (drained { deadline := 5 } [(0, { st := .running })]) 16) ≠ [] ∧
    base.clk < 5 ∧ ({ deadline := 0 } : Drain).deadline ≤ base.clk ∧ ({ deadline := 5 } : Drain).readmit = none ∧
    ({ base with prep := some {} } : State).prep = some {} ∧ checkRunning { base with spareCheck := some (0, 1) } = true ∧
    checkRunning base = false ∧ base.readmits = [] ∧ ({ stnSt ssSpare with vacant := [7] } : State).vacant = [7] ∧
    firstSpare (stnSt ssSpare) = some 16 ∧ ({ base with readmits := [{ s := 3 }] } : State).readmits = [{ s := 3 }] ∧
    ({ target := some 7 } : Prep).target = some 7 ∧ (stnSt ssSpare).prep = none := by decide +kernel
def checkAt (c : Nat) : State := { stnSt ssSpare with clk := c }
theorem meets_StationEvents_checks : (checkAt 0).clk < (getStn (checkAt 0) 16).checked + pget (checkAt 0) pidStnSpareCheckS * secCycles ∧
    (getStn (checkAt (2 ^ 60)) 16).st = ssSpare ∧ (checkAt (2 ^ 60)).prep = none ∧
    (getStn (checkAt (2 ^ 60)) 16).checked + pget (checkAt (2 ^ 60)) pidStnSpareCheckS * secCycles ≤ (checkAt (2 ^ 60)).clk ∧
    base.ed.wait = none ∧ waiting.ed.wait.isSome = true ∧ areaPoisoned base editionArea imageArea = false ∧
    areaPoisoned { base with hbm := { base.hbm with poisoned := [(editionArea / lineBytes, true)] } } editionArea imageArea = true := by decide +kernel
theorem test_stationAdmit : (getStn (next (exec (.stationAdmit .pass) { base with prep := some { s := 16, target := some 7 } })) 16).role = 7 ∧
    7 ∈ (next (exec (.stationAdmit .fail) { base with prep := some { s := 16, target := some 7 } })).vacant := by decide +kernel

/-! ### Release and egress -/

def pk (p : Packet) : State := inQ { relQ := [0] } p
def pkDone : Packet := { stage := .complete }
def pkTurn : Packet := { stage := .checked, hole := true }
theorem meets_ReleaseAndEgress_release : nextRelease base .west = none ∧ nextRelease (pk pkTurn) .west = some 0 ∧ getPkt (pk pkTurn) 0 = some pkTurn ∧
    pkTurn.half = .west ∧ pkTurn.copies = 0 ∧ holeRule (pk pkTurn) pkTurn = none ∧ ordered pkTurn = true ∧
    ((getHalf (pk pkDone) .west).relQ.find? fun i => (getPkt (pk pkDone) i).any fun p => p.stage = .complete) = some 0 ∧
    ((getHalf (pk pkTurn) .west).relQ.find? fun i => (getPkt (pk pkTurn) i).any fun p => p.stage = .complete) = none := by decide +kernel
theorem test_release : sget 0 (getHalf (next (exec (.release .west) (pk pkTurn))) .west).next 0 = 1 := by decide +kernel
def sentPkt : Packet := { copies := 1, stage := .released }
/-- A port that sends a copy of packet 0. -/
def sending (key : Nat) (t : TxCopy) : State := { pk sentPkt with tm := { base.tm with ports := [(key, { link := true, tx := some t })] } }
def sent0 : TxCopy := { out := some frame0 }
theorem meets_ReleaseAndEgress_recirculate : portKey 33 (hIdx .west) = 33 ∧ portKey 33 (hIdx .east) = 36 ∧ (getPort (sending 36 sent0) 36).tx = some sent0 ∧
    (getPort (sending 36 {}) 36).tx = some {} ∧ sent0.out = some frame0 ∧ getPkt (sending 36 sent0) 0 = some sentPkt ∧
    (writeFrame (modPort (sending 36 sent0) 36 fun x => { x with tx := none }) 33 65 frame0).isSome = true ∧
    (getPort base 36).tx = none := by decide +kernel
def queued (key : Nat) (c : Copy) : State := { pk { copies := 1 } with tm := { base.tm with queues := [(key, [c])] } }
def deep0 : Copy := { place := 2, len := 64, data := frame0 }
theorem meets_ReleaseAndEgress_deep : spillNext base = none ∧ spillNext (queued 511 { place := 1 }) = some (511, { place := 1 }) ∧
    getPkt (queued 511 { place := 1 }) 0 = some { copies := 1 } ∧ qKey (31 : Fin 32).val (15 : Fin 16).val 0 = 511 ∧
    ((getQueue (queued 511 deep0) 511).find? fun c => c.place = 2) = some deep0 ∧ ((getQueue base 511).find? fun c => c.place = 2) = none ∧
    prefetched (getQueue (queued 511 deep0) 511) + deep0.len ≤ pget base pidTmDeepPrefetch ∧
    (ceilDiv deep0.data.length folioData : Nat) ≤ sharedFolios (queued 511 deep0) - base.buf.claim ∧
    (writeFrame (queued 511 deep0) 33 66 deep0.data).isSome = true := by decide +kernel
theorem meets_ReleaseAndEgress_deepRefused : pget base pidTmDeepPrefetch < prefetched [] + 2 ^ 40 ∧
    sharedFolios (queued 511 deep0) - 2 ^ 40 < (ceilDiv deep0.data.length folioData : Nat) ∧ HbmErr.corrected ≠ .uncorrectable ∧
    (writeFrame (readError (requestRange (queued 511 deep0) deep0.addr deep0.data.length) .corrected deep0.addr) 33 66 deep0.data).isSome = true := by
  decide +kernel
theorem test_deepRead : getQueue (next (exec (.deepRead 31 15 .uncorrectable) (queued 511 deep0))) 511 = [] := by decide +kernel
theorem meets_ReleaseAndEgress_dequeue : (getPort (sending 31 sent0) 31).tx.isSome = true ∧ interruptible (sending 31 sent0) 31 (getPort (sending 31 sent0) 31) = false ∧
    (getPort base 31).tx = none ∧ shaperOk base (shaperKey 31 16) = true ∧ (selectQueue base 31 0 false).2 = none ∧
    (selectQueue (queued 559 { len := 64 }) 34 0 false).2 = some 15 ∧ getQueue (queued 559 { len := 64 }) (qKey 34 15 0) = [{ len := 64 }] ∧
    copyOver (queued 559 { len := 64 }) { len := 64 } = false ∧ (selectQueue (queued (qKey 35 0 0) { len := 64 }) 35 0 false).2 = some 0 ∧
    getQueue (queued (qKey 35 0 0) { len := 64 }) (qKey 35 0 0) = [{ len := 64 }] ∧ (getPort base 35).tx = none ∧
    shaperOk base (shaperKey 35 16) = true := by decide +kernel
theorem meets_ReleaseAndEgress_ports : editKey (sending 31 {}) 31 = 31 ∧ (getPort (sending 31 {}) 31).tx = some {} ∧ ({} : TxCopy).out = none ∧
    sent0.out.isSome = true ∧ (getPort (sending 31 sent0) 31).tx = some sent0 ∧ (sending 31 sent0).flt.fatal = false ∧
    (getPort (sending 31 sent0) 31).hold = false ∧ preemptOn base 31 = false ∧ preemptOn (pset base (pidMacPortPreempt 31) 1) 31 = true ∧
    pget base (pidMacPortPreemptVerify 31) ≠ 0 ∧ (getPort (sending 34 sent0) 34).tx = some sent0 ∧ (getPort base 34).tx = none := by decide +kernel
def rx0 : State := pset (pset { sending 32 sent0 with host := { base.host with rxRings := [(0, { posted := 1 })] } } (pidHostRxringEnable 0) 1) (pidHostRxringEntries 0) 64
def tx0 : State := pset (pset { base with host := { base.host with txRings := [(3, { prod := 1 })] } } (pidHostTxringEnable 3) 1) (pidHostTxringEntries 3) 64
def desc0 (n : Nat) : List Byte := List.replicate 8 0 ++ leBytes 2 n ++ List.replicate 6 0
theorem meets_ReleaseAndEgress_host : (getPort rx0 32).tx = some sent0 ∧ (getPort base 32).tx = none ∧
    rxRoom rx0 sent0.queue (frame0.take (frame0.length - 4)).length = true ∧
    rxRoom (sending 32 sent0) sent0.queue (frame0.take (frame0.length - 4)).length = false ∧ roundRobin 4 tx0.host.lastTx (txReady tx0) = some 3 ∧
    roundRobin 4 base.host.lastTx (txReady base) ≠ some 3 ∧ leAt (desc0 59) 8 2 < 60 ∧ leAt (desc0 60) 8 2 = 60 ∧ 9212 < leAt (desc0 9213) 8 2 ∧
    leAt (desc0 60) 10 1 ≤ 1 ∧ zeros (desc0 60) 11 5 = true ∧ (writeFrame tx0 32 65 (sealFrame (fitBytes [] (leAt (desc0 60) 8 2)))).isSome = true ∧
    now base / (1000 * 2 ^ 32) = base.tm.samples ∧
    now { base with tm := { base.tm with samples := 1 } } / (1000 * 2 ^ 32) ≠ 1 := by decide +kernel
/-- The host's packet rings in the host region over PCIe. -/
def rxP : State := pset (pset (hdmWith (overPcie rx0) (ssetRange 0 [] (2 ^ 29) (leBytes 8 (2 ^ 29 + 65536)))) (pidHostRxringBase 0) (2 ^ 29)) (pidHostRxringBufLen 0) 2048
def txP : State := pset (hdmWith (overPcie tx0) (ssetRange 0 [] (2 ^ 29) (leBytes 8 (2 ^ 29 + 65536) ++ leBytes 2 60))) (pidHostTxringBase 3) (2 ^ 29)
theorem meets_ReleaseAndEgress_pcie : (overPcie rx0).host.cxl = false ∧ rxPlaces (overPcie rx0) 0 1 = none ∧ rx0.host.cxl = true ∧ rxP.host.cxl = false ∧ rxRoom rxP 0 (frame0.take (frame0.length - 4)).length = true ∧
    (pieces (pget rxP (pidHostRxringBufLen 0)) (frame0.take (frame0.length - 4))).length = 1 ∧ (rxPlaces rxP 0 1).isSome = true ∧
    (getPort rxP 32).tx = some sent0 ∧ getPkt rxP sent0.copy.pkt = some sentPkt ∧ (overPcie tx0).host.cxl = false ∧ txFetchPcie (overPcie tx0) 3 = none ∧
    roundRobin 4 txP.host.lastTx (txReady txP) = some 3 ∧ txP.host.cxl = false ∧
    txFetchPcie txP 3 = some (leBytes 8 (2 ^ 29 + 65536) ++ leBytes 2 60 ++ List.replicate 6 0, List.replicate 60 0) ∧
    tx0.host.cxl = true ∧ roundRobin 4 (overPcie tx0).host.lastTx (txReady (overPcie tx0)) = some 3 := by decide +kernel
theorem test_hostTxFetch : (getTx (next (exec (.hostTxFetch 3 [] []) (overPcie tx0))) 3).stopped = true ∧ (getTx (next (exec (.hostTxFetch 3 [] []) txP)) 3).cons = 1 := by
  decide +kernel
theorem test_transmitComplete : getPkt (next (exec (.transmitComplete 31) (sending 31 sent0))) 0 = none := by decide +kernel

/-! ### Capture, HBM, faults and the log -/

def stagedOne (s : State) : State := { s with pkts := [(0, some sentPkt)], hbm := { s.hbm with staged := [{}] } }
theorem meets_CaptureHbmAndLog_write : base.hbm.staged = [] ∧ (stagedOne cap0).hbm.staged = [{}] ∧ getPkt (stagedOne cap0) ({} : Copy).pkt = some sentPkt ∧
    sentPkt.trap = none ∧ (stagedOne base).hbm.capture = 0 ∧ (stagedOne cap0).hbm.capture ≠ 0 ∧ (stagedOne cap0).hbm.full = false ∧
    pget (stagedOne cap0) (pidCapRuleTrigger 0) ≠ 1 ∧
    findPlace (captureBytes (stagedOne cap0)) (guarded (stagedOne cap0)) (recordBytes (stagedOne cap0) sentPkt {} (copyBytes (stagedOne cap0) {}) false).length
      cap0.hbm.head (captureBytes cap0) [] 16 = (some 0, []) ∧
    findPlace (captureBytes cap0) (guarded cap0) 64 (captureBytes cap0 - 64) (captureBytes cap0) [] 16 = (some (captureBytes cap0 - 64), []) := by
  decide +kernel
def trig0 : State := pset base (pidCapTrigInMode 3) 1
theorem meets_CaptureHbmAndLog_triggers : (getWin (winAt 3 wOpen) 3).st = wOpen ∧ (getWin (winAt 3 wOpen) 3).untilT ≤ now (winAt 3 wOpen) ∧
    (getWin (winAt 3 wFrozen) 3).st ≠ wOpen ∧ pget trig0 (pidCapTrigInMode 3) = 1 ∧ pget trig0 (pidCapTrigInMode 0) ≠ 1 ∧
    sget none trig0.hbm.trigAt 3 = none ∧ sget none ([(3, some 0)] : Sparse (Option Nat)) 3 = some 0 ∧
    trig0.clk ≤ 0 + pget trig0 (pidCapTrigInHoldoffUs 3) * 1250 ∧ sget none base.hbm.trigOut 1 = none ∧ base.clk < 1 ∧ 0 ≤ base.clk := by decide +kernel
def pairOpen (p : Pair) : State := { base with flt := { base.flt with pairs := [(0x85 * 32 + 0x13, some p)] } }
def entryOf (n : Nat) : State := { base with clk := 5, flt := { base.flt with logQ := [{ cls := clsCritical }], logCount := n } }
theorem meets_CaptureHbmAndLog_log : (sourceOk 0x85 && (typeClasses 0x13).contains clsCritical) = true ∧ (sourceOk 0x11 && (typeClasses 0x13).contains 3) = false ∧
    (sourceOk 0x88 && (typeClasses 0x1C).contains clsFatal) = true ∧ getPair base 0x85 0x13 = none ∧
    getPair (pairOpen { openWin := true }) 0x85 0x13 = some { openWin := true } ∧ base.clk < ({ closeAt := 1 } : Pair).closeAt ∧
    base.flt.logQ = [] ∧ (entryOf 0).flt.logQ = [{ cls := clsCritical }] ∧ clsCritical ≠ clsInfo ∧ (entryOf 9999).flt.logCount < 10000 ∧
    (entryOf 10000).clk < (entryOf 10000).flt.logSince + 1250000000 ∧ 10000 ≤ (entryOf 10000).flt.logCount ∧
    0 + 1250000000 ≤ ({ base with clk := 1250000000 } : State).clk := by decide +kernel
def healthy0 : State := { base with hbm := { base.hbm with healthy := 0x8000 }, clk := 2 ^ 40 }
theorem meets_CaptureHbmAndLog_hbm : healthy0.hbm.healthy.getLsbD 15 = true ∧ pget (pset healthy0 pidHbmSrIdleUs 1) pidHbmSrIdleUs ≠ 0 ∧
    sget 0 healthy0.hbm.lastReq 15 + 1 * 1250 ≤ healthy0.clk ∧ base.hbm.healthy.getLsbD 15 = false ∧ stackLines base = 0 ∧
    stackLines healthy0 ≠ 0 ∧ scrubDue healthy0 = true ∧ scrubDue { healthy0 with hbm := { healthy0.hbm with scrubNext := 2 ^ 50 } } = false ∧
    HbmErr.corrected ≠ .uncorrectable ∧ (State.reset.fw.resetN && sourceOk 0x85 && (typeClasses 0x13).contains clsCritical) = false ∧
    (base.fw.resetN && sourceOk 0x85 && (typeClasses 0x13).contains clsCritical) = true := by decide +kernel
theorem test_logWrite : (next (exec .logWrite (entryOf 9999))).store.logHead = 1 ∧ (next (exec .logWrite (entryOf 10000))).flt.logLoss = true := by
  decide +kernel
theorem test_faultReport : (next (exec (.faultReport 0x88 0x1C 4 0 0 0 0) base)).flt.fatal = true := by decide +kernel

/-! ### Tables, editions, time -/

def learned (e : LearnEv) : State := { base with clk := 1, datum := { base.datum with units := 2 ^ 62 }, tbl := { base.tbl with learnQ := [e] } }
def key0 : List Byte := [0, 0, 2, 0, 0, 0, 0, 1]
theorem meets_TableMaintenance_learn : base.tbl.learnQ = [] ∧ evDue (learned {}) {} = true ∧ evDue { learned {} with datum := base.datum } {} = false ∧
    (524287 : Nat) < 524288 ∧ (List.replicate 12 (0 : Byte)).length = 12 ∧ (63 : Nat) < 64 ∧ key0.length = 8 ∧ base.tbl.bad = [] ∧
    pget base pidTblLearnMode = 0 ∧ searchTab base macPart 0 key0 = .miss ∧ searchTab base macPart 1 key0 = .miss ∧
    (freeWay base 0 key0).isSome = true ∧ (freeWay base 1 key0).isSome = true := by decide +kernel
def peer0 : State := { base with clk := 2 ^ 40, tbl := { base.tbl with peerRecs := [List.replicate 14 0] } }
theorem meets_TableMaintenance_clocks : peerDue base = false ∧ peerDue peer0 = true ∧ (writeFrame peer0 34 65 (peerFrame peer0 (peer0.tbl.peerRecs.take 64))).isSome = true ∧
    base.clk < ({ base.tbl with ageNext := 1, dampNext := 1 } : Tables).ageNext ∧ base.tbl.ageNext ≤ base.clk ∧ base.tbl.dampNext ≤ base.clk ∧
    base.fw.bootStep ≥ 8 ∧ State.reset.fw.bootStep < 8 ∧
    base.tbl.macSweepAt + (base.tbl.macSweep * (pget base pidTblMacSweepMs * 1250000) / 524288 : Nat) ≤ (base.clk : Int) ∧
    entryBad base 0 12 = false ∧ (macGet base 0 0).is mValid = false := by decide +kernel
def strMem (b : Byte) : State := { base with tbl := { base.tbl with mem := [(streamBase 0 + 60, b)] } }
def badAt (a : Nat) : State := { base with tbl := { base.tbl with bad := [(a / 4, true)] } }
theorem meets_TableMaintenance_stream : entryBad base (streamBase 1) 64 = false ∧ (strGet base 0 0).is sValid = false ∧
    sget none base.tbl.slots 255 = none ∧ sget none locked0.tbl.slots 255 = some slot0 ∧
    base.clk ≤ slot0.since + pget base pidTblWindowLockTimeoutMs * 1250000 ∧
    slot0.since + pget base pidTblWindowLockTimeoutMs * 1250000 < ({ base with clk := 2 ^ 50 } : State).clk ∧
    regionOf (macBase 1 + 12 * 524287) = .mac 1 ∧ entryBad base (macBase 1) 12 = false ∧ regionOf (streamBase 1 + 64 * 65535) = .stream 1 := by
  decide +kernel
def live1 (e : Live) : State := { base with ed := { live := [(3, some e)], newest := some 3 } }
theorem meets_EditionAndUpdateEvents_retire : liveEd base 3 = none ∧ liveEd (live1 { superAt := some 0 }) 3 = some { superAt := some 0 } ∧
    tagCount (live1 { superAt := some 0 }) 0 3 = 0 ∧ tagCount (live1 { superAt := some 0 }) 1 3 = 0 ∧ ({ superAt := some 0 } : Live).stuck ≠ 2 ∧
    (live1 {}).clk < 0 + 2 * retireTime (live1 { superAt := some 0 }) { superAt := some 0 } ∧
    0 + 2 * retireTime (live1 { superAt := some 0 }) { superAt := some 0 } ≤ 2 ^ 60 ∧ ({ stuck := 1 } : Live).stuck = 1 ∧
    (live1 {}).clk < ({ stuck := 1 } : Live).stuckAt + retireTime (live1 {}) { stuck := 1 } := by decide +kernel
theorem meets_EditionAndUpdateEvents_commit : base.ed.wait = none ∧ waiting.ed.wait = some { hdr := svc, cand := {}, deadline := 0 } ∧
    (raiseOf waiting (minimaOf waiting [{}]) : Int) ≤ sharedFolios waiting ∧
    ({ base.buf with claim := 1 } : Buffer).claim ≠ 0 ∧ base.buf.claimUntil ≤ base.clk ∧ base.buf.claim = 0 := by decide +kernel
/-- One owner whose floor is not yet met while no folio is shared. -/
def shortOf (d : Nat) : State :=
  { waiting with ed := { wait := some { hdr := svc, cand := {}, deadline := d } }, buf := { base.buf with waiting := 0, minima := [(0, 400000)] } }
theorem meets_EditionAndUpdateEvents_short : sharedFolios (shortOf 0) < (raiseOf (shortOf 0) (minimaOf (shortOf 0) [{}]) : Int) ∧
    (shortOf 1).clk < 1 := by decide +kernel
def trial0 (st : Fw) : State := { base with fw := st }
theorem meets_EditionAndUpdateEvents_update : (trial0 { base.fw with pause := true }).fw.pause = true ∧ boundedLeft base = false ∧ base.fw.pause = false ∧
    boundedLeft { base with pkts := [(0, some (({} : Packet).put fClass 1))] } = true ∧
    base.fw.trialAt + largestBound base < ({ base with clk := 1 } : State).clk ∧ onTrial base = false ∧ onTrial (trial0 { base.fw with trial := true }) = true ∧
    base.clk ≤ windowEnd base ∧ windowEnd base ≤ 2 ^ 60 ∧ base.flt.fatal = false ∧ base.fw.stepping = false ∧
    (trial0 { base.fw with stepping := true }).fw.stepping = true ∧ base.fw.overwrite = false ∧ 0 < fwImgBlocks 1 ∧ 0 + 1 = fwImgBlocks 262144 ∧
    0 + 1 ≠ fwImgBlocks 262145 := by decide +kernel
theorem test_rollbackStep : (next (exec .rollbackStep (trial0 { base.fw with stepping := true }))).fuses.rollback = 1 ∧
    (next (exec .rollbackStep base)).fuses.rollback = 0 := by decide +kernel
def timed (d : Datum) : State := { base with datum := d }
def slew0 : Slew := { rate := 1, offset := 65536 }
theorem meets_TimeEvents : base.datum.stepWin = none ∧ (timed { stepWin := some { s := some 0 } }).datum.stepWin = some { s := some 0 } ∧
    base.clk < 0 + residencyInterval base 0 ∧ 0 + residencyInterval base 0 ≤ 2 ^ 60 ∧ base.datum.slew = none ∧ slewActive slew0 = true ∧
    slewActive {} = false ∧ offsetTarget base 0 = some 0 ∧ offsetTarget base (-1) = none ∧
    pget base pidTimeStepThresholdNs * 65536 ≤ (pget base pidTimeStepThresholdNs * 65536 : Int).natAbs ∧
    (offsetTarget base (pget base pidTimeStepThresholdNs * 65536)).isSome = true ∧ (pget base pidTimeStepThresholdNs : Int) ≠ 0 ∧
    base.datum.ppsInAt = none ∧ (timed { ppsInAt := some 0 }).datum.ppsInAt = some 0 ∧ base.clk ≤ 0 + ppsLimit ∧
    0 + ppsLimit < ({ base with clk := ppsLimit + 1 } : State).clk ∧ ppsOutOn base = false ∧ ppsOutOn (pset base pidTimePpsOutEnable 1) = true ∧
    base.datum.ppsOutUntil = none ∧ (timed { ppsOutUntil := some 0 }).datum.ppsOutUntil = some 0 ∧ base.datum.oscHold = true ∧
    (timed { oscHold := false }).datum.oscHold = false ∧ sget none base.datum.holdoff 1 = none ∧
    sget none (timed { holdoff := [(1, some 0)] }).datum.holdoff 1 = some 0 ∧ (timed { st := 1 }).datum.st = 1 ∧ (timed { st := 1 }).datum.src = 0 ∧
    base.datum.st ≠ 1 := by decide +kernel
theorem meets_TimeEvents_pps : (ppsPhase (timed { freq := 5859375 })).1 < timeIncrement { freq := 5859375 } ∧ 0 ≤ (ppsPhase (timed { freq := 5859375 })).2 ∧
    (timed { freq := 5859375 }).datum.ppsOutSec ≠ some (ppsPhase (timed { freq := 5859375 })).2.toNat := by decide +kernel
/-- With the largest slew allowance no frequency to which the servo steers counts as a step. -/
def steering : State := pset base pidBoundSlewAllowance 500
theorem meets_TimeEvents_servo : bestSource base true false = some 0 ∧ bestSource base false true = some 1 ∧ bestSource base false false = none ∧
    steering.datum.stepWin = none ∧ offsetTarget steering (2 ^ 40) = some (2 ^ 56) ∧
    pget steering pidTimeStepThresholdNs * 65536 ≤ (2 ^ 40 : Int).natAbs ∧ (1 : Int).natAbs < pget steering pidTimeStepThresholdNs * 65536 ∧
    (offsetTarget steering 1).isSome = true ∧ calDue base 31 = true := by decide +kernel
theorem withinMax_abs (x : Int) : (withinMax x).natAbs ≤ 500 * 1000 * 65536 := by
  have h : maxOffset = 32768000000 := by decide
  unfold withinMax
  rw [h]
  by_cases a : (32768000000 : Int) < x
  · rw [if_pos a]; decide
  · rw [if_neg a]
    by_cases b : x < -32768000000
    · rw [if_pos b]; decide
    · rw [if_neg b]; omega
theorem meets_TimeEvents_servo_step : (servoFreq steering).datum.stepWin = none := by
  have h : rateSum steering.datum = 0 := by decide +kernel
  have z : steering.datum.freq = 0 := rfl
  have a : pget { steering with freeCtr := steering.freeCtr + 1 } pidBoundSlewAllowance = 500 := by decide +kernel
  have b := withinMax_abs (withinMax (toSigned 64 (Config.servoSteer steering.freeCtr).toNat))
  simp only [servoFreq, changeFreq, freqBeside, settleBounds_datum, h, z, a, Int.add_zero, Int.sub_zero]
  rw [if_neg]
  · rfl
  · simp only [Bool.and_eq_true, decide_eq_true_eq]
    exact fun x => absurd x.1 (by omega)
theorem test_slewEnd : (next (exec .slewEnd (timed { slew := some {} }))).datum.slew = none ∧
    (next (exec .slewEnd (timed { slew := some slew0 }))).datum.slew = some slew0 := by decide +kernel

/-! ### The whole machine -/

theorem meets_StepTakesFront : base.pending = [] := by decide +kernel
theorem test_step : goes (step { base with pending := [.spill, .spill] }) = true ∧ (next (step { base with pending := [.spill, .parse .west] })).pending.length = 1 := by
  decide +kernel
theorem meets_TableMemoryCanonical : Memory.wf (strMem 1).tbl.mem = true ∧ goes (step { strMem 1 with pending := [.spill] }) = true := by decide +kernel
theorem meets_RollbackNeverLowered : goes (step { trial0 { base.fw with stepping := true } with pending := [.rollbackStep] }) = true := by decide +kernel

end Sys2Proof.Tests
end

section
/-! Proofs about the command interface: the checks of R408, and PARAM_GET and PARAM_SET (R411). -/

namespace Sys2Proof.Machine

/-! ### The checks of R408 -/

section
variable {s : State} {h : CmdHdr} {op : Nat} {flags : BitVec 16} {body : State → Answer}

/-- A device that is BUSY performs no command (R423). -/
theorem hostCmd_busy (busy : accepting s = false) : hostCmd s h op flags body = .next s := by
  simp [hostCmd, busy]

/-- Step 1 of R408. -/
theorem hostCmd_reserved (ready : accepting s = true) (rsvd : h.rsvd ≠ 0) :
    hostCmd s h op flags body = .next (sendReply s h op stBadParam []) := by
  simp_all [hostCmd]

/-- Step 3 of R408: the refusal is counted. -/
theorem hostCmd_denied (ready : accepting s = true) (rsvd : h.rsvd = 0) (denied : permitted s h.iface op = false) :
    hostCmd s h op flags body = .next (sendReply (pinc s pidHostDenied) h op stNoPermission []) := by
  simp [hostCmd, ready, rsvd, denied]

/-- Step 4 of R408: recovery refuses the groups 0x02 to 0x07 (R467). -/
theorem hostCmd_recovery (ready : accepting s = true) (rsvd : h.rsvd = 0) (perm : permitted s h.iface op = true)
    (recovery : s.fw.recovery = true) (low : 2 ≤ op / 256) (high : op / 256 ≤ 7) :
    hostCmd s h op flags body = .next (sendReply s h op stNotReady []) := by
  simp [hostCmd, ready, rsvd, perm, recovery, low, high]

/-- Step 5 of R408, for the flags. -/
theorem hostCmd_badFlags (ready : accepting s = true) (rsvd : h.rsvd = 0) (perm : permitted s h.iface op = true)
    (normal : (s.fw.recovery && 2 ≤ op / 256 && op / 256 ≤ 7) = false) (flag : h.flags &&& ~~~ flags ≠ 0) :
    hostCmd s h op flags body = .next (sendReply s h op stBadParam []) := by
  simp_all [hostCmd]

end

/-- Each of the 46 host commands is a body behind the checks of `hostCmd`, under its opcode and flags (R410). -/
theorem exec_eq_hostCmd {i : Instr} {h : CmdHdr} {op : Nat} {flags : BitVec 16} (host : opOf i = some (h, op, flags)) :
    ∃ body, ∀ s, exec i s = hostCmd s h op flags body := by
  unfold opOf at host
  split at host <;> cases host <;> exact ⟨_, fun _ => rfl⟩

/-- Settles O31: every host command is a `hostCmd` (`exec_eq_hostCmd`), whose checks come one after the other. -/
theorem hostChecks : Obligations.HostChecks := by
  refine ⟨fun i s h op flags host => ?_, fun s h op st payload => ⟨sendReply_done s h op st payload, rfl⟩⟩
  obtain ⟨body, run⟩ := exec_eq_hostCmd host
  simp only [run]
  exact ⟨hostCmd_busy, hostCmd_reserved, hostCmd_denied, hostCmd_recovery, hostCmd_badFlags⟩

/-! ### PARAM_GET (R411) -/

/-- An unknown ID fails with ST_BAD_PARAM and has no value. -/
theorem getOne_unknown {id : Nat} (unknown : pinfo id = none) (s : State) : getOne s id = (s, stBadParam, []) := by
  simp [getOne, unknown]

/-- A parameter that is neither an edition's nor clear-on-read is read without effect. -/
theorem getOne_plain {id : Nat} {p : PSpec} {ix : List Nat} (known : pinfo id = some (p, ix)) (ed : p.scope ≠ .ed) (rc : p.scope ≠ .rc)
    (s : State) : getOne s id = (s, stOk, paramBytes s id p ix) := by
  cases scope : p.scope with
  | ed => exact absurd scope ed
  | rc => exact absurd scope rc
  | _ => simp [getOne, known, scope]

/-- A read of a clear-on-read parameter gives its value and clears it. -/
theorem getOne_clears {id : Nat} {p : PSpec} {ix : List Nat} (known : pinfo id = some (p, ix)) (rc : p.scope = .rc) (s : State) :
    getOne s id = (clearParam s id ix, stOk, paramBytes s id p ix) := by
  simp [getOne, known, rc]

/-- An entry that is read successfully: the entries behind it give the state and the command's status. -/
theorem getAll_cons_ok {s u : State} {id : Nat} {v : List Byte} (one : getOne s id = (u, stOk, v)) (rest : List Nat) :
    getAll s (id :: rest) = ((getAll u rest).1, (getAll u rest).2.1, getEntry id stOk v ++ (getAll u rest).2.2) := by
  simp [getAll, one]

/-- The first failed entry gives the command's status. -/
theorem getAll_cons_failed {s u : State} {id st : Nat} {v : List Byte} (one : getOne s id = (u, st, v)) (failed : st ≠ stOk)
    (rest : List Nat) : (getAll s (id :: rest)).2.1 = st := by
  simp [getAll, one, failed]

/-- An accepted PARAM_GET of 1 to 64 IDs reads them all in order. -/
theorem exec_paramGet_accepted {s : State} {h : CmdHdr} {ps : List Byte} (accepted : Accepted s h 0x0200 0) (whole : ps.length % 4 = 0)
    (least : 4 ≤ ps.length) (most : ps.length ≤ 256) :
    let r := getAll s ((List.range (ps.length / 4)).map fun i => leAt ps (4 * i) 4)
    exec (.paramGet h ps) s = .next (sendReply r.1 h 0x0200 r.2.1 r.2.2) := by
  have some_id : ps.length / 4 ≠ 0 := by omega
  have not_over : ¬ 64 < ps.length / 4 := by omega
  change execParamGet h ps s = _
  rw [execParamGet, hostCmd_accepted _ _ _ _ _ accepted]
  simp [whole, some_id, not_over, finish]

/-! ### PARAM_SET (R411) -/

section
variable {set1 : State → Nat → List Byte → Answer} {v u : State} {e : Nat × List Byte}

/-- An entry that is applied counts, and the next one follows. -/
theorem applyEntries_cons_applied (one : set1 v e.1 e.2 = (u, none)) (rest : List (Nat × List Byte)) (n : Nat) :
    applyEntries set1 v (e :: rest) n = applyEntries set1 u rest (n + 1) := by
  simp [applyEntries, one]

/-- An entry that fails ends the command; the entries before it stand. -/
theorem applyEntries_cons_failed {st : Nat} {payload : List Byte} (one : set1 v e.1 e.2 = (u, some (st, payload))) (failed : st ≠ stOk)
    (rest : List (Nat × List Byte)) (n : Nat) : applyEntries set1 v (e :: rest) n = (u, n, st) := by
  simp [applyEntries, one, failed]

end

/-- The reply of a command whose entries all succeeded. -/
theorem setReply_allApplied (n : Nat) : setReply n 0xFFFF = leBytes 2 n ++ [0xFF, 0xFF] := rfl

/-- An accepted PARAM_SET of 1 to 64 entries applies them in order and names the first failed one, or 0xFFFF. -/
theorem exec_paramSet_accepted {s : State} {h : CmdHdr} {ps : List Byte} {es : List (Nat × List Byte)} (accepted : Accepted s h 0x0201 0)
    (entries : setEntries ps ps.length = some es) (least : 1 ≤ es.length) (most : es.length ≤ 64) :
    let r := applyEntries setOne s es 0
    exec (.paramSet h ps) s = .next (sendReply r.1 h 0x0201 r.2.2 (setReply r.2.1 (if r.2.2 = stOk then 0xFFFF else r.2.1))) := by
  have some_entry : es.isEmpty = false := List.isEmpty_eq_false_iff.mpr (List.ne_nil_of_length_pos least)
  change execParamSet h ps s = _
  rw [execParamSet, hostCmd_accepted _ _ _ _ _ accepted]
  simp [setCommand, entries, some_entry, Nat.not_lt.mpr most, finish]

/-- A parameter that is no device parameter is not set (R89, R411). -/
theorem setOne_notDevice {id : Nat} {p : PSpec} {ix : List Nat} (known : pinfo id = some (p, ix)) (scope : p.scope ≠ .dev) (s : State)
    (bs : List Byte) : setOne s id bs = refuse s stBadParam := by
  simp [setOne, known, scope]

/-- A device parameter is set when its form, its neighbours, the device's activity and the bounds all allow it (R101, R411). -/
theorem setOne_applied {s : State} {id : Nat} {bs : List Byte} {p : PSpec} {ix : List Nat} (known : pinfo id = some (p, ix))
    (scope : p.scope = .dev) (form : deviceForm id p ix bs = true) (together : togetherOk (applyParam s id ix (leNat bs)) id ix = true)
    (idle : settingBusy s id ix = false) (bounds : settingBreaks s (applyParam s id ix (leNat bs)) id (leNat bs) = false) :
    setOne s id bs = (applyParam s id ix (leNat bs), none) := by
  simp [setOne, known, scope, form, together, idle, bounds]

/-- Settles O33, from what one entry of PARAM_GET or PARAM_SET comes to and how the entries behind it follow. -/
theorem parameterCommands : Obligations.ParameterCommands := by
  intro s h ps
  refine ⟨exec_paramGet_accepted, ?plainRead, ?unknownRead, ?clearingRead, ?set, ?entries, ?applied, ?otherScope⟩
  case plainRead =>
    intro id rest p ix known ed rc
    exact getAll_cons_ok (getOne_plain known ed rc s) rest
  case unknownRead =>
    intro id rest unknown
    exact getAll_cons_failed (getOne_unknown unknown s) (by decide) rest
  case clearingRead =>
    intro id rest p ix known rc
    rw [getAll_cons_ok (getOne_clears known rc s) rest]
  case set =>
    intro accepted es entries least most r
    have run := exec_paramSet_accepted accepted entries least most
    constructor
    · intro ok
      simpa [r, ok, Answers, setReply_allApplied] using run
    · intro failed
      simpa [r, failed, setReply] using run
  case entries =>
    intro v u e rest n st payload
    exact ⟨rfl, fun one => applyEntries_cons_applied one rest n, fun one failed => applyEntries_cons_failed one failed rest n⟩
  case applied =>
    intro id bs p ix known scope form together idle bounds
    exact setOne_applied known scope form together idle bounds
  case otherScope =>
    intro id bs p ix known scope
    exact setOne_notDevice known scope s bs

end Sys2Proof.Machine
end

section
/-! Proofs about a thread's stores: what each range of R144 does with the bytes of a store (R144 to R147, R276). -/

namespace Sys2Proof.Machine

/-! ### Bytes of a number -/

@[simp] theorem leBytes_length (w v : Nat) : (leBytes w v).length = w := by
  induction w generalizing v with
  | zero => rfl
  | succ w ih => simp [leBytes, ih]

@[simp] theorem beBytes_length (w v : Nat) : (beBytes w v).length = w := by simp [beBytes]

/-- Byte i of a little-endian number, counted from the lowest (R8). -/
theorem leBytes_getD {w i : Nat} (inside : i < w) (v : Nat) : (leBytes w v).getD i 0 = BitVec.ofNat 8 (v / 2 ^ (8 * i)) := by
  induction w generalizing v i with
  | zero => omega
  | succ w ih =>
    cases i with
    | zero => simp [leBytes]
    | succ i =>
      have shifted : v / 256 / 2 ^ (8 * i) = v / 2 ^ (8 * (i + 1)) := by
        rw [Nat.div_div_eq_div_mul, show 8 * (i + 1) = 8 + 8 * i by omega, Nat.pow_add]
      have rest := ih (i := i) (by omega) (v / 256)
      rw [shifted] at rest
      simpa [leBytes] using rest

/-- Byte i of a big-endian number, counted from the highest (R8). -/
theorem beBytes_getD {w i : Nat} (inside : i < w) (v : Nat) :
    (beBytes w v).getD i 0 = BitVec.ofNat 8 (v / 2 ^ (8 * (w - 1 - i))) := by
  rw [← leBytes_getD (w := w) (by omega), beBytes, List.getD_eq_getElem?_getD, List.getD_eq_getElem?_getD,
    List.getElem?_reverse (by simpa using inside), leBytes_length]

/-- The bytes of a number stand for it, modulo what they hold. -/
theorem leNat_leBytes (w v : Nat) : leNat (leBytes w v) = v % 2 ^ (8 * w) := by
  induction w generalizing v with
  | zero => simp [leBytes, leNat, Nat.mod_one]
  | succ w ih =>
    rw [leBytes, leNat, ih, BitVec.toNat_ofNat, show 8 * (w + 1) = 8 + 8 * w by omega, Nat.pow_add, Nat.mod_mul]

/-- A range of a byte map reads back what was written to it, and every byte outside it reads as before. -/
theorem bget_ssetRange (m : Sparse Byte) (place x : Nat) (bs : List Byte) : bget (ssetRange 0 m place bs) x =
    if place ≤ x ∧ x < place + bs.length then bs.getD (x - place) 0 else bget m x := sget_ssetRange 0 bs m place x

/-! ### What a store answers, range by range (R144) -/

/-- Two updates of a station that agree on its present state are the same. -/
theorem modStn_congr {s : State} {k : Nat} {f g : Station → Station} (same : f (getStn s k) = g (getStn s k)) :
    modStn s k f = modStn s k g :=
  congrArg (fun st => { s with stn := sset {} s.stn k st }) same

/-- Two updates of a thread that agree on its present context are the same. -/
theorem modThr_congr {s : State} {k l : Nat} {f g : Thread → Thread} (same : f (getThr s k l) = g (getThr s k l)) :
    modThr s k l f = modThr s k l g :=
  modStn_congr (congrArg (fun th => { getStn s k with threads := sset {} (getStn s k).threads l th }) same)

section
variable {s : State} {k l a w : Nat} (ok : accessOk s k l a w = true) (v : Nat)
include ok

theorem tstore_stationMemory (range : rangeOf a = .scratch ∨ rangeOf a = .flow ∨ rangeOf a = .shared) :
    tstore s k l a w v = .ok (modStn s k fun st =>
      { st with mem := ssetRange 0 (getStn s k).mem (memPlace (getThr s k l) l a) (leBytes w (v % 2 ^ (8 * w))) }) := by
  have update : tstore s k l a w v = .ok (modStn s k fun st =>
      { st with mem := ssetRange 0 st.mem (memPlace (getThr s k l) l a) (leBytes w (v % 2 ^ (8 * w))) }) := by
    rcases range with h | h | h <;> simp [tstore, ok, h, valueBytes]
  rw [update]
  exact congrArg Except.ok (modStn_congr rfl)

theorem tstore_head (range : rangeOf a = .head) :
    tstore s k l a w v = .ok (modThr s k l fun th =>
      { th with head := ssetRange 0 (getThr s k l).head a (beBytes w (v % 2 ^ (8 * w)))
                stored := noteStored (getThr s k l).stored a w }) := by
  simp only [tstore, ok, range, valueBytes, Bool.not_true, Bool.false_eq_true, if_false]
  exact congrArg Except.ok (modThr_congr rfl)

theorem tstore_desc (range : rangeOf a = .desc) (writable : ∀ i, i < w → descByteRw (a + i - 0x120) = true) :
    tstore s k l a w v = .ok (modThr s k l fun th =>
      { th with desc := descStore (getThr s k l).desc (a - 0x120) (leBytes w (v % 2 ^ (8 * w)))
                stored := noteStored (getThr s k l).stored a w }) := by
  have all : ((List.range w).all fun i => descByteRw (a + i - 0x120)) = true := by simpa using writable
  simp only [tstore, ok, range, valueBytes, all, Bool.not_true, Bool.false_eq_true, if_false, if_true]
  exact congrArg Except.ok (modThr_congr rfl)

theorem tstore_descReadOnly (range : rangeOf a = .desc) (ro : ∃ i, i < w ∧ descByteRw (a + i - 0x120) = false) :
    tstore s k l a w v = .error (trapAddress a) := by
  have notAll : ((List.range w).all fun i => descByteRw (a + i - 0x120)) = false := by simpa using ro
  simp [tstore, ok, range, notAll]

theorem tstore_aperture (range : rangeOf a = .aperture) :
    tstore s k l a w v = if regionOf (apertureAddr (getThr s k l) a) = .general
      then .ok (tblWrite s (apertureAddr (getThr s k l) a) (leBytes w (v % 2 ^ (8 * w)))) else .error (trapAddress a) := by
  simp [tstore, ok, range, storeAperture, valueBytes]

theorem tstore_readOnlyRange (range : rangeOf a = .tail ∨ rangeOf a = .metadata ∨ rangeOf a = .result ∨ rangeOf a = .chanWin) :
    tstore s k l a w v = .error (trapAddress a) := by
  rcases range with h | h | h | h <;> simp [tstore, ok, h]

/-- The aperture takes whole words only (R145). -/
theorem accessOk_aperture (range : rangeOf a = .aperture) : w = 4 ∧ a % 4 = 0 := by
  simp [accessOk, range, alignedFor] at ok
  omega

end

/-! ### The bits of a store to the descriptor (R146) -/

/-- The mask of w bytes from byte off on. -/
theorem byteMask_getLsbD (off w : Nat) {i : Nat} (bit : i < 512) :
    (BitVec.ofNat 512 ((2 ^ (8 * w) - 1) * 2 ^ (8 * off))).getLsbD i = decide (off ≤ i / 8 ∧ i / 8 < off + w) := by
  rw [BitVec.getLsbD_ofNat, Nat.testBit_mul_two_pow, Nat.testBit_two_pow_sub_one, decide_eq_true bit, Bool.true_and, ← Bool.decide_and,
    decide_eq_decide]
  omega

/-- Bytes placed from byte off on: bit i lies in byte i / 8. -/
theorem placedBytes_getLsbD {off w i : Nat} (v : Nat) (bit : i < 512) (first : off ≤ i / 8) (last : i / 8 < off + w) :
    (BitVec.ofNat 512 (leNat (leBytes w v) * 2 ^ (8 * off))).getLsbD i =
      (BitVec.ofNat 8 (v / 2 ^ (8 * (i / 8 - off)))).getLsbD (i % 8) := by
  have place : i - 8 * off = i % 8 + 8 * (i / 8 - off) := by omega
  rw [BitVec.getLsbD_ofNat, BitVec.getLsbD_ofNat, Nat.testBit_mul_two_pow, leNat_leBytes, Nat.testBit_mod_two_pow, place,
    ← Nat.testBit_div_two_pow]
  simp only [bit, show i % 8 < 8 by omega, show 8 * off ≤ i by omega, show i % 8 + 8 * (i / 8 - off) < 8 * w by omega, decide_true,
    Bool.true_and]

/-- A store to the descriptor changes the RW bits of its bytes. -/
theorem descStore_getLsbD (d : BitVec 512) (off w v : Nat) {i : Nat} (bit : i < 512) :
    (descStore d off (leBytes w v)).getLsbD i =
      if descRw.getLsbD i ∧ off ≤ i / 8 ∧ i / 8 < off + w then (BitVec.ofNat 8 (v / 2 ^ (8 * (i / 8 - off)))).getLsbD (i % 8)
      else d.getLsbD i := by
  simp only [descStore, leBytes_length, BitVec.getLsbD_or, BitVec.getLsbD_and, BitVec.getLsbD_not, byteMask_getLsbD _ _ bit, bit,
    decide_true, Bool.true_and]
  by_cases within : off ≤ i / 8 ∧ i / 8 < off + w
  · rw [placedBytes_getLsbD v bit within.1 within.2]
    cases descRw.getLsbD i <;> simp [within]
  · simp [within]

/-! ### Table memory through the aperture (R276) -/

theorem regionOf_eq_general {a : Nat} : regionOf a = .general ↔ 0x2C00000 ≤ a ∧ a < 0x2F00000 := by
  grind [regionOf]

/-- What a byte of table memory reads after a write within the general region: the byte written, or what it read. -/
theorem tblByte_tblWrite {s : State} {a : Nat} {bs : List Byte}
    (general : ∀ x, a ≤ x → x < a + bs.length → regionOf x = .general) (x : Nat) :
    tblByte (tblWrite s a bs) x = if a ≤ x ∧ x < a + bs.length then bs.getD (x - a) 0 else tblByte s x := by
  by_cases written : a ≤ x ∧ x < a + bs.length
  · simp only [tblByte, general x written.1 written.2, bget_tblWrite, written, and_self, if_true]
  · have kept : bget (tblWrite s a bs).tbl.mem x = bget s.tbl.mem x := by rw [bget_tblWrite, if_neg written]
    rw [if_neg written]
    unfold tblByte
    rw [kept]
    rfl

/-- A word of the general region lies in it whole. -/
theorem regionOf_general_word {s : State} {k l a w : Nat} (ok : accessOk s k l a w = true) (range : rangeOf a = .aperture)
    (general : regionOf (apertureAddr (getThr s k l) a) = .general) (x : Nat) (first : apertureAddr (getThr s k l) a ≤ x)
    (last : x < apertureAddr (getThr s k l) a + 4) : regionOf x = .general := by
  obtain ⟨-, aligned⟩ := accessOk_aperture ok range
  rw [regionOf_eq_general] at general ⊢
  unfold apertureAddr at *
  omega

/-- Settles O17: each range's store is an equation of `tstore`, and its bytes are read back through `sget_ssetRange`. -/
theorem storeEffects : Obligations.StoreEffects := by
  intro s k l a w v ok byte
  refine ⟨?stationMemory, ?head, ?descriptor, tstore_descReadOnly ok v, ?aperture, ?otherRegion, tstore_readOnlyRange ok v⟩
  case stationMemory =>
    intro range
    refine ⟨_, tstore_stationMemory ok v range, fun x => ?_⟩
    rw [bget_ssetRange, leBytes_length]
    exact if_ctx_congr Iff.rfl (fun within => leBytes_getD (by omega) _) fun _ => rfl
  case head =>
    intro range
    refine ⟨_, tstore_head ok v range, fun x => ?_⟩
    rw [bget_ssetRange, beBytes_length]
    exact if_ctx_congr Iff.rfl (fun within => beBytes_getD (by omega) _) fun _ => rfl
  case descriptor =>
    intro range writable
    exact ⟨_, tstore_desc ok v range writable, fun i bit => descStore_getLsbD _ _ _ _ bit⟩
  case aperture =>
    intro range general
    refine ⟨_, by rw [tstore_aperture ok v range, if_pos general], rfl, fun x => ?_⟩
    obtain ⟨rfl, -⟩ := accessOk_aperture ok range
    rw [tblByte_tblWrite (by simpa using regionOf_general_word ok range general), leBytes_length]
    exact if_ctx_congr Iff.rfl (fun within => leBytes_getD (by omega) _) fun _ => rfl
  case otherRegion =>
    intro range other
    rw [tstore_aperture ok v range, if_neg other]

end Sys2Proof.Machine
end

section
/-! Proofs about the entry of packets: the writing of a frame into folios (R315, R316) and the PTP messages of the Registrar (R356, R359). -/

namespace Sys2Proof.Machine

/-! ### A frame's folios (R315, R316) -/

/-- Taking a folio changes the buffer only. -/
theorem takeFolio_eq {s t : State} {writer acct i : Nat} {data : List Byte} (taken : takeFolio s writer acct data = some (t, i)) :
    t = { s with buf := t.buf } := by
  unfold takeFolio at taken
  split at taken
  · cases taken
  · split at taken
    · cases taken
    · cases taken
      rfl

theorem writePieces_eq {s t : State} {writer acct : Nat} {ds : List (List Byte)} {done fs : List Nat}
    (written : writePieces s writer acct ds done = some (t, fs)) : t = { s with buf := t.buf } := by
  induction ds generalizing s done with
  | nil => cases written; rfl
  | cons d rest ih =>
    rw [writePieces] at written
    split at written
    case h_1 u i taken => rw [ih written, takeFolio_eq taken]
    case h_2 => cases written

theorem linkChain_eq (s : State) (fs : List Nat) : linkChain s fs = { s with buf := (linkChain s fs).buf } := by
  induction fs generalizing s with
  | nil => rfl
  | cons i rest ih =>
    cases rest with
    | nil => rfl
    | cons j rest =>
      rw [linkChain]
      split
      · exact ih s
      · rw [ih]; rfl

/-- Writing a frame changes the buffer only. -/
theorem writeFrame_eq {s t : State} {writer acct : Nat} {bytes : List Byte} {fs : List Nat}
    (written : writeFrame s writer acct bytes = some (t, fs)) : t = { s with buf := t.buf } := by
  unfold writeFrame at written
  split at written
  case h_1 => cases written
  case h_2 u gs pieced =>
    cases written
    rw [linkChain_eq, writePieces_eq pieced]

/-! ### PTP messages (R356, R359) -/

@[simp] theorem modHalf_datum (s : State) (h : Hf) (f : HalfState → HalfState) : (modHalf s h f).datum = s.datum := by cases h <;> rfl

/-- A message that carries no stamp is originated with the empty stamp, which is then taken out of the port's transmit stamps. -/
theorem exec_ptpMessageInterval_first {s t : State} {p : Fin 32} {m : PtpMsg} {frame : List Byte} {fs : List Nat} (h : Hf)
    (clock : pget s pidPtpClockType ≠ 0) (enabled : pget s (pidPtpPortEnable p.val) ≠ 0) (ready : s.fw.ready = true)
    (short : frame.length ≤ 9212) (allowed : ptpAllowed s m frame = true) (first : followed m = none)
    (written : writeFrame s 34 65 (sealFrame (ptpFrame s p.val m [] frame)) = some (t, fs)) :
    ∃ u, exec (.ptpMessageInterval p m h frame) s = .next u ∧
      sget [] u.datum.txStamps p.val = dropFirst (· == []) (sget [] s.datum.txStamps p.val) := by
  have stamps : t.datum = s.datum := by rw [writeFrame_eq written]
  have queued (i : Nat) (q : Packet) : (queueParser t i q).datum = s.datum := by simp [queueParser, stamps]
  have run : exec (.ptpMessageInterval p m h frame) s = execPtpMessageInterval p m h frame s := rfl
  have long : ¬ 9212 < frame.length := Nat.not_lt.mpr short
  simp only [run, execPtpMessageInterval, clock, enabled, ready, long, allowed, first, enterPort, written, decide_false, Bool.not_true,
    Bool.or_false, Bool.false_eq_true, if_false]
  exact ⟨_, rfl, by rw [sget_sset_same, queued]⟩

/-- A device whose PTP clock and port 0 are on, with an empty record among the port's transmit stamps. -/
def emptyRecord : State :=
  pset (pset (pset { State.reset with
    fw := { State.reset.fw with ready := true }
    datum := { State.reset.datum with txStamps := [(0, [[]])] } } pidPtpClockType 1) (pidPtpPortEnable 0) 1) pidPtpProfile 0

theorem emptyRecord_originates : pget emptyRecord pidPtpClockType ≠ 0 ∧ pget emptyRecord (pidPtpPortEnable (0 : Fin 32).val) ≠ 0 ∧
    emptyRecord.fw.ready = true ∧ ptpAllowed emptyRecord .sync [] = true ∧
    (writeFrame emptyRecord 34 65 (sealFrame (ptpFrame emptyRecord (0 : Fin 32).val .sync [] []))).isSome = true := by
  decide +kernel

/-- Refutes O49: a Sync carries no stamp and takes the record `[]` away all the same, where one is among its port's transmit stamps, while the
statement keeps their number. The model enters no empty record there (R356 gives each its 24 bytes); the statement is about every state. -/
theorem not_packetEntry : ¬ Obligations.PacketEntry := by
  intro entry
  obtain ⟨clock, enabled, ready, allowed, folios⟩ := emptyRecord_originates
  obtain ⟨⟨t, fs⟩, written⟩ := Option.isSome_iff_exists.mp folios
  obtain ⟨-, -, ptp⟩ := entry emptyRecord
  obtain ⟨-, -, originates⟩ := ptp 0 .sync .west []
  obtain ⟨u, q, run, -, -, -, -, -, kept⟩ :=
    originates clock enabled ready (Nat.zero_le _) allowed [] (.inl ⟨rfl, rfl⟩) t fs written
  obtain ⟨u', run', taken⟩ := exec_ptpMessageInterval_first .west clock enabled ready (Nat.zero_le _) allowed rfl written
  obtain rfl : u' = u := Host.Outcome.next.inj (run'.symm.trans run)
  rw [taken] at kept
  exact absurd kept (by decide)

end Sys2Proof.Machine
end

section
/-! Proofs about the edition commands: opening, staging, commit, abort and status of an edition (R88 to R98, R323, R410). -/

namespace Sys2Proof.Machine

/-! ### The answer of an accepted command -/

/-- A command whose parameters have the length it takes has the effect of its body, and its reply (R408). -/
theorem hostCmdN_accepted {s : State} {h : CmdHdr} {op n : Nat} {flags : BitVec 16} {ps : List Byte} (body : State → Answer)
    (accepted : Accepted s h op flags) (length : ps.length = n) :
    hostCmdN s h op flags ps n body = .next (finish h op (body s)) := by
  rw [hostCmdN, hostCmd_accepted _ _ _ _ _ accepted]
  simp [length]

section
variable {i : Instr} {s u : State} {h : CmdHdr} {op : Nat} {flags : BitVec 16} {payload : List Byte} {body : State → Answer}

theorem answers_of_hostCmd (run : exec i s = hostCmd s h op flags body) (accepted : Accepted s h op flags)
    (done : body s = answer u payload) : Answers i s h op u payload := by
  rw [Answers, run, hostCmd_accepted _ _ _ _ _ accepted, done]
  rfl

theorem answers_of_hostCmdN {ps : List Byte} {n : Nat} (run : exec i s = hostCmdN s h op flags ps n body)
    (accepted : Accepted s h op flags) (length : ps.length = n) (done : body s = answer u payload) : Answers i s h op u payload := by
  rw [Answers, run, hostCmdN_accepted _ accepted length, done]
  rfl

end

/-! ### EDITION_OPEN (R90) -/

section
variable {s : State} {h : CmdHdr}

/-- Without EMPTY the staged edition is a copy of the newest live one. -/
theorem editionOpen_copies {e : Live} (accepted : Accepted s h 0x0300 1) (unstaged : s.ed.staged = none) (newest : newestEd s = some e)
    (copied : h.flags.getLsbD 0 = false) : Answers (.editionOpen h []) s h 0x0300
      (setStaged (writeArea s 0 editionArea) (some { owner := h.iface, vals := e.vals, images := e.images })) [] :=
  answers_of_hostCmdN (execEditionOpen.eq_def ..) accepted rfl
    (by simp only [unstaged, newest, copied, Option.isSome_none, Bool.false_eq_true, if_false])

/-- With EMPTY, or with no live edition, the staged edition has the reset values and no image. -/
theorem editionOpen_empty (accepted : Accepted s h 0x0300 1) (unstaged : s.ed.staged = none)
    (empty : newestEd s = none ∨ h.flags.getLsbD 0 = true) :
    Answers (.editionOpen h []) s h 0x0300 (setStaged (writeArea s 0 editionArea) (some { owner := h.iface })) [] := by
  refine answers_of_hostCmdN (execEditionOpen.eq_def ..) accepted rfl ?_
  rcases empty with none_live | flagged
  · simp [unstaged, none_live]
  · cases newestEd s <;> simp [unstaged, flagged]

end

/-! ### The staged edition of an interface (R90 to R92) -/

theorem withStaged_owner {s : State} {i : Iface} {x : Staged} (staged : s.ed.staged = some x) (owner : x.owner = i)
    (body : Staged → Answer) : withStaged s i body = body x := by
  simp [withStaged, staged, owner]

/-- One entry that is in form and in range puts its value into the staged edition (R91, R411). -/
theorem stageOne_staged {s : State} {id : Nat} {bs : List Byte} {p : PSpec} {ix : List Nat} {x : Staged} (staged : s.ed.staged = some x)
    (known : pinfo id = some (p, ix)) (scope : p.scope = .ed) (form : inForm p bs = true) (record : recordOk id (leNat bs) = true) :
    stageOne s id bs = (setStaged s (some { x with vals := sset (preset id) x.vals id (leNat bs) }), none) := by
  simp [stageOne, known, staged, scope, form, record]

/-- A command of one entry that is applied (R410, R411). -/
theorem setCommand_applied {set1 : State → Nat → List Byte → Answer} {s u : State} {ps bs : List Byte} {id : Nat}
    (entries : setEntries ps ps.length = some [(id, bs)]) (one : set1 s id bs = (u, none)) :
    setCommand set1 s ps = answer u [1, 0, 0xFF, 0xFF] := by
  have applied : applyEntries set1 s [(id, bs)] 0 = (u, 1, stOk) := applyEntries_cons_applied one [] 0
  simp [setCommand, entries, applied, setReply_allApplied, answer, leBytes]

section
variable {s : State} {h : CmdHdr} {ps : List Byte} {x : Staged} (staged : s.ed.staged = some x) (idle : s.ed.wait = none)
include staged idle

theorem editionStage_stages (owner : x.owner = h.iface) (accepted : Accepted s h 0x0301 0) {id : Nat} {bs : List Byte} {p : PSpec}
    {ix : List Nat} (entries : setEntries ps ps.length = some [(id, bs)]) (known : pinfo id = some (p, ix)) (scope : p.scope = .ed)
    (form : inForm p bs = true) (record : recordOk id (leNat bs) = true) : Answers (.editionStage h ps) s h 0x0301
      (setStaged s (some { x with vals := sset (preset id) x.vals id (leNat bs) })) [1, 0, 0xFF, 0xFF] := by
  refine answers_of_hostCmd (execEditionStage.eq_def ..) accepted ?_
  rw [withStaged_owner staged owner, idle]
  exact setCommand_applied entries (stageOne_staged staged known scope form record)

theorem programLoad_loads (owner : x.owner = h.iface) (accepted : Accepted s h 0x0302 0) (graph : 4 ≤ ps.length)
    (reserved : leAt ps 1 3 = 0) (image : imageOk (ps.drop 4) = true) : Answers (.programLoad h ps) s h 0x0302
      (setStaged s (some { x with images := sset none x.images (leAt ps 0 1) (some (ps.drop 4)) })) [] := by
  refine answers_of_hostCmd (execProgramLoad.eq_def ..) accepted ?_
  rw [withStaged_owner staged owner]
  simp [idle, Nat.not_lt.mpr graph, reserved, image]

/-- The owner, and with FORCE any interface, aborts the staged edition (R90). -/
theorem editionAbort_aborts (allowed : x.owner = h.iface ∨ h.flags.getLsbD 0 = true) (accepted : Accepted s h 0x0304 1) :
    Answers (.editionAbort h []) s h 0x0304 (setStaged s none) [] := by
  refine answers_of_hostCmdN (execEditionAbort.eq_def ..) accepted rfl ?_
  rcases allowed with owner | force
  · simp [staged, idle, owner]
  · simp [staged, idle, force]

end

/-! ### EDITION_COMMIT (R96, R98, R323) -/

/-- The edition that a commit checks: what is staged, marked with the kind of the commit (R96). -/
def commitCandidate (s : State) (x : Staged) : Live :=
  { vals := x.vals, images := x.images
    prog := programCommit s ((liveEds s).map (·.2)) { vals := x.vals, images := x.images } }

/-- Step 5 with no other claim: an increase that the shared folios cover is applied at once. -/
theorem claimStep_fits {s : State} {h : CmdHdr} {e : Live} (unclaimed : s.buf.claim = 0) :
    let m := minimaOf s (e :: (liveEds s).map (·.2))
    (raiseOf s m : Int) ≤ sharedFolios s → claimStep s h e = answer (applyCommit s e m) (commitReply (applyCommit s e m)) := by
  intro m fits
  have room : (raiseOf s m : Int) ≤ sharedFolios s - s.buf.claim := by rw [unclaimed]; exact fits.trans_eq (Int.sub_zero _).symm
  have first : (decide (s.buf.claim = 0) || decide (s.buf.claim < raiseOf s m)) = true := by rw [unclaimed]; rfl
  rw [claimStep, if_pos first, if_pos room]

/-- A commit whose steps before the buffer claim all pass comes to the claim (R96). -/
theorem commitSteps_passed {s : State} {h : CmdHdr} {x : Staged} {e2 e3 : Live} (undamaged : areaPoisoned s 0 editionArea = false)
    (structured : structureOk s ((liveEds s).map (·.2)) (commitCandidate s x) = true)
    (verified : verifyEdition s ((liveEds s).map (·.2)) (commitCandidate s x) = .ok e2)
    (tagFree : liveEd s (nextSerial s % 4) = none) (admitted : admitEdition s ((liveEds s).map (·.2)) e2 = .ok e3)
    (space : spaceStatus ((liveEds s).map (·.2)) (newestEd s) e3 = none) : commitSteps s h x = claimStep s h e3 := by
  rw [commitCandidate] at structured verified
  simp [commitSteps, undamaged, structured, verified, tagFree, admitted, space]

/-- The owner's commit passes to its steps when no station is being prepared and no commit waits (R90, R137). -/
theorem editionCommit_answers {s u : State} {h : CmdHdr} {x : Staged} {payload : List Byte} (accepted : Accepted s h 0x0303 0)
    (staged : s.ed.staged = some x) (owner : x.owner = h.iface) (unprepared : s.prep = none) (idle : s.ed.wait = none)
    (steps : commitSteps { s with ed := { s.ed with committed := true } } h x = answer u payload) :
    Answers (.editionCommit h []) s h 0x0303 u payload :=
  answers_of_hostCmdN (execEditionCommit.eq_def ..) accepted rfl (by simpa [staged, owner, unprepared, idle] using steps)

/-! ### EDITION_STATUS and CONTRACT_QUERY (R55, R56, R109) -/

theorem editionStatus_reports {s : State} {h : CmdHdr} (accepted : Accepted s h 0x0305 0) :
    Answers (.editionStatus h []) s h 0x0305 s (editionRecord s 0 ++ editionRecord s 1 ++ editionRecord s 2 ++ editionRecord s 3) :=
  answers_of_hostCmdN (execEditionStatus.eq_def ..) accepted rfl (by simp [List.range_succ])

theorem contractQuery_reports {s : State} {h : CmdHdr} {ps : List Byte} {e : Live} {f : Figs} (accepted : Accepted s h 0x0306 0)
    (length : ps.length = 8) (reserved : leAt ps 6 2 = 0)
    (edition : (if leAt ps 0 4 = 0 then newestEd s else ((liveEds s).map (·.2)).find? fun e => e.serial = leAt ps 0 4) = some e)
    (figures : sget none e.figs (leAt ps 4 2) = some f) :
    Answers (.contractQuery h ps) s h 0x0306 s (contractPayload s e (leAt ps 4 2) f) := by
  refine answers_of_hostCmdN (execContractQuery.eq_def ..) accepted length ?_
  dsimp only
  rw [edition]
  simp [reserved, figures]

/-- Settles O34, command by command; a commit goes through its steps (`commitSteps_passed`) to the claim (`claimStep_fits`). -/
theorem editionCommands : Obligations.EditionCommands := by
  intro s h ps
  refine ⟨?opened, ?owned, ?forced, editionStatus_reports, ?queried⟩
  case opened =>
    intro accepted unstaged
    exact ⟨fun e => editionOpen_copies accepted unstaged, editionOpen_empty accepted unstaged⟩
  case owned =>
    intro x staged owner idle
    refine ⟨?stage, programLoad_loads staged idle owner, editionAbort_aborts staged idle (.inl owner), ?commit⟩
    case stage =>
      intro accepted _ _ _ _
      exact editionStage_stages staged idle owner accepted
    case commit =>
      intro accepted unprepared unclaimed s0 undamaged live e0 e1 e2 e3 structured verified tagFree admitted space fits u
      refine editionCommit_answers (payload := commitReply u) accepted staged owner unprepared idle ?_
      rw [commitSteps_passed undamaged structured verified tagFree admitted space]
      exact claimStep_fits (s := s0) unclaimed fits
  case forced =>
    intro x staged _ force idle accepted
    exact editionAbort_aborts staged idle (.inr force) accepted
  case queried =>
    intro accepted length reserved _ _
    exact contractQuery_reports accepted length reserved

end Sys2Proof.Machine
end

section
/-! Proofs about reset: the values that every volatile part of the state starts with (R88, R108, R114, R119, R396, R446). -/

namespace Sys2Proof.Machine

/-- The lanes of the stations are OFF at reset; no other thread exists (R119). -/
theorem reset_thr (k l : Nat) : getThr State.reset k l = if k < 17 ∧ l < 96 then { st := .off } else {} := by
  rw [getThr, reset_stn]
  by_cases station : k < 17
  · have lane := sget_const ({} : Thread) { st := .off } (List.range 96) l
    simp only [List.mem_range] at lane
    simp only [station, if_true, true_and]
    exact lane
  · simp [station]

/-- Settles O57, field by field; the stations by `reset_stn`, their threads by `reset_thr`. -/
theorem resetValues : Obligations.ResetValues := by
  obtain ⟨tables, memory, -⟩ := reset_wf
  refine ⟨rfl, rfl, rfl, rfl, rfl, rfl, fun _ => rfl, rfl, fun _ => rfl, ?stations, ?threads, fun _ => rfl, rfl, fun _ => rfl, rfl,
    fun _ => rfl, rfl, rfl, fun _ => rfl, tables, memory⟩
  case stations =>
    intro k
    rw [reset_stn]
    split <;> exact ⟨rfl, rfl⟩
  case threads =>
    intro k l
    rw [reset_thr]
    split
    · exact ⟨rfl, fun r => by simp [Thread.reg]⟩
    · exact ⟨rfl, fun r => by simp [Thread.reg]⟩

end Sys2Proof.Machine
end

section
/-! Proofs about the events of editions and updates: retirement, claims, activation, trial and rollback (R98 to R104, R323, R454,
R462 to R468). -/

namespace Sys2Proof.Machine

/-- A fold keeps what each of its steps keeps. -/
theorem foldl_keeps {α β : Type} (g : State → β) {f : State → α → State} (kept : ∀ s a, g (f s a) = g s) (l : List α)
    (s : State) : g (l.foldl f s) = g s := by
  induction l generalizing s with
  | nil => rfl
  | cons a l ih => rw [List.foldl_cons, ih, kept]

/-! ### What an activation or a retirement passes through (R97, R104, R323, R337) -/

/-- Loading or unloading programs changes the stations only (R97, R104). -/
theorem modProgs_eq (s : State) (p : Station → Bool) (f : List ProgSeg → List ProgSeg) :
    modProgs s p f = { s with stn := (modProgs s p f).stn } := by
  unfold modProgs
  generalize List.range 17 = l
  induction l generalizing s with
  | nil => rfl
  | cons k l ih =>
    rw [List.foldl_cons, ih]
    split <;> rfl

/-- Binding a port to a gate list changes the traffic manager only (R337). -/
theorem bindGcl_eq (s : State) (e : Live) (p : Nat) : bindGcl s e p = { s with tm := (bindGcl s e p).tm } := by
  unfold bindGcl
  dsimp only
  generalize (if e.get (pidTmPortGcl p) < 64 then e.get (pidTmPortGcl p) else 0xFF) = bound
  split
  · rfl
  · split <;> rfl

theorem supersede_eq (s : State) : supersede s = { s with ed := { s.ed with live := (supersede s).ed.live } } := by
  unfold supersede
  split <;> rfl

theorem lowerMinima_eq (s : State) (m : Sparse Nat) : lowerMinima s m = { s with buf := (lowerMinima s m).buf } := by
  unfold lowerMinima
  split <;> rfl

section
variable (s : State)

@[simp] theorem modProgs_ed (p : Station → Bool) (f : List ProgSeg → List ProgSeg) : (modProgs s p f).ed = s.ed := by
  rw [modProgs_eq]
@[simp] theorem modProgs_buf (p : Station → Bool) (f : List ProgSeg → List ProgSeg) : (modProgs s p f).buf = s.buf := by
  rw [modProgs_eq]
@[simp] theorem modProgs_store (p : Station → Bool) (f : List ProgSeg → List ProgSeg) : (modProgs s p f).store = s.store := by
  rw [modProgs_eq]

@[simp] theorem freshCopies_ed (tag : Nat) : (freshCopies s tag).ed = s.ed := rfl
@[simp] theorem freshCopies_buf (tag : Nat) : (freshCopies s tag).buf = s.buf := rfl
@[simp] theorem freshCopies_store (tag : Nat) : (freshCopies s tag).store = s.store := rfl

@[simp] theorem writeArea_ed (a n : Nat) : (writeArea s a n).ed = s.ed := rfl
@[simp] theorem writeArea_buf (a n : Nat) : (writeArea s a n).buf = s.buf := rfl
@[simp] theorem writeArea_store (a n : Nat) : (writeArea s a n).store = s.store := rfl

@[simp] theorem foldl_bindGcl_ed (e : Live) (l : List Nat) : (l.foldl (fun s p => bindGcl s e p) s).ed = s.ed :=
  foldl_keeps State.ed (fun s p => by rw [bindGcl_eq]) l s
@[simp] theorem foldl_bindGcl_buf (e : Live) (l : List Nat) : (l.foldl (fun s p => bindGcl s e p) s).buf = s.buf :=
  foldl_keeps State.buf (fun s p => by rw [bindGcl_eq]) l s
@[simp] theorem foldl_bindGcl_store (e : Live) (l : List Nat) : (l.foldl (fun s p => bindGcl s e p) s).store = s.store :=
  foldl_keeps State.store (fun s p => by rw [bindGcl_eq]) l s

@[simp] theorem supersede_buf : (supersede s).buf = s.buf := by rw [supersede_eq]
@[simp] theorem supersede_store : (supersede s).store = s.store := by rw [supersede_eq]

@[simp] theorem lowerMinima_ed (m : Sparse Nat) : (lowerMinima s m).ed = s.ed := by rw [lowerMinima_eq]

end

/-! ### Reports (R433 to R437) -/

section
variable (s : State)

@[simp] theorem settleAttn_ed : (settleAttn s).ed = s.ed := by rw [settleAttn_eq]
@[simp] theorem settleAttn_flt : (settleAttn s).flt = s.flt := by rw [settleAttn_eq]

@[simp] theorem logEvent_ed (code cls : Nat) (detail : List Byte) : (logEvent s code cls detail).ed = s.ed := by rw [logEvent_eq]

/-- Of the faults an event changes the log queue only (R442). -/
@[simp] theorem logEvent_flt (code cls : Nat) (detail : List Byte) :
    (logEvent s code cls detail).flt = { s.flt with logQ := s.flt.logQ ++ [mkLogEnt s code cls detail] } := by
  unfold logEvent
  dsimp only
  rw [settleAttn_eq, ringEvent_eq]

@[simp] theorem enterFatal_ed : (enterFatal s).ed = s.ed := rfl
@[simp] theorem enterFatal_total : (enterFatal s).flt.total = s.flt.total := rfl
@[simp] theorem enterFatal_pairs : (enterFatal s).flt.pairs = s.flt.pairs := rfl

variable (src ty : Nat)

@[simp] theorem setPair_ed (p : Pair) : (setPair s src ty p).ed = s.ed := rfl
@[simp] theorem setPair_total (p : Pair) : (setPair s src ty p).flt.total = s.flt.total := rfl
@[simp] theorem setPair_pairs (p : Pair) : (setPair s src ty p).flt.pairs = sset none s.flt.pairs (pairKey src ty) (some p) := rfl

theorem rewriteEntry_eq (p : Pair) : rewriteEntry s src ty p = { s with
    store := (rewriteEntry s src ty p).store, flt := { s.flt with logQ := (rewriteEntry s src ty p).flt.logQ } } := by
  unfold rewriteEntry
  dsimp only
  split <;> rfl

/-- Closing a window changes its pair and the log entry of its fault (R433). -/
theorem closeWindow_eq : closeWindow s src ty = { s with
    store := (closeWindow s src ty).store
    flt := { s.flt with pairs := (closeWindow s src ty).flt.pairs, logQ := (closeWindow s src ty).flt.logQ } } := by
  unfold closeWindow
  dsimp only
  split
  · rfl
  · split
    · split
      · rw [rewriteEntry_eq]; rfl
      · rfl
    · rfl

@[simp] theorem closeWindow_ed : (closeWindow s src ty).ed = s.ed := by rw [closeWindow_eq]
@[simp] theorem closeWindow_total : (closeWindow s src ty).flt.total = s.flt.total := by rw [closeWindow_eq]

variable (cls reporter a0 a1 a2 : Nat)

@[simp] theorem report_ed : (report s src ty cls reporter a0 a1 a2).ed = s.ed := by
  simp only [report, settleAttn_ed, apply_ite State.ed, enterFatal_ed, logEvent_ed, setPair_ed, closeWindow_ed, ite_self, psat, pset_ed]

/-- Every report is counted, up to the counter's end (R433). -/
@[simp] theorem report_total : (report s src ty cls reporter a0 a1 a2).flt.total = satAdd 32 s.flt.total 1 := by
  simp only [report, settleAttn_flt, apply_ite State.flt, apply_ite Faults.total, enterFatal_total, logEvent_flt, setPair_total,
    closeWindow_total, ite_self, psat, pset_flt]

/-- A critical or fatal report latches its pair (R436). -/
theorem report_latched (critical : clsCritical ≤ cls) : Latched (report s src ty cls reporter a0 a1 a2) src ty := by
  simp only [Latched, getPair, report, settleAttn_flt, apply_ite State.flt, apply_ite Faults.pairs, enterFatal_pairs, logEvent_flt,
    setPair_pairs, ite_self, critical, if_true]
  split <;> exact ⟨_, sget_sset_same .., rfl⟩

end

/-! ### The purge of a stuck edition's copies (R103) -/

/-- Giving up a folio changes the buffer only (R317). -/
theorem dropRef_eq (s : State) (i : Nat) : dropRef s i = { s with buf := (dropRef s i).buf } := by
  unfold dropRef
  split
  · rfl
  · split
    · unfold freeFolio
      split
      · rfl
      · unfold discharge
        split
        · rfl
        · split <;> rfl
    · rfl

theorem endCopy_eq (s : State) (i : Nat) : endCopy s i = { s with pkts := (endCopy s i).pkts, stn := (endCopy s i).stn } := by
  unfold endCopy
  split
  · rfl
  · split
    · rw [dropPkt_eq]
    · rfl

theorem modPkt_eq (s : State) (i : Nat) (f : Packet → Packet) : modPkt s i f = { s with pkts := (modPkt s i f).pkts } := by
  unfold modPkt
  split <;> rfl

/-- What a purge must not touch: the live editions and the faults. -/
def liveAndFaults (s : State) : Sparse (Option Live) × Faults := (s.ed.live, s.flt)

theorem discardCopy_keeps (s : State) (c : Copy) : liveAndFaults (discardCopy s c) = liveAndFaults s := by
  have given : liveAndFaults (giveUp s c) = liveAndFaults s := foldl_keeps liveAndFaults (fun s i => by rw [dropRef_eq]; rfl) _ s
  rw [discardCopy, endCopy_eq]
  exact given

theorem purgeTag_keeps (s : State) (t : Nat) : liveAndFaults (purgeTag s t) = liveAndFaults s := by
  refine foldl_keeps liveAndFaults (fun s kq => ?_) s.tm.queues s
  exact foldl_keeps liveAndFaults (fun s c => by rw [discardCopy_keeps, modPkt_eq]; rfl) _ (setQueue s kq.1 _)

/-! ### Retirement (R102 to R104) -/

section
variable {s : State} {t : Fin 4} {e : Live}

/-- A retirement takes the edition from its tag, and from no other (R104). -/
theorem retire_ed (s : State) (t : Nat) (e : Live) : (retire s t e).ed = { s.ed with live := sset none s.ed.live t none } := by
  simp only [retire, logEvent_ed, freshCopies_ed, lowerMinima_ed, modProgs_ed]

theorem retirement_ofNone (dead : liveEd s t.val = none) : exec (.editionRetire t) s = .next s ∧
    exec (.retireStuckTimeout t) s = .next s ∧ exec (.retireStuckCritical t) s = .next s := by
  have retires : exec (.editionRetire t) s = execEditionRetire t s := rfl
  have times : exec (.retireStuckTimeout t) s = execRetireStuckTimeout t s := rfl
  have turns : exec (.retireStuckCritical t) s = execRetireStuckCritical t s := rfl
  simp only [retires, times, turns, execEditionRetire, execRetireStuckTimeout, execRetireStuckCritical, dead, and_self]

variable (live : liveEd s t.val = some e)
include live

/-- An edition retires unless it is not superseded, is still carried, or has been reported critical (R102, R103). -/
theorem exec_editionRetire : exec (.editionRetire t) s =
    .next (if e.superAt = none ∨ tagCount s 0 t.val ≠ 0 ∨ tagCount s 1 t.val ≠ 0 ∨ e.stuck = 2 then s else retire s t.val e) := by
  have run : exec (.editionRetire t) s = execEditionRetire t s := rfl
  rw [run, execEditionRetire]
  simp [live, apply_ite Host.Outcome.next, or_assoc]

/-- The first report of a stuck edition comes 2 × T_ret after its supersession, with the purge of its copies (R103). -/
theorem exec_retireStuckTimeout {a : Nat} (superseded : e.superAt = some a) : exec (.retireStuckTimeout t) s =
    .next (if e.stuck ≠ 0 ∨ s.clk < a + 2 * retireTime s e then s
      else purgeTag (reportStuck (markStuck s t.val 1 e) t.val clsMajor) t.val) := by
  have run : exec (.retireStuckTimeout t) s = execRetireStuckTimeout t s := rfl
  rw [run, execRetireStuckTimeout]
  simp [live, superseded, apply_ite Host.Outcome.next]

/-- The critical report comes a further T_ret after the first (R103). -/
theorem exec_retireStuckCritical : exec (.retireStuckCritical t) s =
    .next (if e.stuck ≠ 1 ∨ s.clk < e.stuckAt + retireTime s e then s
      else reportStuck (markStuck s t.val 2 e) t.val clsCritical) := by
  have run : exec (.retireStuckCritical t) s = execRetireStuckCritical t s := rfl
  rw [run, execRetireStuckCritical]
  simp [live, apply_ite Host.Outcome.next]

end

/-- A report that an edition is stuck notes it in the edition and counts (R103). -/
theorem reportStuck_marked (s : State) (t n cls : Nat) (e : Live) : let u := reportStuck (markStuck s t n e) t cls
    liveEd u t = some { e with stuck := n, stuckAt := s.clk } ∧ u.flt.total = satAdd 32 s.flt.total 1 := by
  simp [reportStuck, liveEd, markStuck]

/-- The purge keeps what the report has noted (R103). -/
theorem purgeTag_marked (s : State) (t n cls : Nat) (e : Live) : let u := purgeTag (reportStuck (markStuck s t n e) t cls) t
    liveEd u t = some { e with stuck := n, stuckAt := s.clk } ∧ u.flt.total = satAdd 32 s.flt.total 1 := by
  obtain ⟨live, faults⟩ := Prod.mk.inj (purgeTag_keeps (reportStuck (markStuck s t n e) t cls) t)
  simp only [liveEd, live, faults]
  exact reportStuck_marked s t n cls e

/-! ### The waiting commit and the claim (R93 to R98, R323) -/

section
variable (s : State) (cand : Live)

/-- The edition that an activation makes of a candidate (R94, R98). -/
def activated : Live :=
  { cand with serial := nextSerial s, actAt := s.clk, slew := pget s pidBoundSlewAllowance }

/-- Activation enters the edition under its tag as the newest; no edition is staged any more, and no commit waits (R93, R98). -/
theorem activate_ed : ∃ live, (activate s cand).ed = { s.ed with
    live := sset none live (nextSerial s % 4) (some (activated s cand)), newest := some (nextSerial s % 4)
    staged := none, wait := none } := by
  simp only [activate, pset_ed, pinc_ed, foldl_bindGcl_ed, writeArea_ed, modProgs_ed, freshCopies_ed]
  rw [supersede_eq]
  exact ⟨_, rfl⟩

@[simp] theorem activate_serial : (activate s cand).store.serial = nextSerial s := by
  simp only [activate, pset_store, pinc_store, foldl_bindGcl_store, writeArea_store, modProgs_store, freshCopies_store, supersede_store]

@[simp] theorem activate_buf : (activate s cand).buf = s.buf := by
  simp only [activate, pset_buf, pinc_buf, foldl_bindGcl_buf, writeArea_buf, modProgs_buf, freshCopies_buf, supersede_buf]

/-- A commit that is applied leaves its minima in force, no claim, and its edition the newest (R93, R98, R323). -/
theorem applyCommit_applies (m : Sparse Nat) : let u := applyCommit s cand m
    u.ed.wait = none ∧ u.ed.newest = some (u.store.serial % 4) ∧ u.buf.minima = m ∧ u.buf.claim = 0 ∧ u.ed.staged = none ∧ ∃ e,
    liveEd u (u.store.serial % 4) = some e ∧ e.serial = u.store.serial ∧ e.actAt = s.clk ∧ e.images = cand.images := by
  obtain ⟨live, eds⟩ := activate_ed (setMinima { s with buf := { s.buf with claim := 0, claimUntil := 0 } } m) cand
  simp only [applyCommit, liveEd, eds, activate_serial, activate_buf, sget_sset_same, true_and]
  exact ⟨rfl, rfl, _, rfl, rfl, rfl, rfl⟩

end

section
variable {s : State}

theorem commitClaimApply_ofNone (idle : s.ed.wait = none) : exec .commitClaimApply s = .next s := by
  have run : exec .commitClaimApply s = execCommitClaimApply s := rfl
  rw [run, execCommitClaimApply, idle]

/-- A waiting commit is applied when the shared folios reach its increase, and given up at its deadline (R323). -/
theorem exec_commitClaimApply {w : CommitWait} (waits : s.ed.wait = some w) :
    let m := minimaOf s (w.cand :: (liveEds s).map (·.2))
    exec .commitClaimApply s = .next (
      if (raiseOf s m : Int) ≤ sharedFolios s then
        sendReply (applyCommit s w.cand m) w.hdr 0x0303 stOk (commitReply (applyCommit s w.cand m))
      else if w.deadline ≤ s.clk then dropCommit s else s) := by
  have run : exec .commitClaimApply s = execCommitClaimApply s := rfl
  rw [run, execCommitClaimApply]
  simp only [waits, apply_ite Host.Outcome.next]

theorem dropCommit_ed {w : CommitWait} (waits : s.ed.wait = some w) : (dropCommit s).ed = { s.ed with wait := none } := by
  simp only [dropCommit, waits]
  rfl

theorem exec_claimHoldExpiry : exec .claimHoldExpiry s = .next (
    if s.buf.claim ≠ 0 ∧ s.buf.claimUntil ≤ s.clk then { s with buf := { s.buf with claim := 0, claimUntil := 0 } } else s) := by
  have run : exec .claimHoldExpiry s = execClaimHoldExpiry s := rfl
  rw [run, execClaimHoldExpiry, apply_ite Host.Outcome.next]
  simp

end

/-! ### Activation of an image (R462 to R464) -/

section
variable (s : State)

@[simp] theorem abandonLocks_fw (p : Held → Bool) : (abandonLocks s p).fw = s.fw := by
  unfold abandonLocks
  exact foldl_keeps State.fw (fun s h => by rfl) _ s

@[simp] theorem abandonLocks_stn (p : Held → Bool) : (abandonLocks s p).stn = s.stn := by
  unfold abandonLocks
  exact foldl_keeps State.stn (fun s h => by rfl) _ s

@[simp] theorem settleAttn_fw : (settleAttn s).fw = s.fw := by rw [settleAttn_eq]
@[simp] theorem settleAttn_stn : (settleAttn s).stn = s.stn := by rw [settleAttn_eq]

@[simp] theorem stopRing_fw (n cause : Nat) : (stopRing s n cause).fw = s.fw := by
  simp [stopRing, disableRing, abandonMaster, quietRing, modRing]

@[simp] theorem stopRing_stn (n cause : Nat) : (stopRing s n cause).stn = s.stn := by
  simp [stopRing, disableRing, abandonMaster, quietRing, modRing]

/-- Checking the indices of the rings may stop rings; it keeps the firmware's state (R400, R404). -/
@[simp] theorem checkRings_fw : (checkRings s).fw = s.fw := by
  refine foldl_keeps State.fw (fun s n => ?_) _ s
  simp only [checkRing, apply_ite State.fw, stopRing_fw, ite_self]

@[simp] theorem checkRings_stn : (checkRings s).stn = s.stn := by
  refine foldl_keeps State.stn (fun s n => ?_) _ s
  simp only [checkRing, apply_ite State.stn, stopRing_stn, ite_self]

end

section
variable {s : State}

theorem activationPauseResume_waits (waits : s.fw.pause = false ∨ (boundedLeft s = true ∧ s.clk ≤ s.fw.trialAt + largestBound s)) :
    exec .activationPauseResume s = .next s := by
  have run : exec .activationPauseResume s = execActivationPauseResume s := rfl
  rw [run, execActivationPauseResume, if_pos (by simpa using waits)]

/-- The firmware's state when a pause ends: the image's parts run, on trial from now (R464, R466). -/
def resumedFw (s : State) : Fw :=
  { (adoptImage s (targetBytes s)).fw with pause := false, busy := s.flt.fatal, ready := !s.flt.fatal, trial := true, trialAt := s.clk }

theorem activationPauseResume_resumes (paused : s.fw.pause = true)
    (ended : boundedLeft s = false ∨ s.fw.trialAt + largestBound s < s.clk) :
    exec .activationPauseResume s = .next (checkRings { s with fw := resumedFw s }) := by
  have run : exec .activationPauseResume s = execActivationPauseResume s := rfl
  have ends : ¬ (!s.fw.pause || (boundedLeft s && decide (s.clk ≤ s.fw.trialAt + largestBound s))) = true := by
    rcases ended with none_left | passed
    · simp [paused, none_left]
    · simp [paused, passed]
  rw [run, execActivationPauseResume, if_neg ends]
  rfl

/-! ### The overwrite of an in-place part (R463) -/

@[simp] theorem fitBytes_length (bs : List Byte) (n : Nat) : (fitBytes bs n).length = n := by
  simp only [fitBytes, List.length_append, List.length_take, List.length_replicate]
  omega

/-- The bytes of a block stand behind the n bytes before it. -/
theorem byteAt_block (a b c : List Byte) (n : Nat) {i : Nat} (inside : i < b.length) :
    byteAt (fitBytes a n ++ b ++ c) (n + i) = byteAt b i := by
  rw [byteAt, List.append_assoc, List.getD_append_right _ _ _ _ (by simp), fitBytes_length, Nat.add_sub_cancel_left,
    List.getD_append _ _ _ _ inside, byteAt]

theorem overwriteBlock_waits (waits : s.fw.overwrite = false ∨ fwImgBlocks s.store.journal.length ≤ s.store.journal.nextBlock) :
    exec .overwriteBlock s = .next s := by
  have run : exec .overwriteBlock s = execOverwriteBlock s := rfl
  rw [run, execOverwriteBlock, if_pos (by simpa using waits)]

/-- Slot A with the block at next_block written: what lies behind the last block of the image is gone (R463). -/
def overwritten (s : State) : List Byte :=
  let n := s.store.journal.nextBlock
  fitBytes s.store.slotA (262144 * n) ++ blockBytes s n ++
    if n + 1 = fwImgBlocks s.store.journal.length then [] else s.store.slotA.drop (262144 * n + (blockBytes s n).length)

theorem overwritten_block (s : State) {i : Nat} (inside : i < (blockBytes s s.store.journal.nextBlock).length) :
    byteAt (overwritten s) (262144 * s.store.journal.nextBlock + i) = byteAt (blockBytes s s.store.journal.nextBlock) i :=
  byteAt_block _ _ _ _ inside

theorem overwriteBlock_writes (running : s.fw.overwrite = true)
    (left : s.store.journal.nextBlock < fwImgBlocks s.store.journal.length) :
    let n := s.store.journal.nextBlock
    let v := writeJournal { s with store := { s.store with slotA := overwritten s } } fun j => { j with nextBlock := n + 1 }
    exec .overwriteBlock s = .next (
      if n + 1 = fwImgBlocks s.store.journal.length then { v with fw := { v.fw with resetAsked := some .activation } } else v) := by
  have run : exec .overwriteBlock s = execOverwriteBlock s := rfl
  rw [run, execOverwriteBlock, if_neg (by simp [running, left])]
  rfl

/-! ### Trial, confirmation and fallback (R454, R466 to R468) -/

theorem trial_ofNone (untried : onTrial s = false) :
    exec .trialConfirm s = .next s ∧ exec .trialSelfCheckFail s = .next s ∧ exec .healthWindowExpiry s = .next s := by
  have confirm : exec .trialConfirm s = execTrialConfirm s := rfl
  have fail : exec .trialSelfCheckFail s = execTrialSelfCheckFail s := rfl
  have expiry : exec .healthWindowExpiry s = execHealthWindowExpiry s := rfl
  simp [confirm, fail, expiry, execTrialConfirm, execTrialSelfCheckFail, execHealthWindowExpiry, untried]

/-- A confirmed image ends the update: the journal is IDLE (R467). -/
theorem confirmJournal_state (inPlace : Bool) (j : Journal) : (confirmJournal inPlace j).state = jIdle := by
  unfold confirmJournal setSlot
  split
  · rfl
  · dsimp only
    split <;> split <;> rfl

section
variable (trial : onTrial s = true)
include trial

theorem trialConfirm_confirms (healthy : s.flt.fatal = false) (within : s.clk ≤ windowEnd s) :
    exec .trialConfirm s = .next { writeJournal s (confirmJournal s.fuses.inPlace) with
      fw := { s.fw with trial := false, stepping := decide (s.fuses.rollback < s.fw.level) } } := by
  have run : exec .trialConfirm s = execTrialConfirm s := rfl
  rw [run, execTrialConfirm, if_neg (by simp [trial, healthy, within])]
  rfl

theorem trialSelfCheckFail_fallsBack : exec .trialSelfCheckFail s = .next (fallBack s .fallback) := by
  have run : exec .trialSelfCheckFail s = execTrialSelfCheckFail s := rfl
  rw [run, execTrialSelfCheckFail, if_pos trial]

theorem exec_healthWindowExpiry :
    exec .healthWindowExpiry s = .next (if windowEnd s ≤ s.clk then fallBack s .expiry else s) := by
  have run : exec .healthWindowExpiry s = execHealthWindowExpiry s := rfl
  rw [run, execHealthWindowExpiry, apply_ite Host.Outcome.next]
  simp [trial]

end

theorem rollbackStep_waits (idle : s.fw.stepping = false) : exec .rollbackStep s = .next s := by
  have run : exec .rollbackStep s = execRollbackStep s := rfl
  rw [run, execRollbackStep, idle]
  rfl

/-- A step raises the fuse counter, and the figure that shows it, by one (R454). -/
theorem rollbackStep_steps (stepping : s.fw.stepping = true) :
    let c := s.fuses.rollback + 1
    exec .rollbackStep s = .next (pset { s with
      fuses := { s.fuses with rollback := c }, fw := { s.fw with stepping := decide (c < s.fw.level) } } pidFwRollbackStep c) := by
  have run : exec .rollbackStep s = execRollbackStep s := rfl
  rw [run, execRollbackStep, stepping]
  rfl

end

/-- Settles O55, event by event: each from the equation of its command, whose two branches are the statement's condition and its
opposite. -/
theorem editionAndUpdateEvents : Obligations.EditionAndUpdateEvents := by
  intro s
  refine ⟨fun t => ⟨retirement_ofNone, fun e live => ⟨?retireWaits, ?retires, ?timeout, ?criticalWaits, ?critical⟩⟩,
    commitClaimApply_ofNone, fun w waits => ⟨?applied, ?dropped, ?commitWaits⟩, ?holdEnds, ?holdStays,
    activationPauseResume_waits, ?resumes, overwriteBlock_waits, ?writes, trial_ofNone,
    fun trial => ⟨?confirms, ?fails, ?expires, ?windowOpen⟩, rollbackStep_waits, ?steps⟩
  case retireWaits => exact fun waits => (exec_editionRetire live).trans (congrArg _ (if_pos waits))
  case retires =>
    intro superseded west east uncritical
    have free : ¬ (e.superAt = none ∨ tagCount s 0 t.val ≠ 0 ∨ tagCount s 1 t.val ≠ 0 ∨ e.stuck = 2) := by
      simp [Option.isSome_iff_ne_none.mp superseded, west, east, uncritical]
    refine ⟨retire s t.val e, (exec_editionRetire live).trans (congrArg _ (if_neg free)), ?_, fun x other => ?_, ?_⟩
    · rw [liveEd, retire_ed, sget_sset_same]
    · rw [liveEd, retire_ed, sget_sset_ne _ _ _ _ other, liveEd]
    · rw [retire_ed]
  case timeout =>
    intro a superseded
    refine ⟨fun waits => (exec_retireStuckTimeout live superseded).trans (congrArg _ (if_pos waits)), fun unreported due => ?_⟩
    exact ⟨_, (exec_retireStuckTimeout live superseded).trans (congrArg _ (if_neg (by omega))), purgeTag_marked ..⟩
  case criticalWaits => exact fun waits => (exec_retireStuckCritical live).trans (congrArg _ (if_pos waits))
  case critical =>
    intro reported due
    obtain ⟨marked, -⟩ := reportStuck_marked s t.val 2 clsCritical e
    exact ⟨_, (exec_retireStuckCritical live).trans (congrArg _ (if_neg (by omega))), marked, report_latched _ _ _ _ _ _ _ _ le_rfl⟩
  case applied =>
    intro covered
    have applies := applyCommit_applies s w.cand (minimaOf s (w.cand :: (liveEds s).map (·.2)))
    rw [exec_commitClaimApply waits, if_pos covered]
    generalize applyCommit s w.cand _ = v at applies ⊢
    exact ⟨_, rfl, applies⟩
  case dropped =>
    intro short due
    refine ⟨dropCommit s, ?_, ?_⟩
    · rw [exec_commitClaimApply waits, if_neg (not_le.mpr short), if_pos due]
    · rw [dropCommit_ed waits]
      exact ⟨rfl, rfl, rfl⟩
  case commitWaits =>
    intro short early
    rw [exec_commitClaimApply waits, if_neg (not_le.mpr short), if_neg (not_le.mpr early)]
  case holdEnds => exact fun claimed ended => exec_claimHoldExpiry.trans (congrArg _ (if_pos ⟨claimed, ended⟩))
  case holdStays => exact fun stays => exec_claimHoldExpiry.trans (congrArg _ (if_neg (by omega)))
  case resumes =>
    intro paused ended
    refine ⟨_, activationPauseResume_resumes paused ended, ?_⟩
    rw [checkRings_fw, checkRings_stn]
    exact ⟨rfl, rfl, rfl, rfl, rfl, rfl, rfl⟩
  case writes =>
    intro running left
    refine ⟨_, overwriteBlock_writes running left, ?_⟩
    split
    · exact ⟨rfl, fun _ => overwritten_block s, fun _ => rfl, fun more => absurd ‹_› more⟩
    · exact ⟨rfl, fun _ => overwritten_block s, fun last => absurd last ‹_›, fun _ => rfl⟩
  case confirms =>
    exact fun healthy within => ⟨_, trialConfirm_confirms trial healthy within, rfl, confirmJournal_state _ _, rfl, rfl⟩
  case fails => exact ⟨_, trialSelfCheckFail_fallsBack trial, rfl⟩
  case expires => exact fun ended => ⟨_, (exec_healthWindowExpiry trial).trans (congrArg _ (if_pos ended)), rfl⟩
  case windowOpen => exact fun within => (exec_healthWindowExpiry trial).trans (congrArg _ (if_neg (not_le.mpr within)))
  case steps => exact fun stepping => ⟨_, rollbackStep_steps stepping, rfl, rfl, pget_pset_same ..⟩

end Sys2Proof.Machine
end

section
/-! Proofs about a thread's addresses: the ranges of R144, the order of the bytes in each, and the accesses that R145 refuses. -/

namespace Sys2Proof.Machine

/-- The head and tail windows give the first byte of a word the highest place, the other ranges the lowest (R144). -/
theorem bytesValue_word (a : Nat) (b c d e : Byte) : bytesValue a [b, c, d, e] =
    if rangeOf a = .head ∨ rangeOf a = .tail then b.toNat * 2 ^ 24 + c.toNat * 2 ^ 16 + d.toNat * 2 ^ 8 + e.toNat
    else b.toNat + c.toNat * 2 ^ 8 + d.toNat * 2 ^ 16 + e.toNat * 2 ^ 24 := by
  cases range : rangeOf a
  case head | tail => simp [bytesValue, range, beNat, leNat]; omega
  all_goals simp [bytesValue, range, leNat]; omega

section
variable {s : State} {k l a w : Nat}

theorem accessOk_unmapped (range : rangeOf a = .unmapped) : accessOk s k l a w = false := by
  simp [accessOk, range]

theorem accessOk_pastEnd (past : 0x10000 < a + w) : accessOk s k l a w = false := by
  simp [accessOk, Nat.not_le.mpr past]

theorem accessOk_leavesRange (leaves : rangeOf (a + w - 1) ≠ rangeOf a) : accessOk s k l a w = false := by
  simp [accessOk, leaves.symm]

theorem accessOk_unaligned (unaligned : alignedFor a w = false) : accessOk s k l a w = false := by
  simp [accessOk, unaligned]

theorem accessOk_noBank (range : rangeOf a = .shared) (bank : 12 < (getThr s k l).wbank.toNat) : accessOk s k l a w = false := by
  simp [accessOk, range, Nat.not_le.mpr bank]

end

/-- The ranges of station memory, the result slots and the channel window ask for natural alignment (R144). -/
theorem alignedFor_natural {a w : Nat}
    (range : rangeOf a = .flow ∨ rangeOf a = .shared ∨ rangeOf a = .scratch ∨ rangeOf a = .result ∨ rangeOf a = .chanWin)
    (unaligned : a % w ≠ 0) : alignedFor a w = false := by
  rcases range with h | h | h | h | h <;> simp [alignedFor, h, unaligned]

/-- Settles O15: the ranges by evaluation of `rangeOf`, the refused accesses by the check of `accessOk` that each fails. -/
theorem addressRanges : Obligations.AddressRanges := by
  refine ⟨rfl, bytesValue_word, ?_⟩
  rintro s k l a w (range | past | leaves | ⟨range, odd⟩ | ⟨range, part⟩ | ⟨range, part⟩ | ⟨range, bank⟩)
  · exact accessOk_unmapped range
  · exact accessOk_pastEnd past
  · exact accessOk_leavesRange leaves
  · exact accessOk_unaligned (alignedFor_natural range odd)
  · exact accessOk_unaligned (by simp only [alignedFor, range]; grind)
  · exact accessOk_unaligned (by simp only [alignedFor, range]; grind)
  · exact accessOk_noBank range bank

end Sys2Proof.Machine
end

section
/-! Proofs about undefined encodings: every core and helper instruction is an issue (R150, R157), and an undefined one traps whatever its
guard (R157, R186, R208). -/

namespace Sys2Proof.Machine

section
variable {i : Instr} {s : State} {t : Tid} {p : Guard} {b : Bool} {n : Nat}

/-- Every instruction that goes to no helper is an issue of its guard, its encoding and its length (R150). -/
theorem exec_eq_issue (core : issueOf i = some (t, p, b, n)) (plain : helperInsn i = false)
    (idle : jobRunning s t.stn.val (tlane t) = false) : ∃ body, exec i s = issue s t p b n body := by
  cases i with
  | nopInsn => cases core; exact nopInsn_issue ..
  | mov => cases core; exact mov_issue ..
  | add => cases core; exact add_issue ..
  | sub => cases core; exact sub_issue ..
  | and => cases core; exact and_issue ..
  | or => cases core; exact or_issue ..
  | xor => cases core; exact xor_issue ..
  | andn => cases core; exact andn_issue ..
  | shl => cases core; exact shl_issue ..
  | shr => cases core; exact shr_issue ..
  | sar => cases core; exact sar_issue ..
  | rol => cases core; exact rol_issue ..
  | min => cases core; exact min_issue ..
  | max => cases core; exact max_issue ..
  | minu => cases core; exact minu_issue ..
  | maxu => cases core; exact maxu_issue ..
  | mul => cases core; exact mul_issue ..
  | mulhu => cases core; exact mulhu_issue ..
  | sxb => cases core; exact sxb_issue ..
  | sxh => cases core; exact sxh_issue ..
  | zxb => cases core; exact zxb_issue ..
  | zxh => cases core; exact zxh_issue ..
  | clz => cases core; exact clz_issue ..
  | popc => cases core; exact popc_issue ..
  | addi => cases core; exact addi_issue ..
  | shi => cases core; exact shi_issue ..
  | andi => cases core; exact andi_issue ..
  | ori => cases core; exact ori_issue ..
  | xori => cases core; exact xori_issue ..
  | movhi => cases core; exact movhi_issue ..
  | sel => cases core; exact sel_issue ..
  | movi => cases core; exact movi_issue ..
  | cmp => cases core; exact cmp_issue ..
  | cmpi => cases core; exact cmpi_issue ..
  | pand => cases core; exact pand_issue ..
  | por => cases core; exact por_issue ..
  | pxor => cases core; exact pxor_issue ..
  | pandn => cases core; exact pandn_issue ..
  | pnot => cases core; exact pnot_issue ..
  | pset => cases core; exact pset_issue ..
  | pclr => cases core; exact pclr_issue ..
  | ext => cases core; exact ext_issue ..
  | exts => cases core; exact exts_issue ..
  | ins => cases core; exact ins_issue ..
  | ldb => cases core; exact ldb_issue ..
  | ldw => cases core; exact ldw_issue ..
  | ldh => cases core; exact ldh_issue ..
  | ldbs => cases core; exact ldbs_issue ..
  | ldhs => cases core; exact ldhs_issue ..
  | stb => cases core; exact stb_issue ..
  | stw => cases core; exact stw_issue ..
  | sth => cases core; exact sth_issue ..
  | cpy => cases core; exact cpy_issue ..
  | atomFadd => cases core; exact atomFadd_issue ..
  | atomSwap => cases core; exact atomSwap_issue ..
  | atomCas => cases core; exact atomCas_issue ..
  | br => cases core; exact br_issue ..
  | wait => cases core; exact wait_issue ..
  | signal => cases core; exact signal_issue ..
  | trap => cases core; exact trap_issue ..
  | hlock => cases core; exact hlock_issue ..
  | chw => cases core; exact chw_issue ..
  | che => cases core; exact che_issue ..
  | brs => cases core; exact brs_issue ..
  | rep => cases core; exact rep_issue ..
  | endInsn => cases core; exact endInsn_issue ..
  | hfree => cases core; exact hfree_issue _ _ _ _ idle
  | chp => cases core; exact chp_issue ..
  | crc | csadd | csupd | csupd32 | csnot | bswap32 | bswap16 | bswapH | hfin | fcmp | hash => cases plain
  | lkupMac | lkupLpm4 | lkupLpm6 | lkupStream | lkupExact | lread | learn | cnt | gcm | hmac => cases plain
  | _ => cases core

/-- A state in which the refusal of a helper instruction of the thread may have been counted (R208). -/
def RefusalCounted (s u : State) (t : Tid) : Prop := u = s ∨ ∃ m, u = pinc s (pidHlpSRefused t.stn.val m)

/-- A crypto instruction of a thread without a running job is a helper issue, before which an instruction with a budget may have been
refused for want of the unit (R208, R210). -/
theorem cryptoOp_issue (major : Nat) (gP : BitVec 4) (r : BitVec 3) (f : BitVec 4) (lim : BitVec 8)
    (idle : jobRunning s t.stn.val (tlane t) = false) : ∃ u body, RefusalCounted s u t ∧ (lim = 0 → u = s) ∧
      cryptoOp s t p major gP r f lim = issueHelper u t p major (lim = 0) body := by
  have idle' (id : Nat) : jobRunning (pinc s id) t.stn.val (tlane t) = false := idle
  unfold cryptoOp
  dsimp only
  split
  case isTrue refused =>
    refine ⟨_, _, .inr ⟨major, rfl⟩, ?_, by rw [idle', Bool.false_and, if_neg Bool.false_ne_true]⟩
    rintro rfl
    simp at refused
  case isFalse => exact ⟨s, _, .inl rfl, fun _ => rfl, by rw [idle, Bool.false_and, if_neg Bool.false_ne_true]⟩

/-- Every helper instruction is a helper issue of its guard and its encoding (R180); an undefined encoding is decided before anything else
of it. -/
theorem exec_eq_issueHelper (core : issueOf i = some (t, p, b, n)) (helper : helperInsn i = true)
    (idle : jobRunning s t.stn.val (tlane t) = false) :
    ∃ u m body, RefusalCounted s u t ∧ (b = true → u = s) ∧ exec i s = issueHelper u t p m b body := by
  have direct (h : ∃ m body, exec i s = issueHelper s t p m b body) :
      ∃ u m body, RefusalCounted s u t ∧ (b = true → u = s) ∧ exec i s = issueHelper u t p m b body := by
    obtain ⟨m, body, run⟩ := h
    exact ⟨s, m, body, .inl rfl, fun _ => rfl, run⟩
  cases i with
  | crc => cases core; exact direct (crc_issue ..)
  | csadd => cases core; exact direct (csadd_issue ..)
  | csupd => cases core; exact direct (csupd_issue ..)
  | csupd32 => cases core; exact direct (csupd32_issue ..)
  | csnot => cases core; exact direct (csnot_issue ..)
  | bswap32 => cases core; exact direct (bswap32_issue ..)
  | bswap16 => cases core; exact direct (bswap16_issue ..)
  | bswapH => cases core; exact direct (bswapH_issue ..)
  | hfin => cases core; exact direct (hfin_issue ..)
  | fcmp => cases core; exact direct (fcmp_issue ..)
  | hash => cases core; exact direct (hash_issue ..)
  | lkupMac => cases core; exact direct (lkupMac_issue ..)
  | lkupLpm4 => cases core; exact direct (lkupLpm4_issue ..)
  | lkupLpm6 => cases core; exact direct (lkupLpm6_issue ..)
  | lkupStream => cases core; exact direct (lkupStream_issue ..)
  | lkupExact => cases core; exact direct (lkupExact_issue ..)
  | lread => cases core; exact direct (lread_issue ..)
  | learn => cases core; exact direct (learn_issue ..)
  | cnt => cases core; exact direct (cnt_issue ..)
  | gcm _ _ gP r f lim =>
    cases core
    obtain ⟨u, body, counted, same, run⟩ := cryptoOp_issue 0x3A gP r f lim idle
    exact ⟨u, 0x3A, body, counted, fun undef => same (of_decide_eq_true undef), run⟩
  | hmac _ _ gP r f lim =>
    cases core
    obtain ⟨u, body, counted, same, run⟩ := cryptoOp_issue 0x3B gP r f lim idle
    exact ⟨u, 0x3B, body, counted, fun undef => same (of_decide_eq_true undef), run⟩
  | _ => cases helper

/-- An undefined encoding and the undefined guard trap alike, whatever the guard reads (R157). -/
theorem issueAs_undefined (helper : Bool) (body : State → Effects) (able : canIssue s t.stn.val (tlane t) = true)
    (undef : (b || guardUndef p) = true) : issueAs helper s t p b n body =
      .next (takeTrap (killTag (useSlot s t.stn.val (tlane t)) t.stn.val helper) t.stn.val (tlane t) trapUndefined) := by
  simp only [issueAs, able, undef, Bool.not_true, Bool.false_eq_true, if_false, if_true]

/-- The undefined helper instruction is killed, and its refusal counted when its guard is true and its encoding is what is undefined
(R186, R208). -/
theorem issueHelper_undefined (m : Nat) (body : State → Effects) (able : canIssue s t.stn.val (tlane t) = true)
    (undef : (b || guardUndef p) = true) : ∃ u, RefusalCounted s u t ∧ (b = false → u = s) ∧
      issueHelper s t p m b body = .next (helperTrap u t trapUndefined) := by
  have able' (id : Nat) : canIssue (pinc s id) t.stn.val (tlane t) = true := able
  unfold issueHelper
  dsimp only
  split
  case isTrue asked =>
    refine ⟨_, .inr ⟨m, rfl⟩, ?_, issueAs_undefined true body (able' _) undef⟩
    rintro rfl
    simp at asked
  case isFalse => exact ⟨s, .inl rfl, fun _ => rfl, issueAs_undefined true body able undef⟩

/-- An undefined helper instruction in a thread that may issue: one of the two places where a refusal is counted counts at most. -/
theorem exec_helper_undefined (core : issueOf i = some (t, p, b, n)) (helper : helperInsn i = true)
    (able : canIssue s t.stn.val (tlane t) = true) (idle : jobRunning s t.stn.val (tlane t) = false)
    (undef : (b || guardUndef p) = true) : ∃ u, RefusalCounted s u t ∧ exec i s = .next (helperTrap u t trapUndefined) := by
  obtain ⟨u, m, body, counted, same, run⟩ := exec_eq_issueHelper core helper idle
  have able' : canIssue u t.stn.val (tlane t) = true := by
    rcases counted with rfl | ⟨_, rfl⟩
    · exact able
    · exact able
  obtain ⟨v, counted', same', trap⟩ := issueHelper_undefined m body able' undef
  cases b with
  | true => rw [same rfl] at counted'; exact ⟨v, counted', run.trans trap⟩
  | false => rw [same' rfl] at trap; exact ⟨u, counted, run.trans trap⟩

end

theorem guardUndef_iff (p : Guard) : guardUndef p = true ↔ p.pred = 0 ∧ p.neg = true := by
  simp [guardUndef]

/-- A long compare of a condition or a combining mode that R161 reserves. -/
theorem compareBad_reserved {p : Guard} {rs : List (BitVec 4)} {pd : BitVec 3} {cond : BitVec 4} {comb : BitVec 2} {combs : Nat}
    (reserved : 12 ≤ cond.toNat ∨ comb = 3) : compareBad .long p rs pd cond comb combs = true := by
  rcases reserved with high | rfl
  · have none_holds : cmpHolds .long cond 0 0 = none := by
      simp only [cmpHolds, cmpLong]
      split
      case h_13 => rfl
      all_goals omega
    rw [compareBad, none_holds]
    rfl
  · simp [compareBad, combine]

/-- Settles O5: the trap by `issueAs_undefined`, since each instruction is an issue; the fields by what `issueOf` says of the encoding. -/
theorem undefinedTraps : Obligations.UndefinedTraps := by
  refine ⟨fun i s t p b n core able idle undef => ⟨fun plain => ?core, fun helper => ?helper⟩,
    fun t p => ⟨guardUndef_iff p, ?fields⟩⟩
  case core =>
    obtain ⟨body, run⟩ := exec_eq_issue core plain idle
    exact run.trans (issueAs_undefined false body able undef)
  case helper =>
    obtain ⟨u, rfl | ⟨m, rfl⟩, run⟩ := exec_helper_undefined core helper able idle undef
    · exact .inl run
    · exact .inr ⟨m, run⟩
  case fields =>
    refine ⟨fun rd rs rt named => ?_, fun pd rs rt cond comb reserved => ?_, fun rd rs pos len1 long => ?_, fun r off => ?_,
      fun gD gS => rfl, fun pd pa pb named => ?_, fun rd rs rt high => ?_, fun g r f => rfl⟩
    · simp only [issueOf, bne_iff_ne.mpr named, Bool.not_false, Bool.true_and, and_self]
    · simp [issueOf, compareBad_reserved reserved, formBytes]
    · simp [issueOf, fieldBad, long]
    · simp [issueOf, formBytes]
    · rw [issueOf, bne_iff_ne.mpr named]
    · simp [issueOf, shortBad, high, formBytes]

end Sys2Proof.Machine
end

section
/-! Proofs about the end of a task: what a trap, its handling and END leave of the thread, its task, its locks and its packet (R126 to R131,
R147, R176, R205, R230, R260). -/

namespace Sys2Proof.Machine

/-! ### A part of a station, a thread or a task that an update keeps -/

section
variable {α : Type} (s : State) (k : Nat)

theorem getStn_modStn_keeps (part : Station → α) {f : Station → Station} (kept : ∀ st, part (f st) = part st) (j : Nat) :
    part (getStn (modStn s k f) j) = part (getStn s j) := by
  by_cases same : j = k
  · rw [same, getStn_modStn_same, kept]
  · rw [getStn_modStn_ne s f same]

theorem getThr_modThr_keeps (part : Thread → α) {f : Thread → Thread} (kept : ∀ th, part (f th) = part th) (l j m : Nat) :
    part (getThr (modThr s k l f) j m) = part (getThr s j m) := by
  by_cases same : (j, m) = (k, l)
  · cases same; rw [getThr_modThr_same, kept]
  · rw [getThr_modThr_ne s f same]

theorem getTask_modTask_keeps (part : Task → α) {f : Task → Task} (kept : ∀ t, part (f t) = part t) (i j m : Nat) :
    part (getTask (modTask s k i f) j m) = part (getTask s j m) := by
  by_cases station : j = k
  · subst station
    by_cases task : m = i
    · rw [task, getTask_modTask_same, kept]
    · simp [getTask, modTask, sget_smod_ne _ _ _ task]
  · simp [getTask, modTask, getStn_modStn_ne _ _ station]

end

/-! ### Register writes that take effect at once (R148, R185) -/

/-- A context but for what a store to a thread control register writes (R148). -/
def Thread.sansCtl (th : Thread) : Thread := { th with preds := 0, wbank := 0, lkgrp := 0, tbase := 0, chsel := 0 }

/-- A task but for its event flags, which a store to FLAGCLR clears (R148). -/
def Task.sansFlags (t : Task) : Task := { t with flags := 0 }

/-- Parts of the device beside the stations: the locks that masters hold, table memory, the host interface, the fuses. -/
def aside (s : State) : List Held × Tables × HostIf × Fuses := (s.held, s.tbl, s.host, s.fuses)

theorem getStn_congr {s u : State} (same : u.stn = s.stn) (k : Nat) : getStn u k = getStn s k := by rw [getStn, same, getStn]

theorem getThr_congr {s u : State} (same : u.stn = s.stn) (k l : Nat) : getThr u k l = getThr s k l := by
  rw [getThr, getStn_congr same, getThr]

section
variable (s : State) (k l : Nat)

theorem ctlApply_thr (off : Nat) (v : BitVec 16) (j m : Nat) :
    (getThr (ctlApply s k l off v) j m).sansCtl = (getThr s j m).sansCtl := by
  unfold ctlApply
  split
  · rw [getThr_modTask]
  · refine getThr_modThr_keeps s k Thread.sansCtl (fun th => ?_) l j m
    split_ifs <;> rfl

theorem ctlApply_thr_ne (off : Nat) (v : BitVec 16) {j m : Nat} (other : (j, m) ≠ (k, l)) :
    getThr (ctlApply s k l off v) j m = getThr s j m := by
  unfold ctlApply
  split
  · rw [getThr_modTask]
  · rw [getThr_modThr_ne _ _ other]

theorem ctlApply_task (off : Nat) (v : BitVec 16) (j i : Nat) :
    (getTask (ctlApply s k l off v) j i).sansFlags = (getTask s j i).sansFlags := by
  unfold ctlApply
  split
  · exact getTask_modTask_keeps s k Task.sansFlags (f := fun t => { t with flags := t.flags &&& ~~~ v }) (fun _ => rfl) _ j i
  · rw [getTask_modThr]

theorem ctlApply_frame (off : Nat) (v : BitVec 16) :
    let u := ctlApply s k l off v
    (aside u, u.clk, u.datum, u.pkts) = (aside s, s.clk, s.datum, s.pkts) := by
  unfold ctlApply
  split <;> rfl

/-- What every register store keeps, the register stores of a thread that are taken at once keep. -/
theorem flushRegs_keeps {α : Type} (part : State → α) (delayed : ∀ d, part { s with delayed := d } = part s)
    (kept : ∀ u off v, part (ctlApply u k l off v) = part u) : part (flushRegs s k l) = part s := by
  unfold flushRegs
  dsimp only
  rw [foldl_keeps part, delayed]
  intro u e
  split
  · exact kept ..
  · rfl

theorem flushRegs_thr (j m : Nat) : (getThr (flushRegs s k l) j m).sansCtl = (getThr s j m).sansCtl :=
  flushRegs_keeps s k l (fun u => (getThr u j m).sansCtl) (fun _ => rfl) fun u off v => ctlApply_thr u k l off v j m

theorem flushRegs_thr_ne {j m : Nat} (other : (j, m) ≠ (k, l)) : getThr (flushRegs s k l) j m = getThr s j m :=
  flushRegs_keeps s k l (fun u => getThr u j m) (fun _ => rfl) fun u off v => ctlApply_thr_ne u k l off v other

theorem flushRegs_task (j i : Nat) : (getTask (flushRegs s k l) j i).sansFlags = (getTask s j i).sansFlags :=
  flushRegs_keeps s k l (fun u => (getTask u j i).sansFlags) (fun _ => rfl) fun u off v => ctlApply_task u k l off v j i

theorem flushRegs_frame :
    let u := flushRegs s k l
    (aside u, u.clk, u.datum, u.pkts) = (aside s, s.clk, s.datum, s.pkts) :=
  flushRegs_keeps s k l (fun u => (aside u, u.clk, u.datum, u.pkts)) (fun _ => rfl) fun u off v => ctlApply_frame u k l off v

theorem flushRegs_aside : aside (flushRegs s k l) = aside s := congrArg (·.1) (flushRegs_frame s k l)
theorem flushRegs_clk : (flushRegs s k l).clk = s.clk := congrArg (·.2.1) (flushRegs_frame s k l)
theorem flushRegs_datum : (flushRegs s k l).datum = s.datum := congrArg (·.2.2.1) (flushRegs_frame s k l)
theorem flushRegs_pkts : (flushRegs s k l).pkts = s.pkts := congrArg (·.2.2.2) (flushRegs_frame s k l)

end

/-! ### The start of a trap (R126, R129) -/

section
variable (s : State) (k l : Nat) (i : TrapInfo)

theorem takeTrap_stn : (takeTrap s k l i).stn = (modThr (flushRegs s k l) k l fun th =>
    { th with st := .trapped, trap := some (i, nowStamp s), squashAt := some (s.clk - 1) }).stn := by
  have stamp : nowStamp (flushRegs s k l) = nowStamp s := by rw [nowStamp, now, flushRegs_datum]; rfl
  unfold takeTrap delay
  dsimp only
  rw [stamp, flushRegs_clk]
  split <;> rfl

/-- The context of a thread that has trapped. -/
theorem takeTrap_thr : getThr (takeTrap s k l i) k l =
    { getThr (flushRegs s k l) k l with st := .trapped, trap := some (i, nowStamp s), squashAt := some (s.clk - 1) } := by
  rw [getThr_congr (takeTrap_stn s k l i), getThr_modThr_same]

theorem takeTrap_thr_ne {j m : Nat} (other : (j, m) ≠ (k, l)) : getThr (takeTrap s k l i) j m = getThr s j m := by
  rw [getThr_congr (takeTrap_stn s k l i), getThr_modThr_ne _ _ other, flushRegs_thr_ne s k l other]

theorem takeTrap_aside : aside (takeTrap s k l i) = aside s := by
  refine Eq.trans ?_ (flushRegs_aside s k l)
  unfold takeTrap delay aside
  dsimp only
  split <;> rfl

/-- The end of the handling falls due 16 cycles later (R129; log entry 72). -/
theorem takeTrap_delayed : (s.clk + trapCycles, Effect.trapEnd k l) ∈ (takeTrap s k l i).delayed := by
  unfold takeTrap delay
  dsimp only
  split <;> simp [flushRegs_clk]

end

/-! ### Locks, messages and helper lock of a thread (R205, R260, R269) -/

section
variable (s : State)

/-- Freeing held locks changes the lock words, the held lists and counters (R260). -/
theorem abandonLocks_aside (p : Held → Bool) :
    aside (abandonLocks s p) = (s.held.filter (fun h => !p h), s.tbl, s.host, s.fuses) :=
  Prod.ext rfl <| foldl_keeps (fun u : State => (u.tbl, u.host, u.fuses))
    (f := fun (u : State) (h : Held) => pinc (setLock u h.word 0x4000) (pidLockGroupAbandoned (h.word / 64)))
    (fun _ _ => rfl) (s.held.filter p) s

/-- The held locks but for those of one task. -/
def heldByOthers (m task : Nat) : List Held := s.held.filter fun h => !(h.master = m && h.task = task)

/-- A task whose locks are freed holds none. -/
theorem heldTask_of_heldByOthers {s u : State} {m task : Nat} (left : u.held = heldByOthers s m task) : heldTask u m task = [] := by
  rw [heldTask, left, heldByOthers, List.filter_filter, List.filter_eq_nil_iff]
  simp

variable (k l : Nat)

theorem argMin_mem {α : Type} {rank : α → Nat} {xs : List α} {x : α} (least : argMin rank xs = some x) : x ∈ xs := by
  induction xs generalizing x with
  | nil => cases least
  | cons y rest ih =>
    rw [argMin] at least
    split at least
    case h_1 => cases least; exact List.mem_cons_self
    case h_2 z found =>
      split at least
      · cases least; exact List.mem_cons_self
      · cases least; exact List.mem_cons_of_mem _ (ih found)

theorem grantHelper_stn (r : LockReq) : (grantHelper s k r).stn = (modStn s k fun st => { st with lockHolder := some r }).stn := by
  unfold grantHelper delay
  dsimp only
  rw [pmax_stn]
  rfl

theorem passHelper_aside : aside (passHelper s k) = aside s := by
  unfold passHelper grantHelper delay aside
  dsimp only
  split
  · rfl
  · simp only [pmax_held, pmax_tbl, pmax_host, pmax_fuses]
    rfl

theorem abandonHelper_aside : aside (abandonHelper s k l) = aside s := by
  unfold abandonHelper freeHelper
  dsimp only
  split
  · rw [passHelper_aside]; rfl
  · rfl

/-- The free lock passes to a request of the queue, or to none. -/
theorem getStn_passHelper : ∃ h q, getStn (passHelper s k) k = { getStn s k with lockHolder := h, lockQueue := q } ∧
    ∀ r, h = some r → r ∈ (getStn s k).lockQueue ∨ (getStn s k).lockHolder = some r := by
  unfold passHelper
  dsimp only
  split
  case h_1 => exact ⟨_, _, rfl, fun r held => .inr held⟩
  case h_2 r first =>
    refine ⟨some r, dropFirst (· == r) (getStn s k).lockQueue, ?_, fun x held => ?_⟩
    · rw [getStn_congr (grantHelper_stn _ _ _), getStn_modStn_same, getStn_modStn_same]
    · cases held
      exact .inl (argMin_mem first)

/-- When a lane loses the helper lock and its requests, station k keeps all but the lock, its queue and the job; another lane holds the
lock, or none. -/
theorem getStn_abandonHelper : ∃ h q x, getStn (abandonHelper s k l) k =
    { getStn s k with lockHolder := h, lockQueue := q, job := x } ∧ ∀ r, h = some r → r.lane ≠ l := by
  have others (r : LockReq) (waits : r ∈ (getStn (withdrawHelper s k l) k).lockQueue) : r.lane ≠ l := by
    rw [withdrawHelper, getStn_modStn_same] at waits
    simpa using (List.mem_filter.mp waits).2
  unfold abandonHelper
  dsimp only
  split
  case isTrue =>
    obtain ⟨h, q, passed, waited⟩ := getStn_passHelper
      (pinc (modStn (withdrawHelper s k l) k fun st => { st with lockHolder := none, job := none }) (pidHlpSHlockAbandoned k)) k
    rw [getStn_pinc, getStn_modStn_same] at passed waited
    refine ⟨h, q, none, ?_, fun r held => others r ?_⟩
    · rw [withdrawHelper, getStn_modStn_same] at passed
      exact passed
    · exact (waited r held).resolve_right nofun
  case isFalse free =>
    refine ⟨(getStn s k).lockHolder, _, _, by rw [withdrawHelper, getStn_modStn_same], fun r held lane => free ?_⟩
    rw [withdrawHelper, getStn_modStn_same]
    simp [holdsHelper, held, lane]

theorem getStn_abandonHelper_ne {j : Nat} (other : j ≠ k) : getStn (abandonHelper s k l) j = getStn s j := by
  have passed (u : State) : getStn (passHelper u k) j = getStn u j := by
    unfold passHelper
    dsimp only
    split
    · rfl
    · rw [getStn_congr (grantHelper_stn _ _ _), getStn_modStn_ne _ _ other, getStn_modStn_ne _ _ other]
  unfold abandonHelper freeHelper
  dsimp only
  split
  · rw [passed, if_pos rfl, getStn_pinc, getStn_modStn_ne _ _ other]
    exact getStn_modStn_ne _ _ other
  · exact getStn_modStn_ne _ _ other

/-- No context changes with the helper lock. -/
theorem getThr_abandonHelper (j m : Nat) : getThr (abandonHelper s k l) j m = getThr s j m := by
  by_cases same : j = k
  · obtain ⟨h, q, x, left, -⟩ := getStn_abandonHelper s k l
    rw [same, getThr, left]
    rfl
  · rw [getThr, getStn_abandonHelper_ne s k l same]
    rfl

theorem holdsHelper_abandonHelper : holdsHelper (getStn (abandonHelper s k l) k) l = false := by
  obtain ⟨h, q, x, left, others⟩ := getStn_abandonHelper s k l
  rw [left, holdsHelper]
  cases h with
  | none => rfl
  | some r => simpa using others r rfl

/-- Who holds the helper lock is read from the station's lock alone (R205). -/
theorem holdsHelper_congr {st st' : Station} (same : st.lockHolder = st'.lockHolder) (l : Nat) : holdsHelper st l = holdsHelper st' l := by
  unfold holdsHelper
  rw [same]

theorem abortOpen_aside : aside (abortOpen s k l) = aside s := by
  unfold abortOpen
  split <;> rfl

theorem abortOpen_thr : getThr (abortOpen s k l) k l = { getThr s k l with openMsg := none } := by
  unfold abortOpen
  split
  case h_1 closed => rw [← closed]
  case h_2 => rw [getThr_modThr_same]; rfl

theorem abortOpen_thr_ne {j m : Nat} (other : (j, m) ≠ (k, l)) : getThr (abortOpen s k l) j m = getThr s j m := by
  unfold abortOpen
  split
  · rfl
  · rw [getThr_modThr_ne _ _ other]; rfl

/-- An abort of an open message leaves of the stations all but the thread's context. -/
theorem abortOpen_stnRest (j : Nat) : stnRest (getStn (abortOpen s k l) j) = stnRest (getStn s j) := by
  unfold abortOpen
  split
  · rfl
  · rw [stnRest_modThr]; rfl

theorem abortOpen_lockHolder (j : Nat) : (getStn (abortOpen s k l) j).lockHolder = (getStn s j).lockHolder := by
  have same := congrArg Station.lockHolder (abortOpen_stnRest s k l j)
  exact same

end

/-! ### The tasks of a pass (R129, R130, R230, R245) -/

/-- A station but for its task store and its shelf. -/
def Station.sansTasks (st : Station) : Station := { st with tasks := [], shelf := [], emptyAt := none }

/-- From s to u the stations have changed in their task stores and shelves only, and the parts aside not at all. -/
def TasksOnly (s u : State) : Prop :=
  aside u = aside s ∧ ∀ j, (getStn u j).sansTasks = (getStn s j).sansTasks

section
variable {s u v : State}

theorem TasksOnly.trans (first : TasksOnly s u) (second : TasksOnly u v) : TasksOnly s v :=
  ⟨second.1.trans first.1, fun j => (second.2 j).trans (first.2 j)⟩

theorem TasksOnly.getThr_eq (only : TasksOnly s u) (j m : Nat) : getThr u j m = getThr s j m := by
  have same := congrArg Station.threads (only.2 j)
  exact congrArg (fun ths => sget ({} : Thread) ths m) same

theorem TasksOnly.tbl_eq (only : TasksOnly s u) : u.tbl = s.tbl := congrArg (·.2.1) only.1

theorem TasksOnly.holdsHelper_eq (only : TasksOnly s u) (j l : Nat) : holdsHelper (getStn u j) l = holdsHelper (getStn s j) l :=
  holdsHelper_congr (congrArg Station.lockHolder (only.2 j)) l

variable (s) (k : Nat)

theorem tasksOnly_modStn {f : Station → Station} (kept : ∀ st, (f st).sansTasks = st.sansTasks) : TasksOnly s (modStn s k f) :=
  ⟨rfl, getStn_modStn_keeps s k Station.sansTasks kept⟩

theorem tasksOnly_modTask (i : Nat) (f : Task → Task) : TasksOnly s (modTask s k i f) := tasksOnly_modStn s k fun _ => rfl

theorem tasksOnly_cancelTasks (i : Nat) (p : Task → Bool) : TasksOnly s (modStn s k fun st => cancelTasks st i p) :=
  tasksOnly_modStn s k fun _ => rfl

theorem tasksOnly_modPkt (i : Nat) (f : Packet → Packet) : TasksOnly s (modPkt s i f) :=
  ⟨by rw [modPkt_eq]; rfl, fun j => by rw [modPkt_eq]; rfl⟩

theorem tasksOnly_completePkt (i : Nat) : TasksOnly s (completePkt s i) := by
  unfold completePkt modHalf
  split
  · exact ⟨rfl, fun _ => rfl⟩
  · dsimp only
    split <;> exact ⟨rfl, fun _ => rfl⟩

theorem tasksOnly_checkPass (i : Nat) : TasksOnly s (checkPass s k i) := by
  unfold checkPass
  dsimp only
  split
  · refine (tasksOnly_modStn s k fun st => ?_).trans (tasksOnly_completePkt _ i)
    unfold freePass closeStore
    split <;> rfl
  · exact ⟨rfl, fun _ => rfl⟩

theorem tasksOnly_trapSnapshot (l : Nat) (i : TrapInfo) (stamp : Nat) : TasksOnly s (trapSnapshot s k l i stamp).1 := by
  unfold trapSnapshot
  split
  · exact ⟨rfl, fun _ => rfl⟩
  · exact tasksOnly_modStn s k fun _ => rfl

end

/-! ### The end of a trap's handling (R129) -/

section
variable (s : State) (k l : Nat)

/-- Step 2 of R129: the locks of the thread's task, the helper lock and the open message are given up. -/
def trapReleased : State := abortOpen (abandonHelper (abandonTask s (masterId k l) (getThr s k l).task) k l) k l

/-- Steps 3 and 4 of R129: the snapshot, the packet's record, and the ends of the task and of those that wait for it. -/
def trapRecorded (u : State) (i : TrapInfo × Nat) : State :=
  let t := thrTask s k l
  let x := trapSnapshot u k l i.1 i.2
  modStn (modTask (modPkt x.1 t.pkt fun p => trapPkt p x.2 (trapDisposition s t)) k (getThr s k l).task
    fun t => { t with st := .done, cancelled := true }) k fun st => cancelTasks st t.pkt fun t => t.st = .pending || t.st = .ready

theorem endTrap_eq {i : TrapInfo × Nat} (trapped : (getThr s k l).trap = some i) : endTrap s k l =
    haltBoundary (checkPass (modThr (trapRecorded s k l (trapReleased s k l) i) k l fun th => { idleThread th with trap := none })
      k (thrTask s k l).pkt) k l := by
  obtain ⟨info, stamp⟩ := i
  rw [endTrap, trapped]
  rfl

theorem tasksOnly_trapRecorded (u : State) (i : TrapInfo × Nat) : TasksOnly u (trapRecorded s k l u i) := by
  unfold trapRecorded
  exact (tasksOnly_trapSnapshot u k l i.1 i.2).trans <| (tasksOnly_modPkt _ _ _).trans <|
    (tasksOnly_modTask _ k _ _).trans <| tasksOnly_cancelTasks _ k _ _

theorem getThr_abandonTask (m task j n : Nat) : getThr (abandonTask s m task) j n = getThr s j n := by
  rw [abandonTask, getThr, getStn, abandonLocks_stn]
  rfl

theorem trapReleased_thr : getThr (trapReleased s k l) k l = { getThr s k l with openMsg := none } := by
  rw [trapReleased, abortOpen_thr, getThr_abandonHelper, getThr_abandonTask]

theorem trapReleased_thr_ne {j m : Nat} (other : (j, m) ≠ (k, l)) : getThr (trapReleased s k l) j m = getThr s j m := by
  rw [trapReleased, abortOpen_thr_ne _ _ _ other, getThr_abandonHelper, getThr_abandonTask]

theorem trapReleased_aside : aside (trapReleased s k l) =
    (heldByOthers s (masterId k l) (getThr s k l).task, s.tbl, s.host, s.fuses) := by
  rw [trapReleased, abortOpen_aside, abandonHelper_aside, abandonTask, abandonLocks_aside, heldByOthers]

theorem trapReleased_helper : holdsHelper (getStn (trapReleased s k l) k) l = false := by
  rw [trapReleased, holdsHelper_congr (abortOpen_lockHolder _ k l k), holdsHelper_abandonHelper]

section
variable {i : TrapInfo × Nat} (trapped : (getThr s k l).trap = some i) (unhalted : (getThr s k l).halt = none)
include trapped unhalted

/-- The state after the handling of a trap of a thread that no debugger is halting: the thread is idle, and beside it only tasks, snapshots
and packets have changed since its locks were given up. -/
theorem endTrap_only : ∃ u, TasksOnly (trapReleased s k l) u ∧
    TasksOnly (modThr u k l fun th => { idleThread th with trap := none }) (endTrap s k l) := by
  refine ⟨trapRecorded s k l (trapReleased s k l) i, tasksOnly_trapRecorded s k l _ i, ?_⟩
  have passed := tasksOnly_checkPass (modThr (trapRecorded s k l (trapReleased s k l) i) k l fun th =>
    { idleThread th with trap := none }) k (thrTask s k l).pkt
  have still : (getThr (checkPass (modThr (trapRecorded s k l (trapReleased s k l) i) k l fun th =>
      { idleThread th with trap := none }) k (thrTask s k l).pkt) k l).halt = none := by
    rw [passed.getThr_eq, getThr_modThr_same, (tasksOnly_trapRecorded s k l _ i).getThr_eq, trapReleased_thr]
    exact unhalted
  rw [endTrap_eq s k l trapped, haltBoundary_none _ _ _ still]
  exact passed

theorem endTrap_thr : getThr (endTrap s k l) k l = { idleThread { getThr s k l with openMsg := none } with trap := none } := by
  obtain ⟨u, recorded, ended⟩ := endTrap_only s k l trapped unhalted
  rw [ended.getThr_eq, getThr_modThr_same, recorded.getThr_eq, trapReleased_thr]

theorem endTrap_thr_ne {j m : Nat} (other : (j, m) ≠ (k, l)) : getThr (endTrap s k l) j m = getThr s j m := by
  obtain ⟨u, recorded, ended⟩ := endTrap_only s k l trapped unhalted
  rw [ended.getThr_eq, getThr_modThr_ne _ _ other, recorded.getThr_eq, trapReleased_thr_ne s k l other]

theorem endTrap_aside : aside (endTrap s k l) =
    (heldByOthers s (masterId k l) (getThr s k l).task, s.tbl, s.host, s.fuses) := by
  obtain ⟨u, recorded, ended⟩ := endTrap_only s k l trapped unhalted
  exact ended.1.trans (recorded.1.trans (trapReleased_aside s k l))

theorem endTrap_helper : holdsHelper (getStn (endTrap s k l) k) l = false := by
  obtain ⟨u, recorded, ended⟩ := endTrap_only s k l trapped unhalted
  have lock : holdsHelper (getStn (modThr u k l fun th => { idleThread th with trap := none }) k) l = holdsHelper (getStn u k) l :=
    holdsHelper_congr (congrArg Station.lockHolder (stnRest_modThr u k l k _)) l
  rw [ended.holdsHelper_eq, lock, recorded.holdsHelper_eq, trapReleased_helper]

end

end

/-- Settles O6: the start from what `takeTrap` leaves, the end from `endTrap_only`, whose steps change only what R129 names. -/
theorem trapTaken : Obligations.TrapTaken := by
  refine ⟨fun s k l i => ?taken, fun s k l i trapped unhalted => ?ended⟩
  case taken =>
    have context := takeTrap_thr s k l i
    have regs := congrArg Thread.g (flushRegs_thr s k l k l)
    have pc := congrArg Thread.pc (flushRegs_thr s k l k l)
    have frame := takeTrap_aside s k l i
    dsimp only
    rw [context]
    exact ⟨rfl, rfl, regs, pc, takeTrap_delayed s k l i, fun j m => takeTrap_thr_ne s k l i,
      congrArg (·.2.1) frame, congrArg (·.2.2.1) frame, congrArg (·.2.2.2) frame⟩
  case ended =>
    have context := endTrap_thr s k l trapped unhalted
    have frame := endTrap_aside s k l trapped unhalted
    dsimp only
    rw [context]
    exact ⟨rfl, rfl, rfl, rfl, rfl, heldTask_of_heldByOthers (congrArg (·.1) frame), endTrap_helper s k l trapped unhalted,
      fun j m => endTrap_thr_ne s k l trapped unhalted, congrArg (·.2.1) frame, congrArg (·.2.2.1) frame, congrArg (·.2.2.2) frame⟩

end Sys2Proof.Machine
end

section
/-! Proofs about END and TRAP: the end of issue, the completion of the task with the write-back of its stores, and TRAP_INSN (R147, R176,
R177, R260). -/

namespace Sys2Proof.Machine

/-! ### END ends issue (R176) -/

section
variable (s : State) (t : Tid)

theorem issuedState_clk (n : Nat) : (issuedState s t n).clk = s.clk := by
  have only : StnPar s (issuedState s t n) := stnPar_modStn (useSlot_stnPar s t.stn.val (tlane t)) t.stn.val _
  rw [only]

theorem issuedThr_endAt (n : Nat) : (issuedThr s t n).endAt = (thrOf s t).endAt := by
  unfold issuedThr advance
  split <;> rfl

theorem endInsn_gives (p : Guard) (f : Form) (runs : Runs s t p) (defined : shortBad f p [] = false) :
    Gives (.endInsn t p f) s t
      { issuedThr s t (formBytes f) with ended := true, endAt := max (thrOf s t).endAt (s.clk - commitCycles + 8) } := by
  have only := onlyThread_issued s t (formBytes f) fun th =>
    { th with ended := true, endAt := max th.endAt (s.clk - commitCycles + 8) }
  rw [issuedThr_endAt] at only
  refine ⟨_, ?_, only⟩
  have unhalted : (getThr (modThr (issuedState s t (formBytes f)) t.stn.val (tlane t) fun th =>
      { th with ended := true, endAt := max th.endAt (s.clk - commitCycles + 8) }) t.stn.val (tlane t)).halt = none := by
    have context := only.1
    rw [thrOf] at context
    rw [context]
    exact (issuedThr_halt s t _).trans runs.1.2
  have run : exec (.endInsn t p f) s = execEndInsn t p f s := rfl
  rw [run, execEndInsn, defined]
  refine (issue_runs s t p _ _ runs).trans ?_
  rw [issuedState_clk]
  exact congrArg Host.Outcome.next (haltBoundary_none _ _ _ unhalted)

theorem trap_traps (p : Guard) (code : BitVec 8) (runs : Runs s t p) :
    exec (.trap t p code) s = .next (takeTrap (useSlot s t.stn.val (tlane t)) t.stn.val (tlane t) (trapInsn code.toNat)) :=
  issue_runs s t p 4 (fun _ => .error (trapInsn code.toNat)) runs

end

/-! ### What reports and events leave (R415, R433) -/

/-- A state but for what a report to the aggregator, an entry of the log or a reply may change. -/
def unreported (s : State) : State :=
  { s with
    par := [], hbm := State.reset.hbm, host := State.reset.host, flt := State.reset.flt, fw := State.reset.fw
    store := { s.store with log := [] } }

section
variable (s : State)

theorem logEvent_unreported (code cls : Nat) (detail : List Byte) : unreported (logEvent s code cls detail) = unreported s := by
  rw [logEvent_eq]
  rfl

theorem settleAttn_unreported : unreported (settleAttn s) = unreported s := by
  rw [settleAttn_eq]
  rfl

theorem settleBounds_unreported (s0 : State) : unreported (settleBounds s0 s) = unreported s := by
  rw [settleBounds_eq]
  rfl

variable (src ty : Nat)

theorem rewriteEntry_unreported (p : Pair) : unreported (rewriteEntry s src ty p) = unreported s := by
  unfold rewriteEntry
  dsimp only
  split <;> rfl

theorem closeWindow_unreported : unreported (closeWindow s src ty) = unreported s := by
  unfold closeWindow
  dsimp only
  split
  · rfl
  · split
    · split
      · rw [rewriteEntry_unreported]; rfl
      · rfl
    · rfl

theorem report_unreported (cls reporter a0 a1 a2 : Nat) : unreported (report s src ty cls reporter a0 a1 a2) = unreported s := by
  have faults (u : State) (f : Faults) : unreported { u with flt := f } = unreported u := rfl
  have fatal (u : State) : unreported (enterFatal u) = unreported u := rfl
  have pair (u : State) (p : Pair) : unreported (setPair u src ty p) = unreported u := rfl
  have counted (u : State) (id : Nat) : unreported (psat u id) = unreported u := rfl
  simp only [report, settleAttn_unreported, apply_ite unreported, fatal, faults, logEvent_unreported, pair, closeWindow_unreported,
    counted, ite_self]

end

/-! ### The completion of a task (R147, R176, R260) -/

section
variable (s : State) (k l : Nat)

/-- The stations, the packets and table memory. -/
def stationsPacketsTables (s : State) : Sparse Station × Sparse (Option Packet) × Tables := (s.stn, s.pkts, s.tbl)

theorem report_keeps (src ty cls reporter a0 a1 a2 : Nat) :
    stationsPacketsTables (report s src ty cls reporter a0 a1 a2) = stationsPacketsTables s := by
  have kept := congrArg stationsPacketsTables (report_unreported s src ty cls reporter a0 a1 a2)
  exact kept

/-- The locks freed at the end and their reports leave stations, packets and table memory (R260). -/
theorem freeAtEnd_keeps : stationsPacketsTables (freeAtEnd s k l) = stationsPacketsTables s := by
  have freed (p : Held → Bool) : stationsPacketsTables (pinc (abandonLocks s p) pidLockEndHeld) = stationsPacketsTables s :=
    foldl_keeps stationsPacketsTables
      (f := fun (u : State) (h : Held) => pinc (setLock u h.word 0x4000) (pidLockGroupAbandoned (h.word / 64))) (fun _ _ => rfl) (s.held.filter p) s
  unfold freeAtEnd
  dsimp only
  split
  · rfl
  · exact (foldl_keeps stationsPacketsTables (fun u h => report_keeps u ..) _ _).trans (freed _)

theorem notifySuccessors_keeps (pkt node : Nat) : stationsPacketsTables (notifySuccessors s k pkt node) = stationsPacketsTables s :=
  foldl_keeps stationsPacketsTables (fun u kt => by split <;> rfl) _ s

/-- A complete pass keeps the windows of its packet (R245). -/
theorem checkPass_getPkt {i : Nat} {p : Packet} (present : getPkt s i = some p) :
    ∃ p', getPkt (checkPass s k i) i = some p' ∧ p'.head = p.head ∧ p'.desc = p.desc := by
  unfold checkPass
  dsimp only
  split
  · have still : getPkt (modStn s k fun st => freePass s.clk st i) i = some p := present
    unfold completePkt modHalf
    rw [still]
    dsimp only
    split <;> exact ⟨_, getPkt_setPkt_same .., rfl, rfl⟩
  · exact ⟨p, present, rfl, rfl⟩

/-- The write-back reads of a context what no store to a control register writes (R147). -/
theorem writeBack_sansCtl (p : Packet) (th : Thread) : writeBack p th.sansCtl l = writeBack p th l := rfl

/-- The packets when the task of a lane has written back what it stored (R130, R147). -/
def writtenBack (s : State) (k l : Nat) : State :=
  let t := thrTask s k l
  modPkt s t.pkt fun p => if t.cancelled || p.trap.isSome then p else writeBack p (getThr s k l) l

/-- The state before the end of the pass is examined: the task DONE, its successors told, the thread idle (R176, R225, R260). -/
def taskEnded (s : State) (k l : Nat) : State :=
  let th := getThr s k l
  let t := getTask s k th.task
  let ended := modTask (freeAtEnd (writtenBack s k l) k l) k th.task fun t => { t with st := .done, mask := 0 }
  modThr (notifySuccessors ended k t.pkt t.node) k l fun th => { idleThread th with openMsg := th.openMsg }

theorem completeTask_eq : completeTask s k l = haltBoundary (checkPass (taskEnded (flushRegs s k l) k l) k
    (thrTask (flushRegs s k l) k l).pkt) k l := rfl

theorem writtenBack_eq : writtenBack s k l = { s with pkts := (writtenBack s k l).pkts } := modPkt_eq ..

/-- Beside the contexts and tasks of its station, the end of a task changes what the write-back changes; table memory stays. -/
theorem taskEnded_frame : (taskEnded s k l).pkts = (writtenBack s k l).pkts ∧ (taskEnded s k l).tbl = s.tbl := by
  have freed := freeAtEnd_keeps (writtenBack s k l) k l
  have told := notifySuccessors_keeps (modTask (freeAtEnd (writtenBack s k l) k l) k (getThr s k l).task fun t =>
    { t with st := .done, mask := 0 }) k (thrTask s k l).pkt (thrTask s k l).node
  have tables : (writtenBack s k l).tbl = s.tbl := by rw [writtenBack_eq]
  exact ⟨(congrArg (·.2.1) told).trans (congrArg (·.2.1) freed),
    (congrArg (·.2.2) told).trans ((congrArg (·.2.2) freed).trans tables)⟩

theorem taskEnded_thr : getThr (taskEnded s k l) k l = { idleThread (getThr s k l) with openMsg := (getThr s k l).openMsg } := by
  have told (u : State) (pkt node : Nat) : getThr (notifySuccessors u k pkt node) k l = getThr u k l :=
    getThr_congr (congrArg (·.1) (notifySuccessors_keeps u k pkt node)) k l
  have freed : getThr (freeAtEnd (writtenBack s k l) k l) k l = getThr (writtenBack s k l) k l :=
    getThr_congr (congrArg (·.1) (freeAtEnd_keeps (writtenBack s k l) k l)) k l
  have written : getThr (writtenBack s k l) k l = getThr s k l := getThr_congr (by rw [writtenBack_eq]) k l
  rw [taskEnded, getThr_modThr_same, told, getThr_modTask, freed, written]

/-- A packet whose task has written back, before a sibling trapped (R130, R147). -/
theorem writtenBack_getPkt {p : Packet} (present : getPkt s (thrTask s k l).pkt = some p) (clean : p.trap = none)
    (live : (thrTask s k l).cancelled = false) :
    getPkt (writtenBack s k l) (thrTask s k l).pkt = some (writeBack p (getThr s k l) l) := by
  rw [writtenBack, modPkt, present]
  simp only [live, clean, Option.isSome_none, Bool.or_self, Bool.false_eq_true, if_false]
  exact getPkt_setPkt_same ..

theorem flushRegs_thrTask : (thrTask (flushRegs s k l) k l).sansFlags = (thrTask s k l).sansFlags := by
  have task : (getThr (flushRegs s k l) k l).task = (getThr s k l).task := by
    have same := congrArg Thread.task (flushRegs_thr s k l k l)
    exact same
  rw [thrTask, task, flushRegs_task, thrTask]

section
variable (unhalted : (getThr s k l).halt = none)
include unhalted

/-- The completion of a task that no debugger halts. -/
theorem completeTask_unhalted :
    completeTask s k l = checkPass (taskEnded (flushRegs s k l) k l) k (thrTask (flushRegs s k l) k l).pkt := by
  have flushed := congrArg Thread.halt (flushRegs_thr s k l k l)
  rw [completeTask_eq, haltBoundary_none]
  rw [(tasksOnly_checkPass _ _ _).getThr_eq, taskEnded_thr]
  exact Eq.trans flushed unhalted

theorem completeTask_thr : getThr (completeTask s k l) k l =
    { idleThread (getThr (flushRegs s k l) k l) with openMsg := (getThr (flushRegs s k l) k l).openMsg } := by
  rw [completeTask_unhalted s k l unhalted, (tasksOnly_checkPass _ _ _).getThr_eq, taskEnded_thr]

theorem completeTask_tbl : (completeTask s k l).tbl = s.tbl := by
  have flushed : (flushRegs s k l).tbl = s.tbl := congrArg (·.2.1) (flushRegs_aside s k l)
  rw [completeTask_unhalted s k l unhalted, (tasksOnly_checkPass _ _ _).tbl_eq, (taskEnded_frame _ _ _).2, flushed]

/-- The task's stores are in the packet's windows (R147). -/
theorem completeTask_getPkt {p : Packet} (present : getPkt s (thrTask s k l).pkt = some p) (clean : p.trap = none)
    (live : (thrTask s k l).cancelled = false) : ∃ p', getPkt (completeTask s k l) (thrTask s k l).pkt = some p' ∧
      p'.head = (writeBack p (getThr s k l) l).head ∧ p'.desc = (writeBack p (getThr s k l) l).desc := by
  have pkt : (thrTask (flushRegs s k l) k l).pkt = (thrTask s k l).pkt := by
    have same := congrArg Task.pkt (flushRegs_thrTask s k l)
    exact same
  have live' : (thrTask (flushRegs s k l) k l).cancelled = false := by
    have same := congrArg Task.cancelled (flushRegs_thrTask s k l)
    exact Eq.trans same live
  have present' : getPkt (flushRegs s k l) (thrTask (flushRegs s k l) k l).pkt = some p := by
    rw [pkt, getPkt, flushRegs_pkts]
    exact present
  have written := writtenBack_getPkt (flushRegs s k l) k l present' clean live'
  have ended : getPkt (taskEnded (flushRegs s k l) k l) (thrTask (flushRegs s k l) k l).pkt =
      some (writeBack p (getThr (flushRegs s k l) k l) l) := by
    rw [getPkt, (taskEnded_frame _ _ _).1]
    exact written
  have copies : writeBack p (getThr (flushRegs s k l) k l) l = writeBack p (getThr s k l) l := by
    rw [← writeBack_sansCtl, flushRegs_thr, writeBack_sansCtl]
  rw [completeTask_unhalted s k l unhalted, ← copies, ← pkt]
  exact checkPass_getPkt _ k ended

end

end

theorem exec_taskComplete (s : State) (t : Tid) (running : (thrOf s t).st = .running) (ended : (thrOf s t).ended = true) :
    exec (.taskComplete t) s =
      .next (if (thrOf s t).endAt ≤ s.clk then completeTask s t.stn.val (tlane t) else s) := by
  have run : exec (.taskComplete t) s = execTaskComplete t s := rfl
  rw [thrOf] at running ended
  by_cases due : (thrOf s t).endAt ≤ s.clk
  · rw [if_pos due]
    rw [thrOf] at due
    simp [run, execTaskComplete, running, ended, due]
  · rw [if_neg due]
    rw [thrOf] at due
    simp [run, execTaskComplete, running, ended, due]

/-- Settles O22: END by the rule for an instruction that changes its own context, the completion part by part, TRAP by the rule of its
issue. -/
theorem endAndTrap : Obligations.EndAndTrap := by
  refine ⟨endInsn_gives, fun s t running ended unhalted => ⟨fun early => ?waits, fun due => ?completes⟩, trap_traps⟩
  case waits => rw [exec_taskComplete s t running ended, if_neg (Nat.not_le.mpr early)]
  case completes =>
    have context := completeTask_thr s t.stn.val (tlane t) unhalted
    have registers := congrArg Thread.g (flushRegs_thr s t.stn.val (tlane t) t.stn.val (tlane t))
    refine ⟨_, by rw [exec_taskComplete s t running ended, if_pos due], congrArg Thread.st context, congrArg Thread.ended context,
      fun r => ?_, completeTask_tbl _ _ _ unhalted, fun pk => completeTask_getPkt _ _ _ unhalted⟩
    rw [thrOf, thrOf, context]
    exact congrArg (fun g => if r = 0 then 0 else sget 0 g r.toNat) registers

end Sys2Proof.Machine
end

section
/-! Proofs about stations that leave service and return to it: fault abort, drains, preparations and the spare's check
(R132 to R141, R260, R379). -/

namespace Sys2Proof.Machine

/-! ### What reports, events and replies leave of the stations -/

/-- The stations, the vacant roles, the preparation in progress and the stations remembered as failed. -/
def stationState (s : State) : Sparse Station × List Nat × Option Prep × BitVec 17 := (s.stn, s.vacant, s.prep, s.store.failed)

theorem stationState_congr {s u : State} (same : unreported u = unreported s) : stationState u = stationState s := by
  have kept := congrArg stationState same
  exact kept

section
variable (s : State)

theorem logEvent_stations (code cls : Nat) (detail : List Byte) : stationState (logEvent s code cls detail) = stationState s :=
  stationState_congr (logEvent_unreported ..)

theorem logEvent_stn (code cls : Nat) (detail : List Byte) : (logEvent s code cls detail).stn = s.stn :=
  congrArg (·.1) (logEvent_stations s code cls detail)

theorem logEvent_prep (code cls : Nat) (detail : List Byte) : (logEvent s code cls detail).prep = s.prep :=
  congrArg (·.2.2.1) (logEvent_stations s code cls detail)

theorem settleBounds_stations (s0 : State) : stationState (settleBounds s0 s) = stationState s :=
  stationState_congr (settleBounds_unreported ..)

theorem settleBounds_stn (s0 : State) : (settleBounds s0 s).stn = s.stn := congrArg (·.1) (settleBounds_stations s s0)

theorem report_stations (src ty cls reporter a0 a1 a2 : Nat) : stationState (report s src ty cls reporter a0 a1 a2) = stationState s :=
  stationState_congr (report_unreported ..)

theorem replyReadmit_stations (h : Option CmdHdr) (st : Nat) : stationState (replyReadmit s h st) = stationState s := by
  unfold replyReadmit
  split <;> rfl

theorem replyReadmit_stn (h : Option CmdHdr) (st : Nat) : (replyReadmit s h st).stn = s.stn :=
  congrArg (·.1) (replyReadmit_stations s h st)

theorem replyReadmit_vacant (h : Option CmdHdr) (st : Nat) : (replyReadmit s h st).vacant = s.vacant :=
  congrArg (·.2.1) (replyReadmit_stations s h st)

theorem reportStation_stations (k : Nat) (e : StnError) (addr : Nat) : stationState (reportStation s k e addr) = stationState s := by
  unfold reportStation
  split <;> exact report_stations ..

theorem dropCommit_stations : stationState (dropCommit s) = stationState s := by
  unfold dropCommit
  split <;> rfl

end

/-- A station that was written anew reads as written. -/
theorem getStn_of_write {s u : State} {k : Nat} {x : Station} (written : u.stn = sset {} s.stn k x) : getStn u k = x := by
  rw [getStn, written, sget_sset_same]

theorem getStn_of_write_ne {s u : State} {k j : Nat} {x : Station} (written : u.stn = sset {} s.stn k x) (other : j ≠ k) :
    getStn u j = getStn s j := by
  rw [getStn, written, sget_sset_ne _ _ _ _ other, getStn]

/-! ### A station that leaves service (R133, R134) -/

section
variable (s : State) (k : Nat)

/-- A station that is put out is in no role, and its drain is over. -/
theorem getStn_putOut (x : Nat) :
    (getStn (putOut s k x) k).st = x ∧ (getStn (putOut s k x) k).role = roleNone ∧ (getStn (putOut s k x) k).drain = none := by
  rw [putOut, getStn_modStn_same]
  exact ⟨rfl, rfl, rfl⟩

theorem getStn_putOut_ne (x : Nat) {j : Nat} (other : j ≠ k) : getStn (putOut s k x) j = getStn s j := getStn_modStn_ne _ _ other

/-- From s to u station k has failed: it is in no role and remembered as failed, and the other stations are as they were (R133, R140). -/
def StationFailed (s u : State) (k : Nat) : Prop :=
  (getStn u k).st = ssFailed ∧ (getStn u k).role = roleNone ∧ u.store.failed.getLsbD k = true ∧
    ∀ j, j ≠ k → getStn u j = getStn s j

variable {s k} {u v : State}

theorem StationFailed.congr_right (failed : StationFailed s u k) (same : stationState v = stationState u) : StationFailed s v k := by
  have stations : v.stn = u.stn := congrArg (·.1) same
  have marks : v.store.failed = u.store.failed := congrArg (·.2.2.2) same
  obtain ⟨st, role, mark, others⟩ := failed
  rw [← getStn_congr stations k] at st role
  rw [← marks] at mark
  exact ⟨st, role, mark, fun j other => (getStn_congr stations j).trans (others j other)⟩

theorem StationFailed.congr_left (failed : StationFailed v u k) (others : ∀ j, j ≠ k → getStn v j = getStn s j) :
    StationFailed s u k := by
  obtain ⟨st, role, mark, kept⟩ := failed
  exact ⟨st, role, mark, fun j other => (kept j other).trans (others j other)⟩

variable (s)

/-- The mark of a station in the failed list. -/
theorem listFailed_mark (station : k < 17) : (listFailed s k).store.failed.getLsbD k = true := by
  have mark : (listFailed s k).store.failed = s.store.failed ||| BitVec.ofNat 17 (2 ^ k) := rfl
  rw [mark, BitVec.getLsbD_or, BitVec.getLsbD_ofNat, Nat.testBit_two_pow_self]
  simp [station]

theorem listFailed_failed (station : k < 17) : StationFailed s (listFailed (putOut s k ssFailed) k) k := by
  obtain ⟨st, role, -⟩ := getStn_putOut s k ssFailed
  exact ⟨st, role, listFailed_mark _ station, fun j other => getStn_putOut_ne s k ssFailed other⟩

theorem failStation_failed (station : k < 17) (packets : Nat) : StationFailed s (failStation s k packets) k :=
  (listFailed_failed s station).congr_right (logEvent_stations ..)

/-- The commands and tasks of an aborted station touch no other station (R133). -/
theorem abortLane_others (k l : Nat) {j : Nat} (other : j ≠ k) : getStn (abortLane s k l) j = getStn s j := by
  have opened (u : State) : getStn (abortOpen u k l) j = getStn u j := by
    unfold abortOpen
    split
    · rfl
    · exact getStn_modStn_ne _ _ other
  have freed : getStn (abortOpen (abandonHelper (abandonMaster s (masterId k l)) k l) k l) j = getStn s j := by
    rw [opened, getStn_abandonHelper_ne _ _ _ other, abandonMaster, getStn_congr (abandonLocks_stn ..)]
  have message (u : State) (half ch : Nat) : getStn (chanAbort u half ch) j = getStn u j := rfl
  unfold abortLane
  dsimp only
  split
  · split
    · rw [message, freed]
    · exact freed
  · exact freed

theorem endHalt_stn (k l : Nat) : (endHalt s k l).stn = s.stn := by
  unfold endHalt
  split
  · rfl
  · split <;> rfl

theorem abortPacket_stn (i : Nat) : (abortPacket s i).stn = s.stn := by
  unfold abortPacket completePkt modHalf
  split
  · rw [modPkt_eq]
  · dsimp only
    split <;> rw [modPkt_eq] <;> rfl

theorem abortTasks_others (k : Nat) {j : Nat} (other : j ≠ k) : getStn (abortTasks s k).1 j = getStn s j := by
  have lanes (ls : List Nat) : getStn (ls.foldl (fun u l => abortLane (endHalt u k l) k l) s) j = getStn s j :=
    foldl_keeps (fun u => getStn u j)
      (fun u l => (abortLane_others _ k l other).trans (getStn_congr (endHalt_stn u k l) j)) ls s
  have packets (ps : List Nat) (u : State) : getStn (ps.foldl abortPacket u) j = getStn u j :=
    foldl_keeps (fun u => getStn u j) (fun u i => getStn_congr (abortPacket_stn u i) j) ps u
  have effects (u : State) (d : List (Nat × Effect)) : getStn { u with delayed := d } j = getStn u j := rfl
  unfold abortTasks
  dsimp only
  generalize List.range 96 = ls
  rw [getStn_pcount, packets, effects, getStn_modStn_ne _ _ other, lanes]

/-- The fault abort of a station in service, draining, preparing or spare (R133, R135, R137). -/
theorem faultAbort_failed (station : k < 17) (active : (getStn s k).st = ssInService ∨ (getStn s k).st = ssDraining ∨
    (getStn s k).st = ssPreparing ∨ (getStn s k).st = ssSpare) : StationFailed s (faultAbort s k) k := by
  have left (u : State) (j : Nat) : getStn (leaveRole (dropCommit u) k) j = getStn u j :=
    getStn_congr (congrArg (·.1) (dropCommit_stations u)) j
  have aborted (u : State) (same : ∀ j, getStn u j = getStn s j) :
      StationFailed s (failStation (abortTasks u k).1 k (abortTasks u k).2) k :=
    (failStation_failed _ station _).congr_left fun j other => (abortTasks_others u k other).trans (same j)
  unfold faultAbort
  dsimp only
  split
  case isTrue => exact aborted _ fun j => left s j
  split
  case isTrue =>
    refine StationFailed.congr_right (aborted _ fun j => ?_) (replyReadmit_stations ..)
    split
    · exact left s j
    · rfl
  split
  case isTrue =>
    refine (StationFailed.congr_left (failStation_failed _ station 0) fun j other => ?_).congr_right (replyReadmit_stations ..)
    split
    · rfl
    · unfold vacateTarget
      split
      · rfl
      · split <;> rfl
  split
  case isTrue => exact failStation_failed s station 0
  case isFalse => simp_all

theorem faultAbort_inactive (inactive : ¬ ((getStn s k).st = ssInService ∨ (getStn s k).st = ssDraining ∨
    (getStn s k).st = ssPreparing ∨ (getStn s k).st = ssSpare)) : faultAbort s k = s := by
  simp only [not_or] at inactive
  obtain ⟨service, draining, preparing, spare⟩ := inactive
  simp [faultAbort, service, draining, preparing, spare]

end

/-- FAULT_ABORT: the error is reported, the station fails unless it is out already, and the guarantee's state follows (R132). -/
theorem exec_faultAbort (k : Fin 17) (e : StnError) (a : BitVec 32) (s : State) : exec (.faultAbort k e a) s =
    .next (settleBounds s (faultAbort (reportStation s k.val e a.toNat) k.val)) := rfl

/-! ### Drains (R132, R134) -/

theorem largestBound_congr {s u : State} (same : u.ed = s.ed) : largestBound u = largestBound s := by
  rw [largestBound, liveEds, same, largestBound, liveEds]

/-- The drain that starts now and leads to no readmission (R134). -/
def drainFrom (s : State) (toFailed : Bool) : Drain := { deadline := s.clk + largestBound s + 40, toFailed := toFailed, readmit := none }

section
variable (s : State) (k : Nat)

theorem getStn_startDrain (toFailed : Bool) : getStn (startDrain s k toFailed none) k =
    { getStn s k with st := ssDraining, drain := some (drainFrom s toFailed) } := by
  have kept : getStn (leaveRole (dropCommit s) k) k = getStn s k := getStn_congr (congrArg (·.1) (dropCommit_stations s)) k
  unfold startDrain
  dsimp only
  rw [getStn_modStn_same, if_neg (by simp), kept]
  rfl

/-- The role of a station that drains becomes vacant (R134, R138). -/
theorem startDrain_vacant (toFailed : Bool) : (startDrain s k toFailed none).vacant = s.vacant ++ [(getStn s k).role] := by
  have vacant : (dropCommit s).vacant = s.vacant := congrArg (·.2.1) (dropCommit_stations s)
  have station : getStn (dropCommit s) k = getStn s k := getStn_congr (congrArg (·.1) (dropCommit_stations s)) k
  unfold startDrain
  dsimp only
  rw [modStn_vacant, if_neg (by simp), leaveRole, vacant, station]

/-- A drain ends OUT, or FAILED where it leads there (R134). -/
theorem getStn_endDrain {d : Drain} (alone : d.readmit = none) :
    let x := getStn (endDrain s k d) k
    x.st = (if d.toFailed then ssFailed else ssOut) ∧ x.role = roleNone ∧ x.drain = none := by
  unfold endDrain
  rw [alone]
  dsimp only
  cases d.toFailed with
  | true => exact getStn_putOut s k ssFailed
  | false =>
    have logged : getStn (logEvent (putOut s k ssOut) 0x0032 clsInfo (stnDetail k (getStn s k).role 0)) k = getStn (putOut s k ssOut) k :=
      getStn_congr (congrArg (·.1) (logEvent_stations ..)) k
    simp only [Bool.false_eq_true, if_false, logged]
    exact getStn_putOut s k ssOut

end

section
variable (s : State) (k : Fin 17)

theorem drainEnd_ofNone (undrained : (getStn s k.val).drain = none) : exec (.drainEnd k) s = .next s := by
  have run : exec (.drainEnd k) s = execDrainEnd k s := rfl
  rw [run, execDrainEnd, undrained]

variable {d : Drain} (draining : (getStn s k.val).drain = some d)
include draining

theorem drainEnd_waits (left : occupied (getStn s k.val) ≠ []) (early : s.clk < d.deadline) : exec (.drainEnd k) s = .next s := by
  have run : exec (.drainEnd k) s = execDrainEnd k s := rfl
  rw [run, execDrainEnd, draining]
  simp [left, early]

/-- When no task is left, or the deadline has come, the drain ends in the state that its aborts and its report leave. -/
theorem drainEnd_ends (due : occupied (getStn s k.val) = [] ∨ d.deadline ≤ s.clk) :
    ∃ u, exec (.drainEnd k) s = .next (settleBounds s (endDrain u k.val d)) := by
  have run : exec (.drainEnd k) s = execDrainEnd k s := rfl
  rw [run, execDrainEnd, draining]
  dsimp only
  by_cases empty : (occupied (getStn s k.val)).length = 0
  · exact ⟨s, if_pos empty⟩
  · have late : ¬ s.clk < d.deadline := Nat.not_lt.mpr (due.resolve_left fun none => empty (by rw [none]; rfl))
    exact ⟨_, (if_neg empty).trans (if_neg late)⟩

end

/-! ### Corrected errors (R132) -/

section
variable (s : State) (k : Fin 17)

/-- The corrected errors that cross the limit, as counted (R132; log entry 62). -/
def errorsCounted : State :=
  pcount (pcount s (pidStnSCeCount k.val) (pget s pidStnCeLimit + 1)) (pidIntegCe 2) (pget s pidStnCeLimit + 1)

/-- The event of a station with too many corrected errors (R132, R440). -/
def ceEvent : State :=
  logEvent (errorsCounted s k) 0x0031 clsWarning (stnDetail k.val (getStn s k.val).role (pget s pidStnCeLimit + 1))

theorem ceEvent_stations : stationState (ceEvent s k) = stationState s := logEvent_stations ..

theorem drainFrom_ceEvent : drainFrom (ceEvent s k) true = drainFrom s true := by
  have eds : (ceEvent s k).ed = s.ed := logEvent_ed ..
  have clock : (ceEvent s k).clk = s.clk := by
    have same := congrArg State.clk (logEvent_unreported (errorsCounted s k) 0x0031 clsWarning
      (stnDetail k.val (getStn s k.val).role (pget s pidStnCeLimit + 1)))
    exact same
  rw [drainFrom, clock, largestBound_congr eds, drainFrom]

theorem ceRateDrain_drains (service : (getStn s k.val).st = ssInService) :
    exec (.ceRateDrain k) s = .next (settleBounds s (startDrain (ceEvent s k) k.val true none)) := by
  have run : exec (.ceRateDrain k) s = execCeRateDrain k s := rfl
  rw [run, execCeRateDrain]
  exact if_pos service

theorem ceRateDrain_fails (spare : (getStn s k.val).st = ssSpare) :
    exec (.ceRateDrain k) s = .next (listFailed (putOut (ceEvent s k) k.val ssFailed) k.val) := by
  have run : exec (.ceRateDrain k) s = execCeRateDrain k s := rfl
  rw [run, execCeRateDrain]
  exact (if_neg (by rw [spare]; decide)).trans (if_pos spare)

theorem ceRateDrain_counts (serves : (getStn s k.val).st ≠ ssInService) (spare : (getStn s k.val).st ≠ ssSpare) :
    exec (.ceRateDrain k) s = .next (errorsCounted s k) := by
  have run : exec (.ceRateDrain k) s = execCeRateDrain k s := rfl
  rw [run, execCeRateDrain]
  exact (if_neg serves).trans (if_neg spare)

end

/-! ### Preparations (R136 to R140) -/

section
variable (s : State) (p : Prep)

/-- The station whose preparation begins: scrubbed, its threads OFF, the images of the live editions loaded for a role (R136 to R138). -/
def preparingStation : Station :=
  { freshStation roleNone ssPreparing s.clk with
    halted := (getStn s p.s).halted, threads := offThreads, prog := if p.target.isSome then liveProgs s else [] }

theorem startPrep_stn : (startPrep s p).stn = sset {} s.stn p.s (preparingStation s p) := rfl

theorem getStn_startPrep : (getStn (startPrep s p) p.s).st = ssPreparing := by
  rw [getStn_of_write (startPrep_stn s p)]
  rfl

theorem getStn_startPrep_ne {j : Nat} (other : j ≠ p.s) : getStn (startPrep s p) j = getStn s j :=
  getStn_of_write_ne (startPrep_stn s p) other

variable {s}

theorem prepFree_iff : prepFree s = true ↔ s.prep = none ∧ checkRunning s = false ∧ s.ed.wait = none := by
  simp [prepFree, and_assoc]

theorem preparationStart_waits (busy : s.prep.isSome = true ∨ checkRunning s = true ∨ s.ed.wait.isSome = true) :
    exec .preparationStart s = .next s := by
  have run : exec .preparationStart s = execPreparationStart s := rfl
  have taken : prepFree s = false := by
    rw [Bool.eq_false_iff, ne_eq, prepFree_iff]
    rintro ⟨unprepared, unchecked, idle⟩
    simp [unprepared, unchecked, idle] at busy
  rw [run, execPreparationStart, taken]
  rfl

variable (free : prepFree s = true)
include free

/-- The first vacant role goes to the lowest spare (R138). -/
theorem preparationStart_spare (unasked : s.readmits = []) {r k : Nat} {rest : List Nat} (vacant : s.vacant = r :: rest)
    (spare : firstSpare s = some k) :
    exec .preparationStart s = .next (startPrep { s with spareCheck := none } { s := k, target := some r }) := by
  have run : exec .preparationStart s = execPreparationStart s := rfl
  have spare' : firstSpare { s with spareCheck := none } = some k := spare
  rw [run, execPreparationStart, free]
  simp only [unasked, vacant, List.head?_cons] at spare' ⊢
  rw [spare']
  rfl

/-- The first request that waits goes before (R140). -/
theorem preparationStart_readmits {rest : List Prep} (asked : s.readmits = p :: rest) :
    exec .preparationStart s = .next (startPrep { s with spareCheck := none, readmits := rest }
      { p with target := if p.target.isSome then p.target else s.vacant.head? }) := by
  have run : exec .preparationStart s = execPreparationStart s := rfl
  rw [run, execPreparationStart, free]
  simp only [asked]
  rfl

end

section
variable (s : State) (p : Prep)

/-- The station that passes its preparation: scrubbed, with the program memory that the preparation loaded (R136, R138). -/
def admittedStation : Station :=
  { freshStation (p.target.getD roleSpare) (if p.target.isSome then ssInService else ssSpare) s.clk with
    halted := p.readmit.isNone && (getStn s p.s).halted, prog := (getStn s p.s).prog }

theorem admitStation_stations : let u := admitStation s p
    u.stn = sset {} s.stn p.s (admittedStation s p) ∧ u.prep = none := by
  unfold admitStation
  dsimp only
  rw [logEvent_stn, logEvent_prep]
  split <;> exact ⟨rfl, rfl⟩

variable {s p} (prepared : s.prep = some p)
include prepared

/-- The preparation passes when the check does and the image copy has no poisoned line (R136, R379). -/
theorem stationAdmit_passes (undamaged : areaPoisoned s editionArea imageArea = false) :
    exec (.stationAdmit .pass) s = .next (settleBounds s (replyReadmit (admitStation s p) p.readmit stOk)) := by
  have run : exec (.stationAdmit .pass) s = execStationAdmit .pass s := rfl
  rw [run, execStationAdmit, prepared]
  simp only [undamaged, Bool.false_eq_true, if_false]

/-- It fails when the check does, or when a line of the image copy is poisoned (R137, R379). -/
theorem stationAdmit_fails {c : CheckEnd} (bad : c = .fail ∨ areaPoisoned s editionArea imageArea = true) :
    exec (.stationAdmit c) s =
      .next (replyReadmit (failStation (vacateTarget { s with prep := none } p) p.s 0) p.readmit stHwFault) := by
  have run : exec (.stationAdmit c) s = execStationAdmit c s := rfl
  rw [run, execStationAdmit, prepared]
  rcases bad with rfl | poisoned
  · simp only [ite_self]
  · simp only [poisoned, if_true]

end

theorem stationAdmit_ofNone {s : State} (unprepared : s.prep = none) (c : CheckEnd) : exec (.stationAdmit c) s = .next s := by
  have run : exec (.stationAdmit c) s = execStationAdmit c s := rfl
  rw [run, execStationAdmit, unprepared]

/-- The role reserved for a station that fails is among the vacant ones (R137). -/
theorem vacateTarget_vacant (s : State) {p : Prep} {r : Nat} (reserved : p.target = some r) : r ∈ (vacateTarget s p).vacant := by
  unfold vacateTarget
  rw [reserved]
  dsimp only
  split
  · next there => simpa using there
  · simp

theorem vacateTarget_prep (s : State) (p : Prep) : (vacateTarget s p).prep = s.prep := by
  unfold vacateTarget
  split
  · rfl
  · split <;> rfl

theorem vacateTarget_stn (s : State) (p : Prep) : (vacateTarget s p).stn = s.stn := by
  unfold vacateTarget
  split
  · rfl
  · split <;> rfl

/-- A station that fails is put out; the preparation and the vacant roles stay as they are. -/
theorem failStation_parts (s : State) (k packets : Nat) : let u := failStation s k packets
    u.stn = (putOut s k ssFailed).stn ∧ u.prep = s.prep ∧ u.vacant = s.vacant := by
  have logged : stationState (failStation s k packets) = stationState (listFailed (putOut s k ssFailed) k) := logEvent_stations ..
  exact ⟨congrArg (·.1) logged, congrArg (·.2.2.1) logged, congrArg (·.2.1) logged⟩

/-! ### The spare's check (R139) -/

section
variable (s : State) (k : Fin 17)

theorem spareCheck_waits (c : CheckEnd) (waits : (getStn s k.val).st ≠ ssSpare ∨ s.prep.isSome = true ∨
    s.clk < (getStn s k.val).checked + pget s pidStnSpareCheckS * secCycles) : exec (.spareCheck k c) s = .next s := by
  have run : exec (.spareCheck k c) s = execSpareCheck k c s := rfl
  rw [run, execSpareCheck.eq_def]
  exact if_pos (by simpa [or_assoc] using waits)

/-- The spare that passes its check: scrubbed and spare (R139). -/
def checkedSpare : Station := { freshStation roleSpare ssSpare s.clk with halted := (getStn s k.val).halted }

variable {s k} (spare : (getStn s k.val).st = ssSpare) (unprepared : s.prep = none)
  (due : (getStn s k.val).checked + pget s pidStnSpareCheckS * secCycles ≤ s.clk)
include spare unprepared due

theorem spareCheck_passes : exec (.spareCheck k .pass) s =
    .next { s with stn := sset {} s.stn k.val (checkedSpare s k), spareCheck := some (k.val, s.clk + checkCycles) } := by
  have run : exec (.spareCheck k .pass) s = execSpareCheck k .pass s := rfl
  rw [run, execSpareCheck]
  exact if_neg (by simp [spare, unprepared, due])

theorem spareCheck_fails : exec (.spareCheck k .fail) s = .next (failStation s k.val 0) := by
  have run : exec (.spareCheck k .fail) s = execSpareCheck k .fail s := rfl
  rw [run, execSpareCheck]
  exact if_neg (by simp [spare, unprepared, due])

end

/-- Settles O51, event by event: each from the equation of its command and from what the operation named there leaves of the stations. -/
theorem stationEvents : Obligations.StationEvents := by
  intro s
  refine ⟨fun k e a => ⟨fun active => ?abort, fun inactive => ?inactive⟩,
    fun k => ⟨fun service => ?drains, fun spare => ?spareFails, fun serves spare => ?counts⟩,
    fun k => ⟨drainEnd_ofNone s k, fun d draining => ⟨drainEnd_waits s k draining, fun due alone => ?drainEnds⟩⟩,
    ⟨preparationStart_waits, fun unprepared unchecked idle unasked r k rest vacant spare => ?prepSpare,
      fun unprepared unchecked idle p rest asked => ?prepAsked⟩,
    fun c unprepared => stationAdmit_ofNone unprepared c, fun p prepared => ⟨fun undamaged => ?passes, fun c bad => ?fails⟩,
    fun k c => ⟨spareCheck_waits s k c, fun spare unprepared due => ⟨?checkPasses, ?checkFails⟩⟩⟩
  case abort =>
    have reported := reportStation_stations s k.val e a.toNat
    have station (j : Nat) : getStn (reportStation s k.val e a.toNat) j = getStn s j := getStn_congr (congrArg (·.1) reported) j
    have failed := ((faultAbort_failed (reportStation s k.val e a.toNat) k.isLt (by rwa [station])).congr_left fun j _ =>
      station j).congr_right (settleBounds_stations _ s)
    obtain ⟨st, role, mark, others⟩ := failed
    exact ⟨_, exec_faultAbort k e a s, st, role, mark, fun j other => by rw [others j other]; exact ⟨rfl, rfl⟩⟩
  case inactive =>
    have reported := reportStation_stations s k.val e a.toNat
    have station : getStn (reportStation s k.val e a.toNat) k.val = getStn s k.val := getStn_congr (congrArg (·.1) reported) _
    have left : stationState (settleBounds s (faultAbort (reportStation s k.val e a.toNat) k.val)) = stationState s := by
      rw [settleBounds_stations, faultAbort_inactive _ (by rwa [station]), reported]
    exact ⟨_, exec_faultAbort k e a s, congrArg (·.1) left, congrArg (·.2.2.2) left⟩
  case drains =>
    have event : getStn (ceEvent s k) k.val = getStn s k.val := getStn_congr (congrArg (·.1) (ceEvent_stations s k)) _
    have station := getStn_startDrain (ceEvent s k) k.val true
    rw [event, drainFrom_ceEvent, ← getStn_congr (settleBounds_stn _ s)] at station
    have tasks := congrArg Station.tasks station
    exact ⟨_, drainFrom s true, ceRateDrain_drains s k service, congrArg Station.st station, congrArg Station.drain station,
      rfl, rfl, tasks⟩
  case spareFails =>
    obtain ⟨st, -, mark, -⟩ := listFailed_failed (ceEvent s k) k.isLt
    exact ⟨_, ceRateDrain_fails s k spare, st, mark⟩
  case counts => exact ⟨_, ceRateDrain_counts s k serves spare, rfl, rfl⟩
  case drainEnds =>
    obtain ⟨u, ends⟩ := drainEnd_ends s k draining due
    refine ⟨_, ends, ?_⟩
    rw [getStn_congr (settleBounds_stn _ s)]
    exact getStn_endDrain u k.val alone
  case prepSpare =>
    exact ⟨_, preparationStart_spare (prepFree_iff.mpr ⟨unprepared, unchecked, idle⟩) unasked vacant spare, rfl, getStn_startPrep ..,
      fun j other => getStn_startPrep_ne _ _ other⟩
  case prepAsked =>
    exact ⟨_, _, preparationStart_readmits p (prepFree_iff.mpr ⟨unprepared, unchecked, idle⟩) asked, rfl, rfl, rfl, rfl,
      getStn_startPrep ..⟩
  case passes =>
    obtain ⟨stations, ended⟩ := admitStation_stations s p
    have left := (settleBounds_stations (replyReadmit (admitStation s p) p.readmit stOk) s).trans (replyReadmit_stations ..)
    have written := (congrArg (·.1) left).trans stations
    refine ⟨_, stationAdmit_passes prepared undamaged, (congrArg (·.2.2.1) left).trans ended, ?_, ?_, ?_, fun j other => ?_⟩
    · rw [getStn_of_write written]; rfl
    · rw [getStn_of_write written]; rfl
    · rw [getStn_of_write written]; rfl
    · exact getStn_of_write_ne written other
  case fails =>
    have replied := replyReadmit_stations (failStation (vacateTarget { s with prep := none } p) p.s 0) p.readmit stHwFault
    obtain ⟨failed, prep, vacant⟩ := failStation_parts (vacateTarget { s with prep := none } p) p.s 0
    have stations := (replyReadmit_stn (failStation (vacateTarget { s with prep := none } p) p.s 0) p.readmit stHwFault).trans failed
    refine ⟨_, stationAdmit_fails prepared bad, ?_, ?_, fun r reserved => ?_, fun j other => ?_⟩
    · exact (congrArg (·.2.2.1) replied).trans (prep.trans (vacateTarget_prep _ p))
    · rw [getStn_congr stations]
      exact (getStn_putOut ..).1
    · rw [replyReadmit_vacant, vacant]
      exact vacateTarget_vacant _ reserved
    · rw [getStn_congr stations, getStn_putOut_ne _ _ _ other, getStn_congr (vacateTarget_stn _ p)]
      rfl
  case checkPasses =>
    have written : (State.stn { s with stn := sset {} s.stn k.val (checkedSpare s k), spareCheck := some (k.val, s.clk + checkCycles) }) =
        sset {} s.stn k.val (checkedSpare s k) := rfl
    exact ⟨_, spareCheck_passes spare unprepared due, by rw [getStn_of_write written]; rfl, rfl,
      fun j other => getStn_of_write_ne written other⟩
  case checkFails =>
    obtain ⟨st, -, mark, -⟩ := failStation_failed s k.isLt 0
    exact ⟨_, spareCheck_fails spare unprepared due, st, mark⟩

end Sys2Proof.Machine
end

section
/-! Proofs about the station commands of group 0x07: retirement, readmission, status and the task store (R135, R140, R230, R410). -/

namespace Sys2Proof.Machine

/-- The parameters of a command that names a station 0 to 16 and has its reserved bytes zero. -/
theorem stationParam_eq {ps : List Byte} (station : leAt ps 0 1 ≤ 16) (reserved : leAt ps 1 3 = 0) :
    stationParam ps = some (leAt ps 0 1) := by
  simp [stationParam, zeros, station, reserved]

/-- A command whose body answers later, or by itself, leaves the state of its body. -/
theorem exec_of_hostCmdN {i : Instr} {s u : State} {h : CmdHdr} {op n : Nat} {flags : BitVec 16} {ps : List Byte} {body : State → Answer}
    (run : exec i s = hostCmdN s h op flags ps n body) (accepted : Accepted s h op flags) (length : ps.length = n)
    (later : body s = (u, none)) : exec i s = .next u := by
  rw [run, hostCmdN_accepted _ accepted length, later]
  rfl

section
variable {s : State} {h : CmdHdr} {ps : List Byte} {k : Nat} (length : ps.length = 4) (param : stationParam ps = some k)
include length param

/-! ### STATION_RETIRE (R135) -/

theorem stationRetire_spare (accepted : Accepted s h 0x0700 1) (spare : (getStn s k).st = ssSpare) :
    Answers (.stationRetire h ps) s h 0x0700 (logEvent (putOut s k ssOut) 0x0032 clsInfo (stnDetail k roleSpare 0)) [] := by
  refine answers_of_hostCmdN (execStationRetire.eq_def ..) accepted length ?_
  simp only [param]
  exact if_pos spare

theorem stationRetire_out (accepted : Accepted s h 0x0700 1) (gone : (getStn s k).st = ssOut ∨ (getStn s k).st = ssFailed) :
    Answers (.stationRetire h ps) s h 0x0700 s [] := by
  refine answers_of_hostCmdN (execStationRetire.eq_def ..) accepted length ?_
  simp only [param]
  rcases gone with out | failed
  · rw [out]; rfl
  · rw [failed]; rfl

/-- A station in service drains when its half keeps seven, or with FORCE. -/
theorem stationRetire_drains (accepted : Accepted s h 0x0700 1) (service : (getStn s k).st = ssInService)
    (allowed : h.flags.getLsbD 0 = true ∨
      ∃ hf, roleHalf (getStn s k).role = some hf ∧ 7 ≤ (servingStations s hf).length - 1) :
    Answers (.stationRetire h ps) s h 0x0700 (settleBounds s (startDrain s k false none)) [] := by
  refine answers_of_hostCmdN (execStationRetire.eq_def ..) accepted length ?_
  simp only [param, service]
  rcases allowed with force | ⟨hf, half, kept⟩
  · simp [force, ssInService, ssSpare, ssDraining, ssPreparing, ssOut, ssFailed]
  · simp [half, Nat.not_lt.mpr kept, ssInService, ssSpare, ssDraining, ssPreparing, ssOut, ssFailed]

/-! ### STATION_READMIT (R140) -/

/-- READMIT of a station that is out or failed, and that no preparation waits for, asks for its preparation and answers later. -/
theorem stationReadmit_requests (accepted : Accepted s h 0x0701 0) (gone : (getStn s k).st = ssOut ∨ (getStn s k).st = ssFailed)
    (unasked : readmitWaits s k = false) :
    exec (.stationReadmit h ps) s = .next (requestPrep s { s := k, target := none, readmit := some h }) := by
  refine exec_of_hostCmdN (execStationReadmit.eq_def ..) accepted length ?_
  simp only [param]
  exact if_pos (by simpa [unasked] using gone)

/-! ### STATION_STATUS (R410) -/

theorem stationStatus_reports (accepted : Accepted s h 0x0702 0) : Answers (.stationStatus h ps) s h 0x0702 s
    (leBytes 1 (getStn s k).role ++ leBytes 1 (getStn s k).st ++ leBytes 1 (b2n (getStn s k).halted) ++ [0]
      ++ leBytes 2 (occupied (getStn s k)).length ++ leBytes 2 (spresent (getStn s k).shelf).length) := by
  refine answers_of_hostCmdN (execStationStatus.eq_def ..) accepted length ?_
  simp only [param]
  rfl

end

/-- A preparation that nothing else keeps from starting is for the oldest vacancy, when no role is reserved (R137, R140). -/
theorem requestPrep_starts {s : State} (p : Prep) (free : prepFree s = true) :
    requestPrep s p = startPrep s { p with target := if p.target.isSome then p.target else s.vacant.head? } := if_pos free

theorem requestPrep_waits {s : State} (p : Prep) (busy : s.prep.isSome = true) :
    requestPrep s p = { s with readmits := s.readmits ++ [p] } := by
  have taken : prepFree s = false := by
    rw [Bool.eq_false_iff, ne_eq, prepFree_iff]
    rintro ⟨unprepared, -⟩
    simp [unprepared] at busy
  rw [requestPrep, taken]
  rfl

/-- TASK_READ of entries that lie within the store (R230). -/
theorem taskRead_reports {s : State} {h : CmdHdr} {ps : List Byte} (length : ps.length = 4) (accepted : Accepted s h 0x0703 0)
    (station : leAt ps 0 1 ≤ 16) (least : 1 ≤ leAt ps 1 1) (most : leAt ps 1 1 ≤ 64) (inside : leAt ps 2 2 + leAt ps 1 1 ≤ 4096) :
    Answers (.taskRead h ps) s h 0x0703 s ((List.range (leAt ps 1 1)).flatMap fun i =>
      taskBytes (getStn s (leAt ps 0 1)) (getTask s (leAt ps 0 1) (leAt ps 2 2 + i))) := by
  refine answers_of_hostCmdN (execTaskRead.eq_def ..) accepted length ?_
  have range : ¬ (16 < leAt ps 0 1 ∨ leAt ps 1 1 < 1 ∨ 64 < leAt ps 1 1 ∨ 4096 < leAt ps 2 2 + leAt ps 1 1) := by omega
  exact if_neg (by simpa [or_assoc] using range)

/-- Settles O38, command by command: what each answers, and what the operation in its answer leaves of the station. -/
theorem stationCommands : Obligations.StationCommands := by
  intro s h ps length station
  refine ⟨fun reserved => ?named, fun accepted least most inside => taskRead_reports length accepted station least most inside⟩
  have param := stationParam_eq station reserved
  refine ⟨fun accepted => ⟨fun spare => ?spare, stationRetire_out length param accepted, fun service allowed => ?drains⟩,
    fun accepted gone unasked => ⟨fun unprepared unchecked idle => ?starts, fun busy => ?waits⟩, stationStatus_reports length param⟩
  case spare =>
    obtain ⟨st, role, -⟩ := getStn_putOut s (leAt ps 0 1) ssOut
    refine ⟨_, stationRetire_spare length param accepted spare, ?_⟩
    rw [getStn_congr (logEvent_stn ..)]
    exact ⟨st, role⟩
  case drains =>
    have left := settleBounds_stations (startDrain s (leAt ps 0 1) false none) s
    have drained := (getStn_congr (settleBounds_stn (startDrain s (leAt ps 0 1) false none) s) _).trans (getStn_startDrain ..)
    refine ⟨_, stationRetire_drains length param accepted service allowed, congrArg Station.st drained, ?_, ?_⟩
    · rw [drained]; rfl
    · exact (congrArg (·.2.1) left).trans (startDrain_vacant s (leAt ps 0 1) false)
  case starts =>
    have run := stationReadmit_requests length param accepted gone unasked
    rw [requestPrep_starts _ (prepFree_iff.mpr ⟨unprepared, unchecked, idle⟩)] at run
    exact ⟨_, _, run, rfl, rfl, rfl, getStn_startPrep ..⟩
  case waits =>
    rw [stationReadmit_requests length param accepted gone unasked, requestPrep_waits _ busy]

end Sys2Proof.Machine
end

section
/-! Proofs about the debugger's halts and the commands on threads, locks and channels (R120, R254 to R256, R269, R272 to R274, R410). -/

namespace Sys2Proof.Machine

/-- A command that is refused leaves the state as it is, and its reply carries the status. -/
theorem exec_of_refused {i : Instr} {s : State} {h : CmdHdr} {op n st : Nat} {flags : BitVec 16} {ps : List Byte} {body : State → Answer}
    (run : exec i s = hostCmdN s h op flags ps n body) (accepted : Accepted s h op flags) (length : ps.length = n)
    (refused : body s = refuse s st) : exec i s = .next (sendReply s h op st []) := by
  rw [run, hostCmdN_accepted _ accepted length, refused]
  rfl

/-! ### A halt that takes effect (R272, R273) -/

section
variable (s : State) (k l : Nat)

theorem getThr_modStn_keeps {f : Station → Station} (kept : ∀ st, (f st).threads = st.threads) (j m : Nat) :
    getThr (modStn s k f) j m = getThr s j m := by
  have same := getStn_modStn_keeps s k Station.threads kept j
  exact congrArg (fun ths => sget ({} : Thread) ths m) same

theorem getThr_setShelf (e : Nat) (x : Option ShelfEnt) (j m : Nat) : getThr (setShelf s k e x) j m = getThr s j m :=
  getThr_modStn_keeps (f := fun st => { st with shelf := sset none st.shelf e x }) s k (fun _ => rfl) j m

/-- The snapshot entry of a thread that halts: its context, with the time its wait had left (R120, R273). -/
def haltShelf : ShelfEnt :=
  { kind := .halted, lane := l, thread := { getThr s k l with halt := none }, frozen := waitLeft s.clk (getThr s k l) }

/-- The thread is HALTED, and its context, as its own last stores leave it, stands in the snapshot entry (R120, R272). -/
def haltedState (r : HaltReq) : State :=
  let s := squash s k l
  modStn (modThr (setShelf s k r.entry (some (haltShelf s k l))) k l fun th => { th with st := .halted, halt := none }) k
    fun st => { st with halted := true }

theorem haltThread_eq {r : HaltReq} {h : CmdHdr} (asked : r.hdr = some h) : haltThread s k l r false =
    sendReply (settleBounds (squash s k l) (haltedState s k l r)) h 0x0704 stOk (leBytes 2 r.entry ++ [0, 0]) := by
  unfold haltThread
  rw [asked]
  rfl

/-- What a halt leaves of its thread and its station. -/
theorem haltedState_reads (r : HaltReq) : let u := haltedState s k l r
    (getThr u k l).st = .halted ∧ (getStn u k).halted = true ∧ ∃ x, sget none (getStn u k).shelf r.entry = some x ∧ x.lane = l := by
  refine ⟨?thread, ?station, ?entry⟩
  case thread =>
    rw [haltedState, getThr_modStn_keeps (f := fun st => { st with halted := true }) _ _ fun _ => rfl, getThr_modThr_same]
  case station => rw [haltedState, getStn_modStn_same]
  case entry =>
    rw [haltedState, getStn_modStn_same, modThr, getStn_modStn_same, setShelf, getStn_modStn_same, sget_sset_same]
    exact ⟨_, rfl, rfl⟩

/-- A halt that takes effect is answered with its entry. -/
theorem haltThread_halts {r : HaltReq} {h : CmdHdr} (asked : r.hdr = some h) : ∃ u,
    haltThread s k l r false = sendReply u h 0x0704 stOk (leBytes 2 r.entry ++ [0, 0]) ∧ (getThr u k l).st = .halted ∧
      (getStn u k).halted = true ∧ ∃ x, sget none (getStn u k).shelf r.entry = some x ∧ x.lane = l := by
  refine ⟨_, haltThread_eq s k l asked, ?_⟩
  have settled := settleBounds_stn (haltedState s k l r) (squash s k l)
  rw [getThr_congr settled, getStn_congr settled]
  exact haltedState_reads s k l r

theorem haltBoundary_takes {r : HaltReq} (asked : (getThr s k l).halt = some r) (free : holdsAny s k l = false)
    (going : (getThr s k l).ended = false) (untrapped : (getThr s k l).st ≠ .trapped) (core : inEmu (getStn s k) l = false) :
    haltBoundary s k l = haltThread s k l r false := by
  simp [haltBoundary, asked, free, going, untrapped, core]

theorem haltBoundary_waits {r : HaltReq} (asked : (getThr s k l).halt = some r) (waits : holdsAny s k l = true ∨
    (getThr s k l).ended = true ∨ (getThr s k l).st = .trapped ∨ inEmu (getStn s k) l = true) : haltBoundary s k l = s := by
  simp only [haltBoundary, asked]
  exact if_pos (by simpa [or_assoc] using waits)

/-! ### The request of a halt (R272, R273) -/

/-- The request of a debugger to halt a thread, with its snapshot entry. -/
def haltReq (e : Nat) (h : CmdHdr) : HaltReq := { entry := e, since := s.clk, hdr := some h }

/-- The thread is asked to halt at its next boundary, and its snapshot entry is reserved (R273). -/
def haltAsked (e : Nat) (h : CmdHdr) : State :=
  modThr (setShelf s k e (some { kind := .reserved, lane := l })) k l fun th => { th with halt := some (haltReq s e h) }

variable (e : Nat) (h : CmdHdr)

theorem haltAsked_thr : getThr (haltAsked s k l e h) k l = { getThr s k l with halt := some (haltReq s e h) } := by
  rw [haltAsked, getThr_modThr_same, getThr_setShelf]

theorem haltAsked_stn : let st := getStn (haltAsked s k l e h) k
    (st.lockHolder, st.emu) = ((getStn s k).lockHolder, (getStn s k).emu) := by
  rw [haltAsked, modThr, getStn_modStn_same, setShelf, getStn_modStn_same]

/-- The request changes nothing of what the thread holds. -/
theorem haltAsked_holdsAny : holdsAny (haltAsked s k l e h) k l = holdsAny s k l := by
  have held (m task : Nat) : heldTask (haltAsked s k l e h) m task = heldTask s m task := rfl
  rw [holdsAny, haltAsked_thr, holdsHelper_congr (congrArg (·.1) (haltAsked_stn s k l e h)), held, holdsAny]

theorem haltAsked_inEmu : inEmu (getStn (haltAsked s k l e h) k) l = inEmu (getStn s k) l :=
  congrArg (fun p => p.2.any fun e => e.job.lane = l) (haltAsked_stn s k l e h)

variable {s k l}

theorem requestHalt_atOnce (running : (getThr s k l).st ≠ .running) (untrapped : (getThr s k l).st ≠ .trapped) :
    requestHalt s k l e h = haltThread s k l (haltReq s e h) false := by
  simp [requestHalt, running, untrapped, haltReq]

theorem requestHalt_asks (active : (getThr s k l).st = .running ∨ (getThr s k l).st = .trapped) :
    requestHalt s k l e h = haltBoundary (haltAsked s k l e h) k l := by
  rcases active with running | trapped
  · simp [requestHalt, running, haltAsked, haltReq]
  · simp [requestHalt, trapped, haltAsked, haltReq]

/-- A thread that is not running, or holds nothing, halts at once (R273). -/
theorem requestHalt_halts (free : ((getThr s k l).st ≠ .running ∧ (getThr s k l).st ≠ .trapped) ∨ ((getThr s k l).st = .running ∧
    holdsAny s k l = false ∧ (getThr s k l).ended = false ∧ inEmu (getStn s k) l = false)) :
    ∃ v, requestHalt s k l e h = haltThread v k l (haltReq s e h) false := by
  rcases free with ⟨running, untrapped⟩ | ⟨running, free, going, core⟩
  · exact ⟨s, requestHalt_atOnce e h running untrapped⟩
  · have context := haltAsked_thr s k l e h
    refine ⟨_, (requestHalt_asks e h (.inl running)).trans (haltBoundary_takes _ _ _ (congrArg Thread.halt context) ?_ ?_ ?_ ?_)⟩
    · rw [haltAsked_holdsAny, free]
    · rw [context]; exact going
    · rw [context]; exact running ▸ nofun
    · rw [haltAsked_inEmu, core]

/-- A thread that holds something, has issued END, handles a trap or runs an emulation handler goes on until it does no more (R273). -/
theorem requestHalt_waits (busy : ((getThr s k l).st = .running ∧ (holdsAny s k l = true ∨ (getThr s k l).ended = true ∨
    inEmu (getStn s k) l = true)) ∨ (getThr s k l).st = .trapped) : requestHalt s k l e h = haltAsked s k l e h := by
  have context := haltAsked_thr s k l e h
  have active : (getThr s k l).st = .running ∨ (getThr s k l).st = .trapped := busy.imp_left (·.1)
  refine (requestHalt_asks e h active).trans (haltBoundary_waits _ _ _ (congrArg Thread.halt context) ?_)
  rw [haltAsked_holdsAny, haltAsked_inEmu, context]
  rcases busy with ⟨-, holds | ended | handler⟩ | trapped
  · exact .inl holds
  · exact .inr (.inl ended)
  · exact .inr (.inr (.inr handler))
  · exact .inr (.inr (.inl trapped))

end

/-! ### A context that is restored (R173, R274) -/

section
variable {st : Station} (clk i : Nat)

/-- A flag that becomes set wakes no thread that does not wait. -/
theorem flagsChanged_thread {l : Nat} (waitless : (sget {} st.threads l).wait = none) :
    sget {} (flagsChanged clk st i).threads l = sget {} st.threads l := by
  unfold flagsChanged
  dsimp only
  split
  case h_1 => split <;> rfl
  case h_2 =>
    split
    · next w running waits =>
      split
      · have other : l ≠ (sget {} st.tasks i).thread := by
          rintro rfl
          exact absurd (waits.symm.trans waitless) nofun
        exact sget_smod_ne _ _ _ other
      · rfl
    · rfl
  case h_3 =>
    split
    · split
      · split <;> rfl
      · rfl
    · rfl
  case h_4 => rfl

/-- It fills no entry of the shelf that is empty. -/
theorem flagsChanged_shelf {e : Nat} (empty : sget none st.shelf e = none) : sget none (flagsChanged clk st i).shelf e = none := by
  unfold flagsChanged
  dsimp only
  split
  case h_1 => split <;> exact empty
  case h_2 =>
    split
    · split <;> exact empty
    · exact empty
  case h_3 =>
    split
    · next home =>
      split
      · split
        · have other : e ≠ (sget {} st.tasks i).thread := by
            rintro rfl
            exact absurd (home.symm.trans empty) nofun
          rw [sget_sset_ne _ _ _ _ other, empty]
        · exact empty
      · exact empty
    · exact empty
  case h_4 => exact empty

end

section
variable {s : State} {k l e : Nat} {x : ShelfEnt} (entry : haltedEntry (getStn s k) l = some (e, x))
  (waitless : x.thread.wait = none)
include entry waitless

/-- A halted thread that waits for nothing goes on with the context of its entry. -/
theorem resumeThread_context : getThr (resumeThread s k l) k l =
    { x.thread with wait := none, lastAt := (getThr s k l).lastAt, squashAt := (getThr s k l).squashAt } := by
  have restored : getThr (modThr (setShelf s k e none) k l fun old =>
      { x.thread with wait := none, lastAt := old.lastAt, squashAt := old.squashAt }) k l =
      { x.thread with wait := none, lastAt := (getThr s k l).lastAt, squashAt := (getThr s k l).squashAt } := by
    rw [getThr_modThr_same, getThr_setShelf]
  simp only [resumeThread, entry, waitless, Option.map_none]
  rw [getThr, getStn_modStn_same, flagsChanged_thread _ _ (congrArg Thread.wait restored)]
  exact restored

/-- Its entry is free again (R274). -/
theorem resumeThread_entry : sget none (getStn (resumeThread s k l) k).shelf e = none := by
  simp only [resumeThread, entry, waitless, Option.map_none]
  rw [getStn_modStn_same]
  refine flagsChanged_shelf _ _ ?_
  rw [modThr, getStn_modStn_same, setShelf, getStn_modStn_same, sget_sset_same]

end

/-! ### The debugger's commands (R272 to R274, R410) -/

section
variable {s : State} {h : CmdHdr} {ps : List Byte} (length : ps.length = 4)
include length

theorem threadHalt_denied (debug : s.fuses.debug = false) (accepted : Accepted s h 0x0704 0) :
    exec (.threadHalt h ps) s = .next (sendReply s h 0x0704 stNoPermission []) :=
  exec_of_refused (execThreadHalt.eq_def ..) accepted length (by simp [debug])

theorem threadResume_denied (debug : s.fuses.debug = false) (accepted : Accepted s h 0x0705 0) :
    exec (.threadResume h ps) s = .next (sendReply s h 0x0705 stNoPermission []) :=
  exec_of_refused (execThreadResume.eq_def ..) accepted length (by simp [debug])

theorem contextRead_denied (debug : s.fuses.debug = false) (accepted : Accepted s h 0x0706 0) :
    exec (.contextRead h ps) s = .next (sendReply s h 0x0706 stNoPermission []) :=
  exec_of_refused (execContextRead.eq_def ..) accepted length (by simp [debug])

section
variable {k l : Nat} (debug : s.fuses.debug = true) (param : threadParam ps = some (k, l))
include debug param

theorem threadHalt_requests (accepted : Accepted s h 0x0704 0) (prepared : (getStn s k).st ≠ ssPreparing) {e : Nat}
    (free : freeSnapshot (getStn s k) = some e) (unasked : (getThr s k l).halt = none) (going : (getThr s k l).st ≠ .halted) :
    exec (.threadHalt h ps) s = .next (requestHalt s k l e h) := by
  refine exec_of_hostCmdN (execThreadHalt.eq_def ..) accepted length ?_
  simp [debug, param, prepared, free, unasked, going]

theorem threadResume_unhalted (accepted : Accepted s h 0x0705 0) (going : (getThr s k l).st ≠ .halted) :
    Answers (.threadResume h ps) s h 0x0705 s [] := by
  refine answers_of_hostCmdN (execThreadResume.eq_def ..) accepted length ?_
  simp [debug, param, going]

theorem threadResume_halted (accepted : Accepted s h 0x0705 0) (halted : (getThr s k l).st = .halted) :
    Answers (.threadResume h ps) s h 0x0705 (resumeThread s k l) [] := by
  refine answers_of_hostCmdN (execThreadResume.eq_def ..) accepted length ?_
  simp [debug, param, halted]

end

theorem contextRead_reports (debug : s.fuses.debug = true) (accepted : Accepted s h 0x0706 0) (station : leAt ps 0 1 ≤ 16)
    (index : leAt ps 2 2 ≤ 511) (reserved : leAt ps 1 1 = 0) {x : ShelfEnt}
    (entry : sget none (getStn s (leAt ps 0 1)).shelf (leAt ps 2 2) = some x) :
    Answers (.contextRead h ps) s h 0x0706 s (contextBytes s.clk x.thread x.frozen) := by
  refine answers_of_hostCmdN (execContextRead.eq_def ..) accepted length ?_
  simp [debug, zeros, Nat.not_lt.mpr station, Nat.not_lt.mpr index, reserved, entry]

/-! ### Locks and channels (R255, R256, R269) -/

theorem lockRead_reports (accepted : Accepted s h 0x0707 0) (group : leAt ps 0 1 ≤ 63) (word : leAt ps 1 1 ≤ 63)
    (reserved : leAt ps 2 2 = 0) (permitted : lockPermitted s (ifaceMaster h.iface) (leAt ps 0 1) = true) :
    Answers (.lockRead h ps) s h 0x0707 s (leBytes 2 (lockWord s (64 * leAt ps 0 1 + leAt ps 1 1)).toNat ++ [0, 0]) := by
  refine answers_of_hostCmdN (execLockRead.eq_def ..) accepted length ?_
  simp [zeros, Nat.not_lt.mpr group, Nat.not_lt.mpr word, reserved, permitted, leBytes]

end

/-- The state once master `m` holds word `w` with no task behind it (R255). -/
def lockTaken (s : State) (m w : Nat) : State :=
  { setLock s w (0x8000 ||| (lockWord s w &&& 0x4000) ||| BitVec.ofNat 16 m) with
    held := s.held ++ [{ master := m, word := w }] }

theorem ifaceMaster_ge (i : Iface) : 0xF00 ≤ ifaceMaster i := by
  cases i <;> simp [ifaceMaster]

/-- An interface that writes its own identity into a free lock, below its limit, takes it (R255, R256). -/
theorem lockWrite_takes {s : State} {w : Nat} (i : Iface) (free : lockHeld (lockWord s w) = false)
    (below : (heldBy s (ifaceMaster i)).length < 64) :
    lockWrite s (ifaceMaster i) w (ifaceMaster i) 0 false = (lockTaken s (ifaceMaster i) w, .done) := by
  have large := ifaceMaster_ge i
  have named : ifaceMaster i ≠ 0 := by omega
  have limit : lockLimit (ifaceMaster i) = 64 := if_neg (by omega)
  have room : ¬ lockLimit (ifaceMaster i) ≤ (heldBy s (ifaceMaster i)).length := by omega
  simp [lockWrite, named, lockAcquireWrite, free, room, lockTaken, setLock]

theorem lockWord_lockTaken_same (s : State) (m w : Nat) :
    lockWord (lockTaken s m w) w = 0x8000 ||| (lockWord s w &&& 0x4000) ||| BitVec.ofNat 16 m := sget_sset_same ..

theorem lockWord_lockTaken_ne (s : State) (m : Nat) {w x : Nat} (other : x ≠ w) : lockWord (lockTaken s m w) x = lockWord s x :=
  sget_sset_ne _ _ _ _ other

theorem lockWrite_answers {s : State} {h : CmdHdr} {ps : List Byte} (length : ps.length = 4) (accepted : Accepted s h 0x0708 0)
    (group : leAt ps 0 1 ≤ 63) (word : leAt ps 1 1 ≤ 63)
    (permitted : lockPermitted s (ifaceMaster h.iface) (leAt ps 0 1) = true) {u : State}
    (taken : lockWrite s (ifaceMaster h.iface) (64 * leAt ps 0 1 + leAt ps 1 1) (leAt ps 2 2) 0 false = (u, .done)) :
    Answers (.lockWrite h ps) s h 0x0708 u (leBytes 2 (lockWord u (64 * leAt ps 0 1 + leAt ps 1 1)).toNat ++ [0, 0]) := by
  refine answers_of_hostCmdN (execLockWrite.eq_def ..) accepted length ?_
  simp [Nat.not_lt.mpr group, Nat.not_lt.mpr word, permitted, taken, leBytes]

theorem channelFlush_answers {s : State} {h : CmdHdr} {ps : List Byte} (length : ps.length = 4) (accepted : Accepted s h 0x0709 0)
    (half : leAt ps 0 1 ≤ 1) (reserved : leAt ps 2 2 = 0) :
    Answers (.channelFlush h ps) s h 0x0709
      (pcount (modChan s (leAt ps 0 1) (leAt ps 1 1) fun c => { c with pub := [] }) (pidChanHalfChFreed (leAt ps 0 1) (leAt ps 1 1))
        (getChan s (leAt ps 0 1) (leAt ps 1 1)).pub.length)
      (leBytes 1 (getChan s (leAt ps 0 1) (leAt ps 1 1)).pub.length ++ [0, 0, 0]) := by
  refine answers_of_hostCmdN (execChannelFlush.eq_def ..) accepted length ?_
  simp [zeros, Nat.not_lt.mpr half, reserved, leBytes]

/-- The channel as a change to it leaves it, whatever is counted besides. -/
theorem getChan_pcount_modChan (s : State) (half ch : Nat) (f : Chan → Chan) (id n : Nat) :
    getChan (pcount (modChan s half ch f) id n) half ch = f (getChan s half ch) := sget_smod_same ..

/-- A context is 15 registers, the pc, four bytes of flags and counts, the task and what is left of its wait (R120). -/
theorem contextBytes_length (clk : Nat) (th : Thread) (frozen : Nat) : (contextBytes clk th frozen).length = 72 := by
  simp [contextBytes]

/-- Settles O39, command by command: what each answers, and what the operation in its answer leaves of the thread, the lock and the
channel. -/
theorem debugAndLockCommands : Obligations.DebugAndLockCommands := by
  intro s h ps length
  refine ⟨fun debug => ⟨threadHalt_denied length debug, threadResume_denied length debug, contextRead_denied length debug⟩,
    fun debug k l param => ⟨fun accepted prepared e free unasked => ⟨fun now => ?halts, fun busy => ?waits⟩,
      fun accepted => ⟨threadResume_unhalted length debug param accepted, fun e x halted entry running waitless => ?resumes⟩⟩,
    fun debug accepted station index reserved x entry =>
      ⟨contextRead_reports length debug accepted station index reserved entry, contextBytes_length ..⟩,
    lockRead_reports length, fun accepted group word permitted own free below => ?takes, fun accepted half reserved => ?flushes⟩
  case halts =>
    have going : (getThr s k l).st ≠ .halted := now.elim (·.1) fun running => running.1 ▸ nofun
    have run := threadHalt_requests length debug param accepted prepared free unasked going
    obtain ⟨v, halts⟩ := requestHalt_halts e h (now.imp_left (·.2))
    obtain ⟨u, replied, left⟩ := haltThread_halts v k l (r := haltReq s e h) rfl
    exact ⟨u, run.trans (congrArg _ (halts.trans replied)), left⟩
  case waits =>
    have going : (getThr s k l).st ≠ .halted := busy.elim (fun running => running.1 ▸ nofun) fun trapped => trapped ▸ nofun
    have run := threadHalt_requests length debug param accepted prepared free unasked going
    rw [requestHalt_waits e h busy] at run
    exact ⟨_, haltReq s e h, run, congrArg Thread.halt (haltAsked_thr s k l e h), rfl, rfl, rfl⟩
  case resumes =>
    have context := resumeThread_context entry waitless
    refine ⟨_, threadResume_halted length debug param accepted halted, ?_, ?_, ?_, resumeThread_entry entry waitless⟩
    · rw [context]; exact running
    · rw [context]
    · rw [context]
  case takes =>
    refine ⟨_, lockWrite_answers length accepted group word permitted (own ▸ lockWrite_takes h.iface free below),
      lockWord_lockTaken_same .., fun x other => lockWord_lockTaken_ne _ _ other⟩
  case flushes =>
    exact ⟨_, channelFlush_answers length accepted half reserved, getChan_pcount_modChan _ _ _ (fun c => { c with pub := [] }) ..⟩

end Sys2Proof.Machine
end

section
/-! Proofs about the registers, the issue of an instruction, and a false guard (R142, R148, R150, R156, R168, R170, R186). -/

namespace Sys2Proof.Machine

/-! ### Registers and predicates (R142) -/

theorem pred_setPred_same (th : Thread) (b : Bool) {n : BitVec 3} (named : n ≠ 0) : (th.setPred n b).pred n = b := by
  have inside : n.toNat < 8 := n.isLt
  simp only [Thread.pred, Thread.setPred, if_neg named]
  cases b <;> simp [inside]

theorem pred_setPred_ne (th : Thread) (b : Bool) {n m : BitVec 3} (other : m ≠ n) : (th.setPred n b).pred m = th.pred m := by
  have apart : n.toNat ≠ m.toNat := fun same => other (BitVec.eq_of_toNat_eq same.symm)
  have inside : m.toNat < 8 := m.isLt
  have kept : (1#8 <<< n.toNat).getLsbD m.toNat = false := by
    simp only [BitVec.getLsbD_shiftLeft, BitVec.getLsbD_one]
    grind
  by_cases zero : n = 0
  · rw [zero, setPred_zero]
  · simp only [Thread.setPred, if_neg zero, Thread.pred]
    cases b
    · simp only [Bool.false_eq_true, if_false, BitVec.getLsbD_and, BitVec.getLsbD_not, kept, inside, decide_true, Bool.not_false,
        Bool.and_true]
    · simp only [if_true, BitVec.getLsbD_or, kept, Bool.or_false]

/-- A write of a register changes no other part of the context. -/
theorem setReg_frame (th : Thread) (r : BitVec 4) (v : Word) : th.setReg r v = { th with g := (th.setReg r v).g } := by
  unfold Thread.setReg
  split_ifs <;> rfl

/-- A write of a predicate changes no other part of the context. -/
theorem setPred_frame (th : Thread) (n : BitVec 3) (b : Bool) : th.setPred n b = { th with preds := (th.setPred n b).preds } := by
  unfold Thread.setPred
  split_ifs <;> rfl

/-- Settles O2, read by read. -/
theorem registerFile : Obligations.RegisterFile := fun th r _ v _ _ b =>
  ⟨rfl, rfl, rfl, rfl, reg_setReg_same th r v, pred_setPred_same th b, reg_setReg_ne th v, pred_setPred_ne th b, pred_setReg ..,
    reg_setPred .., setReg_frame .., setPred_frame ..⟩

/-! ### The next instruction (R168) -/

section
variable {s : State} {t : Tid} (n : Nat)

/-- A repetition that is not the last one stays at its instruction. -/
theorem issuedThr_repeats (active : (thrOf s t).repActive = true) (more : (thrOf s t).repLeft ≠ 1) : issuedThr s t n =
    { thrOf s t with slots := (thrOf s t).slots + 1, lastAt := some s.clk, repLeft := (thrOf s t).repLeft - 1 } := by
  have again : ((thrOf s t).repActive && (thrOf s t).repLeft != 1) = true := by simpa [active] using more
  exact if_pos again

/-- The last repetition, and an instruction that is not repeated, go on. -/
theorem issuedThr_goesOn (last : (thrOf s t).repActive = false ∨ (thrOf s t).repLeft = 1) : issuedThr s t n =
    { thrOf s t with
      slots := (thrOf s t).slots + 1, lastAt := some s.clk, repActive := false, repLeft := 0
      pc := (thrOf s t).pc + BitVec.ofNat 18 n } := by
  have once : ¬ ((thrOf s t).repActive && (thrOf s t).repLeft != 1) = true := by
    rcases last with inactive | one
    · simp [inactive]
    · simp [one]
  exact if_neg once

theorem issuedThr_slots : (issuedThr s t n).slots = (thrOf s t).slots + 1 := by
  unfold issuedThr advance
  split_ifs <;> rfl

end

/-! ### Every core and helper instruction is an issue (R150, R180) -/

section
variable {i : Instr} {s : State} {t : Tid} {p : Guard} {b : Bool} {n : Nat}

/-- The thread makes no request of a helper: it cannot issue, or the guard is false (R156, R208). -/
def Unasked (s : State) (t : Tid) (p : Guard) : Prop := (canIssue s t.stn.val (tlane t) && (thrOf s t).guard p) = false

/-- No refusal of an instruction that makes no request is counted (R208). -/
theorem issueHelper_unasked (unasked : Unasked s t p) (m : Nat) (body : State → Effects) :
    issueHelper s t p m b body = issueAs true s t p b 4 body := by
  have quiet : (canIssue s t.stn.val (tlane t) && b && !guardUndef p && (getThr s t.stn.val (tlane t)).guard p) = false := by
    have split := Bool.and_eq_false_iff.mp unasked
    rw [thrOf] at split
    rcases split with unable | false_
    · simp [unable]
    · simp [false_]
  simp [issueHelper, quiet]

theorem cryptoOp_unasked (unasked : Unasked s t p) (idle : jobRunning s t.stn.val (tlane t) = false) (m : Nat) (gP : BitVec 4)
    (r : BitVec 3) (f : BitVec 4) (lim : BitVec 8) :
    ∃ body, cryptoOp s t p m gP r f lim = issueAs true s t p (lim = 0) 4 body := by
  have quiet : (canIssue s t.stn.val (tlane t) && (getThr s t.stn.val (tlane t)).guard p) = false := unasked
  unfold cryptoOp
  simp only [quiet, idle, Bool.false_and, Bool.false_eq_true, if_false]
  exact ⟨_, issueHelper_unasked unasked ..⟩

/-- Every core and helper instruction that makes no request is an issue of its guard, its encoding and its length. -/
theorem exec_eq_issueAs (core : issueOf i = some (t, p, b, n)) (unasked : Unasked s t p)
    (idle : jobRunning s t.stn.val (tlane t) = false) : ∃ body, exec i s = issueAs (helperInsn i) s t p b n body := by
  cases helper : helperInsn i with
  | false => exact exec_eq_issue core helper idle
  | true =>
    have direct (h : ∃ m body, exec i s = issueHelper s t p m b body) : ∃ body, exec i s = issueAs true s t p b 4 body := by
      obtain ⟨m, body, run⟩ := h
      exact ⟨body, run.trans (issueHelper_unasked unasked m body)⟩
    cases i with
    | crc => cases core; exact direct (crc_issue ..)
    | csadd => cases core; exact direct (csadd_issue ..)
    | csupd => cases core; exact direct (csupd_issue ..)
    | csupd32 => cases core; exact direct (csupd32_issue ..)
    | csnot => cases core; exact direct (csnot_issue ..)
    | bswap32 => cases core; exact direct (bswap32_issue ..)
    | bswap16 => cases core; exact direct (bswap16_issue ..)
    | bswapH => cases core; exact direct (bswapH_issue ..)
    | hfin => cases core; exact direct (hfin_issue ..)
    | fcmp => cases core; exact direct (fcmp_issue ..)
    | hash => cases core; exact direct (hash_issue ..)
    | lkupMac => cases core; exact direct (lkupMac_issue ..)
    | lkupLpm4 => cases core; exact direct (lkupLpm4_issue ..)
    | lkupLpm6 => cases core; exact direct (lkupLpm6_issue ..)
    | lkupStream => cases core; exact direct (lkupStream_issue ..)
    | lkupExact => cases core; exact direct (lkupExact_issue ..)
    | lread => cases core; exact direct (lread_issue ..)
    | learn => cases core; exact direct (learn_issue ..)
    | cnt => cases core; exact direct (cnt_issue ..)
    | gcm => cases core; exact cryptoOp_unasked unasked idle ..
    | hmac => cases core; exact cryptoOp_unasked unasked idle ..
    | _ => cases helper

end

/-- Settles O3: the context by its two cases (`issuedThr_repeats`, `issuedThr_goesOn`), a thread that cannot issue by `issueAs_not`. -/
theorem issueAdvances : Obligations.IssueAdvances := by
  refine ⟨fun s t n => ⟨issuedThr_slots n, ?single, ?repeats, ?last⟩, ?written, ?unable⟩
  case single =>
    intro inactive
    rw [issuedThr_goesOn n (.inl inactive)]
    exact ⟨rfl, rfl⟩
  case repeats =>
    intro active more
    rw [issuedThr_repeats n active more]
    exact ⟨rfl, rfl, active⟩
  case last =>
    intro _ one
    rw [issuedThr_goesOn n (.inr one)]
    exact ⟨rfl, rfl⟩
  case written =>
    intro th r v
    rw [setReg_frame]
    exact ⟨rfl, rfl⟩
  case unable =>
    intro i s t p b n core unable idle
    have unasked : Unasked s t p := by rw [Unasked, unable, Bool.false_and]
    obtain ⟨body, run⟩ := exec_eq_issueAs core unasked idle
    rw [run, issueAs_not _ s t p b n body unable, killTag, thrOf]
    simp only [Bool.and_eq_true]

/-- Settles O4: each instruction is an issue, whose guard decides (`issueAs_guard`). -/
theorem falseGuard : Obligations.FalseGuard := by
  intro i s t p n core ready guarded untrue idle
  have unasked : Unasked s t p := by rw [Unasked, untrue, Bool.and_false]
  obtain ⟨body, run⟩ := exec_eq_issueAs core unasked idle
  rw [run]
  exact issueAs_guard _ s t p n body ready guarded untrue

end Sys2Proof.Machine
end

section
/-! Proofs about the instructions that write one register or one predicate from what their thread's context holds (R142, R143, R158 to
R163). -/

namespace Sys2Proof.Machine

/-! ### An instruction that changes its thread's context -/

section
variable {i : Instr} {s : State} {t : Tid} {p : Guard} {n : Nat} {helper undef : Bool}

theorem issuedThr_unhalted (runs : Runs s t p) (n : Nat) : (issuedThr s t n).halt = none :=
  (issuedThr_halt s t n).trans runs.1.2

/-- The context that thread t has in the state its slot leaves. -/
theorem getThr_issuedState : getThr (issuedState s t n) t.stn.val (tlane t) = issuedThr s t n := issuedState_thr s t n

/-- A body that changes its thread's context: that change is the whole effect of an instruction that runs. -/
theorem gives_of_issueAs {f : Thread → Thread} {body : State → Effects} (run : exec i s = issueAs helper s t p false n body)
    (runs : Runs s t p) (effect : body (issuedState s t n) = .ok (modThr (issuedState s t n) t.stn.val (tlane t) f))
    (unhalted : (f (issuedThr s t n)).halt = none) : Gives i s t (f (issuedThr s t n)) := by
  refine ⟨_, ?_, onlyThread_issued s t n f⟩
  rw [run, issueAs_runs helper s t p n body runs, effect]
  refine congrArg Host.Outcome.next (haltBoundary_none _ _ _ ?_)
  rw [getThr_modThr_same, getThr_issuedState, unhalted]

/-- An instruction that runs and whose effect is a state in which its thread is not asked to halt. -/
theorem completes_of_issue {body : State → Effects} {u : State} (runs : Runs s t p) (run : exec i s = issue s t p false n body)
    (effect : body (issuedState s t n) = .ok u) (unhalted : (thrOf u t).halt = none) : exec i s = .next u := by
  rw [run, issue_runs s t p n _ runs, effect]
  exact congrArg Host.Outcome.next (haltBoundary_none _ _ _ unhalted)

theorem gives_setReg {rd : BitVec 4} {v : Thread → Word} {x : Word} (runs : Runs s t p)
    (run : exec i s = issueAs helper s t p undef n fun u => .ok (modThr u t.stn.val (tlane t) fun th => th.setReg rd (v th)))
    (defined : undef = false) (value : v (issuedThr s t n) = x) : Gives i s t ((issuedThr s t n).setReg rd x) := by
  subst value defined
  exact gives_of_issueAs (f := fun th => th.setReg rd (v th)) run runs rfl ((setReg_halt ..).trans (issuedThr_unhalted runs n))

theorem gives_setPred {pd : BitVec 3} {v : Thread → Bool} {x : Bool} (runs : Runs s t p)
    (run : exec i s = issueAs helper s t p undef n fun u => .ok (modThr u t.stn.val (tlane t) fun th => th.setPred pd (v th)))
    (defined : undef = false) (value : v (issuedThr s t n) = x) : Gives i s t ((issuedThr s t n).setPred pd x) := by
  subst value defined
  exact gives_of_issueAs (f := fun th => th.setPred pd (v th)) run runs rfl ((setPred_halt ..).trans (issuedThr_unhalted runs n))

/-- rd receives a function of what rs and rt held. -/
theorem gives_aluRRR {f : Form} {rd rs rt : BitVec 4} {op : Word → Word → Word} {x : Word} (runs : Runs s t p)
    (defined : shortBad f p [rd, rs, rt] = false) (run : exec i s = aluRRR s t p f rd rs rt op)
    (value : op ((thrOf s t).reg rs) ((thrOf s t).reg rt) = x) : Gives i s t ((issuedThr s t (formBytes f)).setReg rd x) :=
  gives_setReg runs run defined (by rw [issuedThr_reg, issuedThr_reg, value])

theorem gives_aluRRR_long {rd rs rt : BitVec 4} {op : Word → Word → Word} {x : Word} (runs : Runs s t p)
    (run : exec i s = aluRRR s t p .long rd rs rt op) (value : op ((thrOf s t).reg rs) ((thrOf s t).reg rt) = x) :
    Gives i s t ((issuedThr s t 4).setReg rd x) := gives_aluRRR runs rfl run value

/-- rd receives a function of what rs held, with rt = g0. -/
theorem gives_aluRR {rd rs : BitVec 4} {op : Word → Word} {x : Word} (runs : Runs s t p) (run : exec i s = aluRR s t p rd rs 0 op)
    (value : op ((thrOf s t).reg rs) = x) : Gives i s t ((issuedThr s t 4).setReg rd x) :=
  gives_setReg runs run rfl (by rw [issuedThr_reg, value])

/-- pd receives a function of what pa and pb held. -/
theorem gives_predOp {pd pa pb : BitVec 3} {op : Bool → Bool → Bool} {x : Bool} (runs : Runs s t p)
    (run : exec i s = predOp s t p undef pd pa pb op) (defined : undef = false)
    (value : op ((thrOf s t).pred pa) ((thrOf s t).pred pb) = x) : Gives i s t ((issuedThr s t 4).setPred pd x) :=
  gives_setPred runs run defined (by rw [issuedThr_pred, issuedThr_pred, value])

end

/-- Settles O7: each form writes its function of rs and rt (`gives_aluRRR`); MOV and NOP are short. -/
theorem registerOps : Obligations.RegisterOps := by
  intro s t p f rd rs rt runs defined th a b
  refine ⟨gives_aluRRR runs defined (by rw [exec, execAdd]) (by rfl), gives_aluRRR runs defined (by rw [exec, execSub]) (by rfl),
    gives_aluRRR runs defined (by rw [exec, execAnd]) (by rfl), gives_aluRRR runs defined (by rw [exec, execOr]) (by rfl),
    gives_aluRRR runs defined (by rw [exec, execXor]) (by rfl), gives_aluRRR runs defined (by rw [exec, execAndn]) (by rfl), ?short⟩
  rintro rfl
  obtain ⟨guarded, low⟩ : guardShort p = true ∧ ∀ r ∈ [rd, rs, rt], r.toNat ≤ 7 := by simpa [shortBad] using defined
  have movDefined : shortBad .short p [rd, rs] = false := by simp [shortBad, guarded, low]
  have nopDefined : shortBad .short p [] = false := by simp [shortBad, guarded]
  have nop : exec (.nopInsn t p) s = issueAs false s t p false 2 fun u => .ok (modThr u t.stn.val (tlane t) id) := by
    rw [exec, execNopInsn, nopDefined]
    rfl
  have nothing : Gives (.nopInsn t p) s t (issuedThr s t 2) := gives_of_issueAs (f := id) nop runs rfl (issuedThr_unhalted runs 2)
  exact ⟨gives_setReg runs (by rw [exec, execMov]; rfl) movDefined (by rw [issuedThr_reg]), nothing⟩

/-- Settles O8: each instruction writes its function of rs and rt, which the statement puts in other words for the minima, the maxima and
the product. -/
theorem longRegisterOps : Obligations.LongRegisterOps := by
  intro s t p rd rs rt runs th a b n
  refine ⟨gives_aluRRR_long runs (by rw [exec, execShl]) (by rfl), gives_aluRRR_long runs (by rw [exec, execShr]) (by rfl),
    gives_aluRRR_long runs (by rw [exec, execSar]) (by rfl), gives_aluRRR_long runs (by rw [exec, execRol]) (by rfl),
    gives_aluRRR_long runs (by rw [exec, execMin]) ?min, gives_aluRRR_long runs (by rw [exec, execMax]) ?max,
    gives_aluRRR_long runs (by rw [exec, execMinu]) ?minu, gives_aluRRR_long runs (by rw [exec, execMaxu]) ?maxu,
    gives_aluRRR_long runs (by rw [exec, execMul]) ?mul, gives_aluRRR_long runs (by rw [exec, execMulhu]) (by rfl)⟩
  case min | max => simp only [BitVec.slt, decide_eq_true_eq, a, b]
  case minu | maxu => simp only [BitVec.ult, decide_eq_true_eq, a, b]
  case mul => exact BitVec.eq_of_toNat_eq (by simp [a, b, BitVec.toNat_mul])

/-! ### Leading zeros and set bits (R160) -/

/-- Zero extension of the low bits is a mask. -/
theorem setWidth_low (a : Word) (w : Nat) :
    (a.setWidth w).setWidth 32 = a &&& BitVec.ofNat 32 (2 ^ w - 1) := by
  refine BitVec.eq_of_getLsbD_eq fun j below => ?_
  simp only [BitVec.getLsbD_setWidth, BitVec.getLsbD_and, BitVec.getLsbD_ofNat, Nat.testBit_two_pow_sub_one, below, decide_true,
    Bool.true_and, Bool.and_comm]

/-- All bits above the one that CLZ finds are zero, and that one, if any, is set. -/
theorem clz32_spec (a : Word) :
    clz32 a ≤ 32 ∧ (∀ i, i < clz32 a → a.getLsbD (31 - i) = false) ∧ (clz32 a < 32 → a.getLsbD (31 - clz32 a) = true) := by
  unfold clz32
  cases found : (List.range 32).find? fun i => a.getLsbD (31 - i) with
  | none =>
    rw [List.find?_range_eq_none] at found
    exact ⟨le_refl _, fun i below => by simpa using found i below, fun less => absurd less (lt_irrefl _)⟩
  | some j =>
    obtain ⟨set, inside, clear⟩ := List.find?_range_eq_some.mp found
    exact ⟨(List.mem_range.mp inside).le, fun i below => by simpa using clear i below, fun _ => set⟩

/-- Counting the bits that are set is counting the places where they are. -/
theorem popc32_eq (a : Word) : popc32 a = ((List.range 32).filter fun i => a.getLsbD i).length := by
  have bit (i : Nat) : bitOf a.toNat i = a.getLsbD i := by rw [bitOf, BitVec.getLsbD, Nat.testBit_eq_decide_div_mod_eq]
  have counts (l : List Nat) (c : Nat) : l.foldl (fun c i => c + b2n (bitOf a.toNat i)) c = c + (l.filter fun i => a.getLsbD i).length := by
    induction l generalizing c with
    | nil => rfl
    | cons i l ih =>
      rw [List.foldl_cons, ih, bit, List.filter_cons]
      cases a.getLsbD i
      · rfl
      · simp only [b2n, if_true, List.length_cons]
        omega
  rw [popc32, popcount, counts, Nat.zero_add]

/-- Settles O9: each instruction writes its function of rs (`gives_aluRR`), CLZ by `clz32_spec`. -/
theorem unaryOps : Obligations.UnaryOps := by
  refine ⟨fun s t p rd rs runs => ?_, clz32_spec⟩
  intro th a
  refine ⟨gives_aluRR runs (by rw [exec, execSxb]) (by rfl), gives_aluRR runs (by rw [exec, execSxh]) (by rfl),
    gives_aluRR runs (by rw [exec, execZxb]) ?byte, gives_aluRR runs (by rw [exec, execZxh]) ?half,
    gives_aluRR runs (by rw [exec, execClz]) (by rfl), gives_aluRR runs (by rw [exec, execPopc]) ?count⟩
  case byte => exact setWidth_low a 8
  case half => exact setWidth_low a 16
  case count => exact congrArg (BitVec.ofNat 32) (popc32_eq a)

/-! ### Immediates (R161) -/

/-- MOVHI replaces the upper half and keeps the lower. -/
theorem append_low_half (i : BitVec 16) (x : Word) : (i ++ x.setWidth 16 : BitVec 32) = (i.setWidth 32 <<< 16) ||| (x &&& 0xFFFF) := by
  rw [show x &&& 0xFFFF = (x.setWidth 16).setWidth 32 from (setWidth_low x 16).symm]
  refine BitVec.eq_of_getLsbD_eq fun j below => ?_
  have inside : j < 32 := below
  rw [BitVec.getLsbD_append, BitVec.getLsbD_or, BitVec.getLsbD_shiftLeft, BitVec.getLsbD_setWidth, BitVec.getLsbD_setWidth (m := 32)]
  by_cases low : j < 16
  · simp [low, inside]
  · have shifted : j - 16 < 32 := by omega
    simp [low, inside, shifted]

/-- Settles O10: each instruction writes its function of the context and its immediate. -/
theorem immediateOps : Obligations.ImmediateOps := by
  intro s t p f rd rs rt runs th a b
  refine ⟨fun defined same => ?eitherForm, ?longForm⟩
  case eitherForm =>
    have encoded : (shortBad f p [rd] || (f = .short && rs != rd)) = false := by
      cases f with
      | long => rfl
      | short => simp [defined, same rfl]
    refine ⟨fun i => gives_setReg runs (by rw [exec, execAddi]; rfl) encoded ?addi,
      fun n => ⟨gives_setReg runs (by rw [exec, execShi]; rfl) encoded ?_, gives_setReg runs (by rw [exec, execShi]; rfl) encoded ?_,
        gives_setReg runs (by rw [exec, execShi]; rfl) encoded ?_, gives_setReg runs (by rw [exec, execShi]; rfl) encoded ?_⟩,
      fun i => gives_setReg runs (by rw [exec, execMovi]; rfl) defined ?movi⟩
    case addi => rw [issuedThr_reg]; cases f <;> rfl
    case movi => cases f <;> rfl
    all_goals rw [issuedThr_reg]; rfl
  case longForm =>
    rintro rfl
    refine ⟨fun i => ⟨gives_setReg runs (by rw [exec, execAndi]; rfl) rfl ?_, gives_setReg runs (by rw [exec, execOri]; rfl) rfl ?_,
      gives_setReg runs (by rw [exec, execXori]; rfl) rfl ?_⟩, fun i => gives_setReg runs (by rw [exec, execMovhi]; rfl) rfl ?movhi,
      fun pa => gives_setReg runs (by rw [exec, execSel]; rfl) rfl ?sel⟩
    case movhi => rw [issuedThr_reg, append_low_half]
    case sel => rw [issuedThr_reg, issuedThr_reg, issuedThr_pred]
    all_goals rw [issuedThr_reg]; rfl

end Sys2Proof.Machine
end

section
/-! Proofs about compares, predicate operations, bit fields, branches and REP (R142, R143, R158, R161 to R163, R167 to R170). -/

namespace Sys2Proof.Machine

/-! ### Compares (R158, R161) -/

/-- Whether a condition is defined does not depend on the operands. -/
theorem cmpLong_isSome (cond : BitVec 4) (a b c d : Word) : (cmpLong cond a b).isSome = (cmpLong cond c d).isSome := by
  unfold cmpLong
  generalize cond.toNat = n
  split <;> simp only [Option.isSome_some]

theorem cmpHolds_isSome (f : Form) (cond : BitVec 4) (a b c d : Word) : (cmpHolds f cond a b).isSome = (cmpHolds f cond c d).isSome := by
  cases f with
  | long => exact cmpLong_isSome ..
  | short =>
    unfold cmpHolds
    cases shortCond cond with
    | none => rfl
    | some c => exact cmpLong_isSome ..

/-- The operands of a short compare: p1, registers up to g7, and the combining modes that the form has (R158). -/
def ShortCompare (p : Guard) (rs : List (BitVec 4)) (pd : BitVec 3) (comb : BitVec 2) (combs : Nat) : Prop :=
  guardShort p = true ∧ pd = 1 ∧ (∀ r ∈ rs, r.toNat ≤ 7) ∧ comb.toNat < combs

section
variable {i : Instr} {s : State} {t : Tid} {p : Guard} {f : Form} {cond : BitVec 4} {comb : BitVec 2} {pd : BitVec 3}
  {rs : List (BitVec 4)} {combs : Nat} {a b : Word} {r : Bool}

theorem compareBad_defined (holds : cmpHolds f cond a b = some r) (mode : ∀ old r, (combine comb old r).isSome = true)
    (short : f = .short → ShortCompare p rs pd comb combs) : compareBad f p rs pd cond comb combs = false := by
  have condition : (cmpHolds f cond 0 0).isNone = false := by
    rw [← Option.not_isSome, cmpHolds_isSome f cond 0 0 a b, holds]
    rfl
  have combines : (combine comb false false).isNone = false := by rw [← Option.not_isSome, mode]; rfl
  rw [compareBad, condition, combines]
  cases f with
  | long => rfl
  | short =>
    obtain ⟨guarded, rfl, low, modes⟩ := short rfl
    simpa [shortBad, guarded, modes] using low

/-- A compare that runs with a defined condition and mode writes the combined result into pd. -/
theorem gives_compare {operand : Thread → Option Bool} {old v : Bool} (runs : Runs s t p)
    (run : exec i s = issueThr s t p (compareBad f p rs pd cond comb combs) (formBytes f) fun th => setCompare th pd comb (operand th))
    (value : operand (issuedThr s t (formBytes f)) = cmpHolds f cond a b) (holds : cmpHolds f cond a b = some r)
    (held : (thrOf s t).pred pd = old) (mode : ∀ old r, (combine comb old r).isSome = true) (combined : combine comb old r = some v)
    (short : f = .short → ShortCompare p rs pd comb combs) : Gives i s t ((issuedThr s t (formBytes f)).setPred pd v) := by
  have written : setCompare (issuedThr s t (formBytes f)) pd comb (operand (issuedThr s t (formBytes f))) =
      (issuedThr s t (formBytes f)).setPred pd v := by
    rw [value, holds, setCompare]
    simp only [issuedThr_pred, held, combined]
  rw [compareBad_defined holds mode short] at run
  rw [← written]
  refine gives_of_issueAs (helper := false) (f := fun th => setCompare th pd comb (operand th))
    (body := fun u => .ok (modThr u t.stn.val (tlane t) fun th => setCompare th pd comb (operand th))) run runs rfl ?_
  rw [written, setPred_halt, issuedThr_unhalted runs]

end

/-- The long conditions (R161). -/
theorem cmpLong_table (a b : Word) :
    cmpLong 0 a b = some (decide (a = b)) ∧ cmpLong 1 a b = some (decide (a ≠ b)) ∧
    cmpLong 2 a b = some (decide (a.toInt < b.toInt)) ∧ cmpLong 3 a b = some (decide (b.toInt ≤ a.toInt)) ∧
    cmpLong 4 a b = some (decide (a.toInt ≤ b.toInt)) ∧ cmpLong 5 a b = some (decide (b.toInt < a.toInt)) ∧
    cmpLong 6 a b = some (decide (a.toNat < b.toNat)) ∧ cmpLong 7 a b = some (decide (b.toNat ≤ a.toNat)) ∧
    cmpLong 8 a b = some (decide (a.toNat ≤ b.toNat)) ∧ cmpLong 9 a b = some (decide (b.toNat < a.toNat)) ∧
    cmpLong 10 a b = some (decide (a &&& b ≠ 0)) ∧ cmpLong 11 a b = some (decide (a &&& b = 0)) := by
  have lt (x y : Int) : decide (x < y) = !decide (y ≤ x) := by rw [← decide_not, decide_eq_decide, Int.not_le]
  have ltNat (x y : Nat) : decide (x < y) = !decide (y ≤ x) := by rw [← decide_not, decide_eq_decide, Nat.not_le]
  refine ⟨?_, ?_, rfl, ?_, rfl, ?_, rfl, ?_, rfl, ?_, ?_, ?_⟩
  all_goals simp [cmpLong, BitVec.slt, BitVec.sle, BitVec.ult, BitVec.ule, beq_eq_decide, bne, lt, ltNat]

/-- Settles O11: the conditions by the table of `cmpLong`, CMP and CMPI by `gives_compare`. -/
theorem compareOps : Obligations.CompareOps := by
  refine ⟨cmpLong_table, fun a b => rfl, ?_⟩
  intro s t p f pd rs rt cond r runs th a old form
  have set (x y : Bool) : (combine 0 x y).isSome = true := rfl
  have and (x y : Bool) : (combine 1 x y).isSome = true := rfl
  have or (x y : Bool) : (combine 2 x y).isSome = true := rfl
  have short2 (comb : BitVec 2) (mode : comb.toNat < 2) (short : f = .short) : ShortCompare p [rs, rt] pd comb 2 := by
    obtain ⟨guarded, first, lowS, lowT⟩ := form short
    exact ⟨guarded, first, by simp [lowS, lowT], mode⟩
  have short1 (short : f = .short) : ShortCompare p [rs] pd 0 1 := by
    obtain ⟨guarded, first, lowS, _⟩ := form short
    exact ⟨guarded, first, by simp [lowS], Nat.one_pos⟩
  refine ⟨fun holds => ⟨?_, ?_, fun long => ?_⟩, fun i => ⟨fun short holds => ?_, fun long holds => ?_⟩⟩
  · exact gives_compare runs (by rw [exec, execCmp]) (by rw [issuedThr_reg, issuedThr_reg]) holds rfl set rfl (short2 0 (by decide))
  · exact gives_compare runs (by rw [exec, execCmp]) (by rw [issuedThr_reg, issuedThr_reg]) holds rfl and rfl (short2 1 (by decide))
  · exact gives_compare runs (by rw [exec, execCmp]) (by rw [issuedThr_reg, issuedThr_reg]) holds rfl or rfl
      fun short => nomatch long.symm.trans short
  · subst short
    exact gives_compare runs (by rw [exec, execCmpi]) (by rw [issuedThr_reg]; rfl) holds rfl set rfl short1
  · subst long
    have operand (comb : BitVec 2) (v : Bool) (mode : ∀ x y, (combine comb x y).isSome = true) (combined : combine comb old r = some v) :
        Gives (.cmpi t p .long pd rs i cond comb) s t (th.setPred pd v) :=
      gives_compare runs (by rw [exec, execCmpi]) (by rw [issuedThr_reg]; rfl) holds rfl mode combined nofun
    exact ⟨operand 0 r set rfl, operand 1 _ and rfl, operand 2 _ or rfl⟩

/-- Settles O12: each instruction writes its function of pa and pb (`gives_predOp`). -/
theorem predicateOps : Obligations.PredicateOps := by
  intro s t p pd pa pb runs th x y
  refine ⟨gives_predOp runs (by rw [exec, execPand]) rfl (by rfl), gives_predOp runs (by rw [exec, execPor]) rfl (by rfl),
    gives_predOp runs (by rw [exec, execPxor]) rfl (by rfl), gives_predOp runs (by rw [exec, execPandn]) rfl (by rfl),
    gives_predOp runs (by rw [exec, execPnot]; rfl) rfl (by rfl), gives_predOp runs (by rw [exec, execPset]; rfl) rfl (by rfl),
    gives_predOp runs (by rw [exec, execPclr]; rfl) rfl (by rfl)⟩

/-! ### Bit fields (R163) -/

section
variable (x d : Word) {pos len i : Nat}

theorem lowMask_getLsbD (inside : i < 32) : (lowMask len).getLsbD i = decide (i < len) := by
  rw [lowMask, BitVec.getLsbD_ofNat, Nat.testBit_two_pow_sub_one, decide_eq_true inside, Bool.true_and]

theorem extField_getLsbD (inside : i < 32) : (extField x pos len).getLsbD i = (decide (i < len) && x.getLsbD (pos + i)) := by
  rw [extField, BitVec.getLsbD_and, lowMask_getLsbD inside, BitVec.getLsbD_ushiftRight, Bool.and_comm]

theorem extsField_getLsbD (inside : i < 32) (some_ : 0 < len) (fits : len ≤ 32) :
    (extsField x pos len).getLsbD i = x.getLsbD (pos + min i (len - 1)) := by
  have top : (extField x pos len).getLsbD (len - 1) = x.getLsbD (pos + (len - 1)) := by
    rw [extField_getLsbD x (by omega), decide_eq_true (by omega), Bool.true_and]
  have above (high : ¬ i < len) : min i (len - 1) = len - 1 := by omega
  have within (low : i < len) : min i (len - 1) = i := by omega
  unfold extsField
  dsimp only
  rw [top]
  by_cases low : i < len
  · rw [within low]
    split_ifs <;> simp only [BitVec.getLsbD_or, BitVec.getLsbD_not, extField_getLsbD x inside, lowMask_getLsbD inside, low, inside,
      decide_true, Bool.true_and, Bool.not_true, Bool.or_false]
  · rw [above low]
    split_ifs with sign <;> simp only [BitVec.getLsbD_or, BitVec.getLsbD_not, extField_getLsbD x inside, lowMask_getLsbD inside, low,
      inside, decide_true, decide_false, Bool.false_and, Bool.not_false, Bool.true_and, Bool.or_true, sign]

theorem insField_getLsbD (inside : i < 32) :
    (insField d x pos len).getLsbD i = if pos ≤ i ∧ i < pos + len then x.getLsbD (i - pos) else d.getLsbD i := by
  have shifted : i - pos < 32 := by omega
  simp only [insField, BitVec.getLsbD_or, BitVec.getLsbD_and, BitVec.getLsbD_not, BitVec.getLsbD_shiftLeft, lowMask_getLsbD shifted, inside]
  by_cases first : pos ≤ i <;> by_cases last : i < pos + len <;> grind

end

/-- Settles O13: the three functions bit by bit. -/
theorem bitFieldOps : Obligations.BitFieldOps := by
  intro s t p rd rs pos len1 runs fits th a d n
  have defined : fieldBad pos len1 = false := by simpa [fieldBad] using fits
  refine ⟨extField a pos.toNat n, extsField a pos.toNat n, insField d a pos.toNat n,
    gives_setReg runs (by rw [exec, execExt]; rfl) defined (by rw [issuedThr_reg]),
    gives_setReg runs (by rw [exec, execExts]; rfl) defined (by rw [issuedThr_reg]),
    gives_setReg runs (by rw [exec, execIns]; rfl) defined (by rw [issuedThr_reg, issuedThr_reg]), fun i inside => ?_⟩
  exact ⟨extField_getLsbD a inside, extsField_getLsbD a inside (Nat.succ_pos _) (by omega), insField_getLsbD a d inside⟩

/-! ### Branches and REP (R167 to R170) -/

/-- A branch that runs outside a REP: the pc is what it changes beside the slot. -/
theorem gives_branch {i : Instr} {s : State} {t : Tid} {p : Guard} {undef : Bool} {n off : Nat} (runs : Runs s t p)
    (run : exec i s = issue s t p undef n fun u => .ok (branchBy u t.stn.val (tlane t) off)) (defined : undef = false)
    (once : (thrOf s t).repActive = false) : ∃ th, Gives i s t th ∧
      th.pc = (thrOf s t).pc + BitVec.ofNat 18 n + BitVec.ofNat 18 (2 * off) ∧ th = { issuedThr s t n with pc := th.pc } := by
  subst defined
  have gives := gives_of_issueAs (helper := false) (f := fun th => { th with pc := th.pc + BitVec.ofNat 18 (2 * off) }) run runs rfl
    (issuedThr_unhalted runs n)
  refine ⟨_, gives, ?_, rfl⟩
  rw [issuedThr_goesOn n (.inl once)]

/-- REP has no guard: it runs in every thread that may issue (R168). -/
theorem runs_of_ready {s : State} {t : Tid} (ready : Ready s t) : Runs s t { pred := 0, neg := false } := ⟨ready, rfl, rfl⟩

/-- The context behind a REP with a legal target: n repetitions of the target, or the target skipped (R168, R170). -/
def repContext (n : Nat) (tf : Form) (th : Thread) : Thread :=
  if n = 0 then { th with pc := th.pc + BitVec.ofNat 18 (formBytes tf) } else { th with repActive := true, repLeft := BitVec.ofNat 8 n }

theorem repContext_halt (n : Nat) (tf : Form) (th : Thread) : (repContext n tf th).halt = th.halt := by
  unfold repContext
  split_ifs <;> rfl

/-- REP before a legal target latches min(gN, cap). -/
theorem gives_rep {s : State} {t : Tid} (gN : BitVec 3) (cap : BitVec 8) (tf : Form) (ready : Ready s t) :
    Gives (.rep t gN cap .other tf) s t (repContext (min ((thrOf s t).reg (gN.setWidth 4)).toNat cap.toNat) tf (issuedThr s t 2)) := by
  have run : exec (.rep t gN cap .other tf) s = issueAs false s t { pred := 0, neg := false } false 2 fun u =>
      .ok (modThr u t.stn.val (tlane t) fun th => repContext (min (th.reg (gN.setWidth 4)).toNat cap.toNat) tf th) := by
    rw [exec, execRep]
    rfl
  have gives := gives_of_issueAs (f := fun th => repContext (min (th.reg (gN.setWidth 4)).toNat cap.toNat) tf th) run (runs_of_ready ready)
    rfl ((repContext_halt ..).trans (issuedThr_unhalted (runs_of_ready ready) 2))
  rwa [issuedThr_reg] at gives

/-- Settles O20: the effect of each is a change of its own context, or the trap before an illegal target. -/
theorem branchesAndRep : Obligations.BranchesAndRep := by
  refine ⟨fun s t p runs once => ⟨fun off => gives_branch runs (by rw [exec, execBr]) rfl once, fun off short => ?brs⟩,
    fun s t gN cap target tf ready => ?rep⟩
  case brs =>
    have defined : shortBad .short p [] = false := by simp [shortBad, short]
    exact gives_branch runs (by rw [exec, execBrs]) defined once
  case rep =>
    intro th n
    refine ⟨?repeats, ?skips, ?illegal⟩
    case repeats =>
      rintro rfl some_
      have gives := gives_rep gN cap tf ready
      rwa [repContext, if_neg some_.ne'] at gives
    case skips =>
      rintro rfl none_
      have gives := gives_rep gN cap tf ready
      rwa [repContext, if_pos none_] at gives
    case illegal =>
      intro named
      have illegal : repIllegal target = true := by simpa [repIllegal] using named
      rw [exec, execRep, issue_runs s t _ 2 _ (runs_of_ready ready)]
      simp only [illegal, if_true]

end Sys2Proof.Machine
end

section
/-! What the slot of an instruction leaves of the state, and two updates of one context after another (R125, R148, R150). -/

namespace Sys2Proof.Machine

/-! ### One update after another -/

section
variable {α : Type} (m : Sparse α) (k : Nat)

theorem sdel_sdel : sdel (sdel m k) k = sdel m k := by simp [sdel]

theorem sdel_sput (v : α) : sdel (sput m k v) k = sdel m k := by
  induction m with
  | nil => simp [sput, sdel]
  | cons x rest ih =>
    obtain ⟨j, w⟩ := x
    rw [sput]
    split_ifs
    · simp [sdel]
    · rw [sdel, List.filter_cons, ← sdel, ih, sdel, sdel, List.filter_cons]

/-- The later of two writes of one key stands. -/
theorem sset_sset [DecidableEq α] (d v w : α) : sset d (sset d m k v) k w = sset d m k w := by
  have cleared : sdel (sset d m k v) k = sdel m k := by
    rw [sset]
    split_ifs
    · exact sdel_sdel m k
    · rw [sdel_sput, sdel_sdel]
  rw [sset, cleared, ← sset]

theorem smod_smod [DecidableEq α] (d : α) (f g : α → α) : smod d (smod d m k f) k g = smod d m k fun x => g (f x) := by
  have held := sget_smod_same d m k f
  unfold smod at held ⊢
  rw [held, sset_sset]

end

theorem modStn_modStn (s : State) (k : Nat) (f g : Station → Station) : modStn (modStn s k f) k g = modStn s k fun st => g (f st) :=
  congrArg (fun stn => { s with stn := stn }) (smod_smod s.stn k {} f g)

theorem modThr_modThr (s : State) (k l : Nat) (f g : Thread → Thread) : modThr (modThr s k l f) k l g = modThr s k l fun th => g (f th) := by
  rw [modThr, modThr, modStn_modStn, modThr]
  exact congrArg (modStn s k) (funext fun st => congrArg (fun ths => { st with threads := ths }) (smod_smod st.threads l {} f g))

/-! ### The state that the slot leaves -/

section
variable (s : State) (t : Tid) (n : Nat)

/-- Only stations and counters move with the slot. -/
theorem issuedState_stnPar : StnPar s (issuedState s t n) := stnPar_modStn (useSlot_stnPar s t.stn.val (tlane t)) t.stn.val _

theorem issuedState_rest (j : Nat) : stnRest (getStn (issuedState s t n) j) = stnRest (getStn s j) := by
  rw [issuedState, stnRest_modThr, useSlot_rest]

theorem issuedState_thr_ne {j m : Nat} (other : (j, m) ≠ (t.stn.val, tlane t)) : getThr (issuedState s t n) j m = getThr s j m := by
  rw [issuedState, getThr_modThr_ne _ _ other, useSlot_thr_ne _ other]

theorem issuedState_task (j i : Nat) : getTask (issuedState s t n) j i = getTask s j i := by
  have tasks := congrArg Station.tasks (issuedState_rest s t n j)
  exact congrArg (fun ts => sget {} ts i) tasks

theorem issuedThr_task : (issuedThr s t n).task = (thrOf s t).task := by
  unfold issuedThr advance
  split_ifs <;> rfl

theorem issuedState_thrTask : thrTask (issuedState s t n) t.stn.val (tlane t) = thrTask s t.stn.val (tlane t) := by
  rw [thrTask, getThr_issuedState, issuedThr_task, issuedState_task, thrTask, thrOf]

theorem issuedState_ed : (issuedState s t n).ed = s.ed := by rw [issuedState_stnPar s t n]

theorem issuedState_tbl : (issuedState s t n).tbl = s.tbl := by rw [issuedState_stnPar s t n]

end

end Sys2Proof.Machine
end

section
/-! Proofs about the field unit and the hash unit (R142, R188, R189, R191, R192). -/

namespace Sys2Proof.Machine

/-- A helper instruction with a defined encoding issues as any other (R180). -/
theorem issueHelper_defined (s : State) (t : Tid) (p : Guard) (m : Nat) (body : State → Effects) :
    issueHelper s t p m false body = issueAs true s t p false 4 body := by
  simp [issueHelper]

/-! ### Checksums (R188) -/

theorem ocNot_lo16 (x : Word) : ocNot (lo16 x) = 65535 - x.toNat % 65536 := by
  rw [ocNot, lo16, Nat.mod_mod]

theorem ocNot_hi16 (x : Word) : ocNot (hi16 x) = 65535 - x.toNat / 65536 := by
  have half : x.toNat / 65536 < 65536 := Nat.div_lt_of_lt_mul x.isLt
  rw [ocNot, hi16, Nat.mod_eq_of_lt half]

/-! ### Byte swaps (R188) -/

theorem swap32_getLsbD (x : Word) {i : Nat} (inside : i < 32) : (swap32 x).getLsbD i = x.getLsbD (8 * (3 - i / 8) + i % 8) := by
  simp only [swap32, BitVec.getLsbD_append, BitVec.getLsbD_setWidth, BitVec.getLsbD_ushiftRight]
  grind

theorem swapH_getLsbD (x : Word) {i : Nat} (inside : i < 32) : (swapH x).getLsbD i = x.getLsbD ((i + 16) % 32) := by
  rw [swapH, BitVec.getLsbD_rotateLeft]
  grind

theorem swap16_getLsbD (x : Word) {i : Nat} (inside : i < 32) :
    (swap16 x).getLsbD i = x.getLsbD (if i / 8 % 2 = 0 then i + 8 else i - 8) := by
  rw [swap16, swapH_getLsbD _ inside, swap32_getLsbD _ (Nat.mod_lt _ (by decide))]
  congr 1
  split_ifs <;> omega

section
variable {i : Instr} {s : State} {t : Tid} {p : Guard}

/-- An instruction of the field unit or the hash unit that writes rd from what the context holds. -/
theorem gives_helperReg {m : Nat} {undef : Bool} {rd : BitVec 4} {v : Thread → Word} {x : Word} (runs : Runs s t p)
    (run : exec i s = issueHelper s t p m undef fun u => .ok (modThr u t.stn.val (tlane t) fun th => th.setReg rd (v th)))
    (defined : undef = false) (value : v (issuedThr s t 4) = x) : Gives i s t ((issuedThr s t 4).setReg rd x) := by
  rw [defined, issueHelper_defined] at run
  exact gives_setReg runs run rfl value

theorem gives_csum {undef : Bool} {rd rs rt : BitVec 4} {f : Word → Word → Word → Nat} {v : Nat} (runs : Runs s t p)
    (run : exec i s = csumOp s t p undef rd rs rt f) (defined : undef = false)
    (value : f ((thrOf s t).reg rd) ((thrOf s t).reg rs) ((thrOf s t).reg rt) = v) :
    Gives i s t ((issuedThr s t 4).setReg rd (BitVec.ofNat 32 v)) :=
  gives_helperReg runs run defined (by rw [issuedThr_reg, issuedThr_reg, issuedThr_reg, value])

theorem gives_bswap {rd rs : BitVec 4} {f : Word → Word} (runs : Runs s t p) (run : exec i s = bswapOp s t p rd rs f) :
    Gives i s t ((issuedThr s t 4).setReg rd (f ((thrOf s t).reg rs))) :=
  gives_helperReg runs run rfl (by rw [issuedThr_reg])

/-- HASH takes its key from the edition of the task, or from rt (R192). -/
theorem gives_hash {rd rs rt : BitVec 4} {ksel : Bool} (runs : Runs s t p) (defined : (!ksel && rt != 0) = false) :
    Gives (.hash t p rd rs rt ksel) s t ((issuedThr s t 4).setReg rd (hashStep ((thrOf s t).reg rd) ((thrOf s t).reg rs)
      (if ksel then (thrOf s t).reg rt else BitVec.ofNat 32 (edGet s (thrTask s t.stn.val (tlane t)).tag pidClsHashKey)))) := by
  have key : edGet (issuedState s t 4) (thrTask (issuedState s t 4) t.stn.val (tlane t)).tag pidClsHashKey =
      edGet s (thrTask s t.stn.val (tlane t)).tag pidClsHashKey := by
    rw [issuedState_thrTask, edGet, liveEd, issuedState_ed, edGet, liveEd]
  have run := (show exec (.hash t p rd rs rt ksel) s = execHash t p rd rs rt ksel s by rw [exec])
  rw [execHash, defined, issueHelper_defined] at run
  have gives := gives_of_issueAs (f := fun th => th.setReg rd (hashStep (th.reg rd) (th.reg rs)
    (if ksel then th.reg rt else BitVec.ofNat 32 (edGet s (thrTask s t.stn.val (tlane t)).tag pidClsHashKey)))) run runs
    (by rw [key]) ((setReg_halt ..).trans (issuedThr_unhalted runs 4))
  rwa [issuedThr_reg, issuedThr_reg, issuedThr_reg] at gives

/-- FCMP on readable operands. -/
theorem gives_fcmp {pd : BitVec 3} {gA gB n1 : BitVec 4} {cond : BitVec 2} (runs : Runs s t p) (defined : decide (1 < cond.toNat) = false)
    (readA : helperOk (issuedState s t 4) t.stn.val (tlane t) (((thrOf s t).reg gA).toNat % 2 ^ 16) (n1.toNat + 1) = true)
    (readB : helperOk (issuedState s t 4) t.stn.val (tlane t) (((thrOf s t).reg gB).toNat % 2 ^ 16) (n1.toNat + 1) = true) :
    Gives (.fcmp t p pd gA gB n1 cond) s t ((issuedThr s t 4).setPred pd
      ((loadBytes (issuedState s t 4) t.stn.val (tlane t) (((thrOf s t).reg gA).toNat % 2 ^ 16) (n1.toNat + 1) ==
        loadBytes (issuedState s t 4) t.stn.val (tlane t) (((thrOf s t).reg gB).toNat % 2 ^ 16) (n1.toNat + 1)) != decide (cond = 1))) := by
  have run := (show exec (.fcmp t p pd gA gB n1 cond) s = execFcmp t p pd gA gB n1 cond s by rw [exec])
  rw [execFcmp] at run
  rw [defined, issueHelper_defined] at run
  refine gives_of_issueAs (f := fun th => th.setPred pd _) run runs ?_ ((setPred_halt ..).trans (issuedThr_unhalted runs 4))
  dsimp only
  rw [getThr_issuedState, issuedThr_reg, issuedThr_reg, helperBytes, if_pos readA, helperBytes, if_pos readB]

/-- CRC of a readable, aligned operand: rd is updated, and with PI the address; the task completes no earlier than the access (R176,
R188). -/
theorem gives_crc {rd gA : BitVec 4} {poly : BitVec 3} {size : BitVec 2} {pi : Bool} {w : Nat} (runs : Runs s t p) (known : poly.toNat ≤ 3)
    (width : sizeBytes size = some w) (apart : pi = true → rd ≠ gA)
    (aligned : alignedFor (((thrOf s t).reg gA).toNat % 2 ^ 16) w = true)
    (readable : helperOk (issuedState s t 4) t.stn.val (tlane t) (((thrOf s t).reg gA).toNat % 2 ^ 16) w = true) :
    let a := ((thrOf s t).reg gA).toNat % 2 ^ 16
    let th := issuedThr s t 4
    let th := { th with endAt := max th.endAt (s.clk - commitCycles + (rangeLatency a + 2)) }
    let v := crcPoly poly.toNat ((thrOf s t).reg rd) (loadBytes (issuedState s t 4) t.stn.val (tlane t) a w)
    Gives (.crc t p rd gA poly size pi) s t
      (if pi then (th.setReg rd v).setReg gA ((thrOf s t).reg gA + BitVec.ofNat 32 w) else th.setReg rd v) := by
  intro a th0 th v
  have defined : (decide (3 < poly.toNat) || (some w).isNone || (pi && decide (rd = gA))) = false := by simpa [known] using apart
  have run := (show exec (.crc t p rd gA poly size pi) s = execCrc t p rd gA poly size pi s by rw [exec])
  rw [execCrc, width, Option.getD_some] at run
  dsimp only at run
  rw [defined, issueHelper_defined] at run
  refine gives_of_issueAs (f := fun x =>
    let x := { x with endAt := max x.endAt (s.clk - commitCycles + (rangeLatency a + 2)) }
    if pi then (x.setReg rd v).setReg gA ((thrOf s t).reg gA + BitVec.ofNat 32 w) else x.setReg rd v) run runs ?_ ?_
  · dsimp only
    rw [getThr_issuedState, issuedThr_reg, issuedThr_reg, aligned, helperBytes, if_pos readable]
    dsimp only
    rw [noteAccess, modThr_modThr, issuedState_clk]
    rfl
  · dsimp only
    split_ifs
    · rw [setReg_halt, setReg_halt, issuedThr_unhalted runs]
    · rw [setReg_halt, issuedThr_unhalted runs]

/-- Settles O25: each instruction from what it writes of its context; the checksums and swaps by what their functions are. -/
theorem fieldAndHashUnits : Obligations.FieldAndHashUnits := by
  intro s t p rd rs rt runs k l th s1 a b d lo hi oc put
  refine ⟨gives_csum runs (by rw [exec, execCsadd]) rfl (by rfl), gives_csum runs (by rw [exec, execCsupd]) rfl ?upd,
    gives_csum runs (by rw [exec, execCsupd32]) rfl ?upd32, gives_csum runs (by rw [exec, execCsnot]; rfl) rfl ?not,
    ⟨swap32 a, swap16 a, swapH a, gives_bswap runs (by rw [exec, execBswap32]), gives_bswap runs (by rw [exec, execBswap16]),
      gives_bswap runs (by rw [exec, execBswapH]), fun i inside => ⟨swap32_getLsbD a inside, swap16_getLsbD a inside, swapH_getLsbD a inside⟩⟩,
    gives_hash runs rfl, gives_hash runs rfl, gives_helperReg runs (by rw [exec, execHfin]) rfl (by rw [issuedThr_reg]; rfl),
    fun pd n1 readA readB => ⟨?equal, ?unequal⟩, fun poly size pi w => gives_crc runs⟩
  case upd => rw [csUpd, ocNot_lo16, ocNot_lo16]; rfl
  case upd32 => rw [csUpd32, ocNot_lo16, ocNot_lo16, ocNot_hi16]; rfl
  case not => exact ocNot_lo16 a
  case equal =>
    have gives := gives_fcmp (pd := pd) (cond := 0) runs rfl readA readB
    rwa [show decide ((0 : BitVec 2) = 1) = false from rfl, Bool.bne_false] at gives
  case unequal =>
    have gives := gives_fcmp (pd := pd) (cond := 1) runs rfl readA readB
    rwa [show decide ((1 : BitVec 2) = 1) = true from rfl, Bool.bne_true] at gives

end

end Sys2Proof.Machine
end

section
/-! What the accesses of a thread leave of the contexts: stores of an earlier CPY, loads and stores (R144 to R149, R152, R165, R256, R281). -/

namespace Sys2Proof.Machine

/-! ### Stores of an earlier CPY (R152, R165) -/

section
variable (s : State)

/-- A write of a lock word changes no station. -/
theorem lockWrite_stn (m w v task : Nat) (refused : Bool) : (lockWrite s m w v task refused).1.stn = s.stn := by
  have acquired : (lockAcquireWrite s m w task refused).stn = s.stn := by
    unfold lockAcquireWrite
    dsimp only
    split_ifs <;> rfl
  unfold lockWrite
  split_ifs
  · rfl
  · exact acquired
  all_goals rfl

/-- No context changes with a store of CPY that is performed. -/
theorem applyStore_thr (e : Effect) (j m : Nat) : getThr (applyStore s e) j m = getThr s j m := by
  cases e with
  | memStore k l place bs =>
    exact getThr_modStn_keeps s k (f := fun st => { st with mem := ssetRange 0 st.mem place bs }) (fun _ => rfl) j m
  | lockStore k l w v task refused => exact getThr_congr (lockWrite_stn ..) j m
  | _ => rfl

variable (k l a : Nat)

/-- Every part of the state that the stores of a CPY keep is kept when they are performed before a later access. -/
theorem orderStores_keeps {α : Type} (part : State → α) (delayed : ∀ d, part { s with delayed := d } = part s)
    (kept : ∀ u e, part (applyStore u e) = part u) : part (orderStores s k l a) = part s := by
  rw [orderStores, foldl_keeps part fun u (e : Nat × Effect) => kept u e.2, delayed]

theorem orderStores_thr (j m : Nat) : getThr (orderStores s k l a) j m = getThr s j m :=
  orderStores_keeps s k l a (fun u => getThr u j m) (fun _ => rfl) fun u e => applyStore_thr u e j m

end

/-- The access of an instruction sees its thread's context as the slot leaves it. -/
theorem accessState_thr (s : State) (t : Tid) (n a : Nat) : getThr (accessState s t n a) t.stn.val (tlane t) = issuedThr s t n := by
  rw [accessState, orderStores_thr, getThr_issuedState]

/-! ### Loads (R148, R281) -/

section
variable {s : State} {t : Tid} {a w : Nat}

theorem reportParity_stn (s : State) (place reporter : Nat) : (reportParity s place reporter).stn = s.stn := by
  rw [reportParity]
  exact congrArg Prod.fst (report_keeps ..)

/-- A load latches NOW_HI at most, of what contexts hold. -/
theorem loadEffect_keeps {α : Type} (part : Thread → α) (kept : ∀ th v, part { th with nowHi := v } = part th)
    (s : State) (k l a w j m : Nat) :
    part (getThr (loadEffect s k l a w) j m) = part (getThr s j m) := by
  unfold loadEffect
  dsimp only
  split
  · split_ifs
    · exact getThr_modThr_keeps s k part (fun th => kept th _) l j m
    · rfl
  · split_ifs
    · rw [getThr_congr (reportParity_stn ..)]
    · rfl
  · rfl

/-- Outside the control registers and the table aperture a load does nothing beside returning data. -/
theorem loadEffect_plain (plain : ¬ ReadActs a) (k l : Nat) : loadEffect s k l a w = s := by
  obtain ⟨regs, aperture⟩ := not_or.mp plain
  unfold loadEffect
  split
  · exact absurd ‹_› regs
  · exact absurd ‹_› aperture
  · rfl

theorem tload_allowed (allowed : LoadAllowed s t a w) : tload s t.stn.val (tlane t) a w =
    .ok (bytesValue a (loadBytes s t.stn.val (tlane t) a w), loadEffect s t.stn.val (tlane t) a w) := by
  obtain ⟨ok, permitted⟩ := allowed
  have admitted : (rangeOf a = .locks && lockExcluded s t.stn.val (tlane t)) = false := by
    simpa using permitted
  rw [tload, ok, admitted]
  rfl

theorem tload_refused (refused : ¬ LoadAllowed s t a w) : tload s t.stn.val (tlane t) a w = .error (trapAddress a) := by
  rw [tload]
  split_ifs with bad excluded
  · rfl
  · rfl
  · exact absurd ⟨by simpa using bad, by simpa using excluded⟩ refused

end

/-! ### Stores (R144 to R148) -/

/-- A context but for the copies of packet bytes that a store writes. -/
def Thread.sansCopies (th : Thread) : Thread := { th with head := [], desc := 0, stored := [] }

theorem storeLock_stn {s u : State} {k l a v : Nat} (stored : storeLock s k l a v = .ok u) : u.stn = s.stn := by
  unfold storeLock at stored
  dsimp only at stored
  split_ifs at stored
  split at stored
  · next written =>
    cases stored
    exact (congrArg (fun r => r.1.stn) written).symm.trans (lockWrite_stn ..)
  · cases stored

section
variable {s u : State} {k l a w v : Nat}

theorem tstore_accessOk (stored : tstore s k l a w v = .ok u) : accessOk s k l a w = true := by
  by_contra refused
  rw [Bool.not_eq_true] at refused
  simp [tstore, refused] at stored

theorem tstore_locks (ok : accessOk s k l a w = true) (range : rangeOf a = .locks) :
    tstore s k l a w v = storeLock s k l a (v % 2 ^ (8 * w)) := by
  simp [tstore, ok, range]

theorem tstore_regs (ok : accessOk s k l a w = true) (range : rangeOf a = .regs) : tstore s k l a w v =
    if ctlWritable (a - 0xF000) && w = 2 then .ok (ctlWrite s k l (a - 0xF000) (BitVec.ofNat 16 (v % 2 ^ (8 * w))))
    else .error (trapAddress a) := by
  simp only [tstore, ok, range, Bool.not_true, Bool.false_eq_true, if_false]

/-- A store changes the copies of packet bytes at most, of what contexts hold. -/
theorem tstore_sansCopies (stored : tstore s k l a w v = .ok u) (j m : Nat) :
    (getThr u j m).sansCopies = (getThr s j m).sansCopies := by
  have ok := tstore_accessOk stored
  have memory (range : rangeOf a = .scratch ∨ rangeOf a = .flow ∨ rangeOf a = .shared) : getThr u j m = getThr s j m := by
    rw [tstore_stationMemory ok v range] at stored
    cases stored
    exact getThr_modStn_keeps s k (fun _ => by rfl) j m
  have readOnly (range : rangeOf a = .tail ∨ rangeOf a = .metadata ∨ rangeOf a = .result ∨ rangeOf a = .chanWin) : False := by
    rw [tstore_readOnlyRange ok v range] at stored
    cases stored
  cases range : rangeOf a with
  | head =>
    rw [tstore_head ok v range] at stored
    cases stored
    exact getThr_modThr_keeps s k Thread.sansCopies (fun _ => by rfl) l j m
  | desc =>
    by_cases writable : ∀ i, i < w → descByteRw (a + i - 0x120) = true
    · rw [tstore_desc ok v range writable] at stored
      cases stored
      exact getThr_modThr_keeps s k Thread.sansCopies (fun _ => by rfl) l j m
    · rw [tstore_descReadOnly ok v range (by simpa using writable)] at stored
      cases stored
  | scratch | flow | shared => rw [memory (by simp [range])]
  | locks =>
    rw [tstore_locks ok range] at stored
    rw [getThr_congr (storeLock_stn stored)]
  | aperture =>
    rw [tstore_aperture ok v range] at stored
    split_ifs at stored
    cases stored
    rfl
  | regs =>
    rw [tstore_regs ok range] at stored
    split_ifs at stored
    cases stored
    rfl
  | tail | metadata | result | chanWin => exact (readOnly (by simp [range])).elim
  | unmapped => simp [accessOk, range] at ok

end

end Sys2Proof.Machine
end

section
/-! Proofs about loads and stores of threads (R144, R145, R148, R149, R158, R164, R176). -/

namespace Sys2Proof.Machine

section
variable {i : Instr} {s : State} {t : Tid} {p : Guard} {f : Form} {rd rs : BitVec 4} {off : BitVec 12} {pi : Bool} {w : Nat}

/-- A load is what its width and extension make of it (R164). -/
theorem loadsAs_of_loadOp {ext : Nat → Word} (runs : Runs s t p) (run : exec i s = loadOp s t p f rd rs off pi w ext)
    (defined : (shortBad f p [rd, rs] || shortOffBad f off pi || (pi && decide (rd = rs))) = false) :
    LoadsAs i s t f rd rs off pi w ext := by
  unfold LoadsAs
  intro k l base a s1 done
  have kept (th : Thread) : (done th).halt = th.halt := by
    dsimp only [done]
    split_ifs <;> simp only [setReg_halt]
  have unhalted : (getThr s1 k l).halt = none := by rw [accessState_thr, issuedThr_unhalted runs]
  rw [loadOp, defined, issue_runs s t p _ _ runs, getThr_issuedState, issuedThr_reg] at run
  dsimp only at run
  have completes (allowed : LoadAllowed s1 t a w) :
      exec i s = .next (modThr (noteAccess (loadEffect s1 k l a w) k l (rangeLatency a)) k l done) := by
    have loaded : tload (orderStores (issuedState s t (formBytes f)) k l a) k l a w = _ := tload_allowed allowed
    rw [loaded] at run
    refine run.trans (congrArg Host.Outcome.next (haltBoundary_none _ _ _ ?_))
    rw [getThr_modThr_same]
    refine (kept _).trans ?_
    rw [noteAccess, getThr_modThr_same]
    exact (loadEffect_keeps Thread.halt (fun _ _ => rfl) ..).trans unhalted
  refine ⟨completes, fun allowed plain alone => ?only, fun refused => ?traps⟩
  case only =>
    refine ⟨_, completes allowed, ?_⟩
    have slot : s1 = issuedState s t (formBytes f) := accessState_eq s t _ a alone
    rw [loadEffect_plain plain, noteAccess, modThr_modThr, slot, issuedState_clk]
    exact onlyThread_issued s t (formBytes f) fun th =>
      done { th with endAt := max th.endAt (s.clk - commitCycles + rangeLatency a) }
  case traps =>
    have trap : tload (orderStores (issuedState s t (formBytes f)) k l a) k l a w = _ := tload_refused refused
    rw [trap] at run
    exact run

/-- A store is what its width makes of it (R164). -/
theorem storesAs_of_storeOp (runs : Runs s t p) (run : exec i s = storeOp s t p f rd rs off pi w)
    (defined : (shortBad f p [rd, rs] || shortOffBad f off pi) = false) : StoresAs i s t f rd rs off pi w := by
  unfold StoresAs
  intro k l base a s1 bump
  rw [storeOp, defined, issue_runs s t p _ _ runs, getThr_issuedState] at run
  dsimp only at run
  rw [issuedThr_reg, issuedThr_reg] at run
  refine ⟨fun u stored => ?stores, fun e refused => ?traps⟩
  case stores =>
    have unhalted : (getThr u k l).halt = none := by
      have same := congrArg Thread.halt (tstore_sansCopies stored k l)
      rw [accessState_thr] at same
      exact same.trans (issuedThr_unhalted runs _)
    have noted : (getThr (noteAccess u k l (rangeLatency a)) k l).halt = none := by rw [noteAccess, getThr_modThr_same, unhalted]
    have stored' : tstore (orderStores (issuedState s t (formBytes f)) k l a) k l a w ((thrOf s t).reg rd).toNat = _ := stored
    rw [stored'] at run
    refine run.trans (congrArg Host.Outcome.next (haltBoundary_none _ _ _ ?_))
    split_ifs
    · rw [getThr_modThr_same, setReg_halt, noted]
    · exact noted
  case traps =>
    have trap : tstore (orderStores (issuedState s t (formBytes f)) k l a) k l a w ((thrOf s t).reg rd).toNat = _ := refused
    rw [trap] at run
    exact run

end

/-- Settles O14: each instruction is a load of its width and extension. -/
theorem threadLoads : Obligations.ThreadLoads := by
  intro s t p f rd rs off pi runs apart
  have distinct : (pi && decide (rd = rs)) = false := by simpa using apart
  have longForm : (shortBad .long p [rd, rs] || shortOffBad .long off pi || (pi && decide (rd = rs))) = false := distinct
  refine ⟨fun regs offset => ?_, loadsAs_of_loadOp runs (by rw [exec, execLdh]; rfl) longForm,
    loadsAs_of_loadOp runs (by rw [exec, execLdbs]; rfl) longForm, loadsAs_of_loadOp runs (by rw [exec, execLdhs]; rfl) longForm⟩
  have defined : (shortBad f p [rd, rs] || shortOffBad f off pi || (pi && decide (rd = rs))) = false := by rw [regs, offset, distinct]; rfl
  exact ⟨loadsAs_of_loadOp runs (by rw [exec, execLdb]; rfl) defined, loadsAs_of_loadOp runs (by rw [exec, execLdw]; rfl) defined⟩

/-- Settles O16: each instruction is a store of its width. -/
theorem threadStores : Obligations.ThreadStores := by
  intro s t p f rd rs off pi runs
  refine ⟨fun regs offset => ?_, storesAs_of_storeOp runs (by rw [exec, execSth]) rfl⟩
  have defined : (shortBad f p [rd, rs] || shortOffBad f off pi) = false := by rw [regs, offset]; rfl
  exact ⟨storesAs_of_storeOp runs (by rw [exec, execStb]) defined, storesAs_of_storeOp runs (by rw [exec, execStw]) defined⟩

/-! ### Control registers of a thread (R148) -/

theorem exec_nowLoRead (s : State) (t : Tid) (rd : BitVec 4) (on : runsOn (getStn s t.stn.val) (tlane t) = true) :
    exec (.nowLoRead t rd) s = .next (modThr (latchNow s t.stn.val (tlane t)) t.stn.val (tlane t) fun th =>
      th.setReg rd (BitVec.ofNat 32 (nowStamp s))) := by
  rw [exec, execNowLoRead]
  simp only [on, if_true]

theorem exec_threadRegWrite (s : State) (t : Tid) (off : BitVec 8) (v : BitVec 16) (on : runsOn (getStn s t.stn.val) (tlane t) = true) :
    exec (.threadRegWrite t off v) s = .next (if ctlWritable off.toNat then delay s 2 (.threadReg t.stn.val (tlane t) off.toNat v)
      else takeTrap s t.stn.val (tlane t) (trapAddress (0xF000 + off.toNat))) := by
  rw [exec, execThreadRegWrite]
  simp only [on, if_true]
  split_ifs <;> rfl

/-- PREDS gives p1 to p7. -/
theorem ctlApply_preds (s : State) (k l : Nat) (v : BitVec 16) {n : BitVec 3} (named : n ≠ 0) :
    (getThr (ctlApply s k l 0x20 v) k l).pred n = v.getLsbD n.toNat := by
  have place : n.toNat < 8 := n.isLt
  have nonzero : n.toNat ≠ 0 := fun zero => named (BitVec.eq_of_toNat_eq zero)
  have mask : (0xFE : BitVec 8).getLsbD n.toNat = true := by
    have all : ∀ i < 8, i ≠ 0 → (0xFE : BitVec 8).getLsbD i = true := by decide
    exact all _ place nonzero
  have written : getThr (ctlApply s k l 0x20 v) k l = { getThr s k l with preds := v.setWidth 8 &&& 0xFE } := getThr_modThr_same ..
  rw [written, Thread.pred, if_neg named, BitVec.getLsbD_and, BitVec.getLsbD_setWidth, mask, decide_eq_true place, Bool.true_and,
    Bool.and_true]

/-- Settles O29: the stores wait for their two cycles, and what falls due is `ctlApply`. -/
theorem threadRegisters : Obligations.ThreadRegisters := by
  refine ⟨fun s t v off on => ⟨?fclr, fun listed => ?writable, fun refused => ?refused, fun rd => ?nowLo⟩, fun _ _ _ _ _ => rfl,
    fun s k l v => ⟨?flags, ?wbank, ?lkgrp, ?tbase, ?chsel, fun n named => ctlApply_preds s k l v named⟩⟩
  case fclr =>
    rw [exec, execFclrWrite, if_pos on]
    rfl
  case writable =>
    have writable : ctlWritable off.toNat = true := by
      rcases listed with rfl | rfl | rfl | rfl | rfl | rfl <;> rfl
    rw [exec_threadRegWrite s t off v on, if_pos writable]
  case refused => rw [exec_threadRegWrite s t off v on, refused]; rfl
  case nowLo =>
    have context : thrOf (modThr (latchNow s t.stn.val (tlane t)) t.stn.val (tlane t) fun th => th.setReg rd (BitVec.ofNat 32 (nowStamp s))) t =
        Thread.setReg { thrOf s t with nowHi := BitVec.ofNat 32 (nowStamp s / 2 ^ 32) } rd (BitVec.ofNat 32 (nowStamp s)) := by
      rw [thrOf, getThr_modThr_same, latchNow, getThr_modThr_same, thrOf]
    refine ⟨_, exec_nowLoRead s t rd on, ?_, fun named => ?_, fun r other => ?_⟩
    · rw [context, setReg_frame]
    · rw [context, reg_setReg_same _ _ _ named]
    · have kept (x : Word) : Thread.reg { thrOf s t with nowHi := x } r = (thrOf s t).reg r := rfl
      rw [context, reg_setReg_ne _ _ other, kept]
  case flags | wbank | lkgrp | tbase | chsel => simp [ctlApply]

end Sys2Proof.Machine
end

section
/-! Proofs about a load behind a store: the ranges that show what was stored (R144, R152, R276). -/

namespace Sys2Proof.Machine

/-! ### The bounds of the ranges (R144) -/

theorem rangeOf_eq_head {a : Nat} : rangeOf a = .head ↔ a < 0x100 := by
  fun_cases rangeOf a <;> simp only [reduceCtorEq, true_iff, false_iff] <;> omega

theorem rangeOf_eq_scratch {a : Nat} : rangeOf a = .scratch ↔ 0x1000 ≤ a ∧ a < 0x2000 := by
  fun_cases rangeOf a <;> simp only [reduceCtorEq, true_iff, false_iff] <;> omega

theorem rangeOf_eq_flow {a : Nat} : rangeOf a = .flow ↔ 0x2000 ≤ a ∧ a < 0x4000 := by
  fun_cases rangeOf a <;> simp only [reduceCtorEq, true_iff, false_iff] <;> omega

theorem rangeOf_eq_shared {a : Nat} : rangeOf a = .shared ↔ 0x4000 ≤ a ∧ a < 0xC000 := by
  fun_cases rangeOf a <;> simp only [reduceCtorEq, true_iff, false_iff] <;> omega

/-! ### What a load returns, range by range -/

section
variable {s : State} {k l a w : Nat}

/-- The last byte of an access lies in the range of the first. -/
theorem rangeOf_last (ok : accessOk s k l a w = true) : rangeOf (a + w - 1) = rangeOf a := by
  simp only [accessOk, Bool.and_eq_true, decide_eq_true_eq] at ok
  exact ok.1.1.2.symm

theorem loadBytes_head (ok : accessOk s k l a w = true) (range : rangeOf a = .head) :
    loadBytes s k l a w = (List.range w).map fun i => bget (getThr s k l).head (a + i) := by
  have last := rangeOf_last ok
  rw [range, rangeOf_eq_head] at last
  refine List.map_congr_left fun i inside => ?_
  have within : rangeOf (a + i) = .head := by
    have below := List.mem_range.mp inside
    rw [rangeOf_eq_head]
    omega
  simp only [range, ctxByte, within]

/-- Bytes of station memory lie side by side as their addresses do. -/
theorem memPlace_add {th : Thread} {i : Nat} (range : rangeOf a = .scratch ∨ rangeOf a = .flow ∨ rangeOf a = .shared)
    (within : rangeOf (a + i) = rangeOf a) : memPlace th l (a + i) = memPlace th l a + i := by
  rcases range with h | h | h <;> simp only [memPlace, within, h]
  · have := (rangeOf_eq_scratch.mp h).1
    omega
  · have := (rangeOf_eq_flow.mp h).1
    omega
  · have := (rangeOf_eq_shared.mp h).1
    omega

theorem loadBytes_stationMemory (ok : accessOk s k l a w = true) (range : rangeOf a = .scratch ∨ rangeOf a = .flow ∨ rangeOf a = .shared) :
    loadBytes s k l a w = (List.range w).map fun i => bget (getStn s k).mem (memPlace (getThr s k l) l a + i) := by
  have last := rangeOf_last ok
  refine List.map_congr_left fun i inside => ?_
  have below := List.mem_range.mp inside
  have within : rangeOf (a + i) = rangeOf a := by
    rcases range with h | h | h <;> rw [h] at last ⊢
    · rw [rangeOf_eq_scratch] at *; omega
    · rw [rangeOf_eq_flow] at *; omega
    · rw [rangeOf_eq_shared] at *; omega
  rw [← memPlace_add range within]
  rcases range with h | h | h <;> simp only [h]

theorem loadBytes_aperture (range : rangeOf a = .aperture) :
    loadBytes s k l a w = (List.range w).map fun i => tblByte s (apertureAddr (getThr s k l) a + i) := by
  refine List.map_congr_left fun i _ => ?_
  simp only [range]

end

/-! ### A write of station memory -/

section
variable (s : State) (k j : Nat) (mem : Sparse Byte)

theorem getThr_modStn_mem (m : Nat) : getThr (modStn s k fun st => { st with mem := mem }) j m = getThr s j m :=
  getThr_modStn_keeps s k (fun _ => by rfl) j m

theorem getTask_modStn_mem (i : Nat) : getTask (modStn s k fun st => { st with mem := mem }) j i = getTask s j i := by
  have same := getStn_modStn_keeps s k Station.tasks (f := fun st => { st with mem := mem }) (fun _ => rfl) j
  exact congrArg (fun ts => sget {} ts i) same

end

/-- Bytes read one by one. -/
theorem map_range_getD {f : Nat → Byte} (bs : List Byte) (read : ∀ i, i < bs.length → f i = bs.getD i 0) :
    (List.range bs.length).map f = bs := by
  refine List.ext_getElem (by simp) fun i _ inside => ?_
  rw [List.getElem_map, List.getElem_range, read i inside, List.getD_eq_getElem _ _ inside]

/-! ### The load behind the store -/

section
variable {s u : State} {k l a w : Nat}

/-- The checks of an access read of the state the context, but for its copies, and the class of its task. -/
theorem accessOk_congr (context : (getThr u k l).sansCopies = (getThr s k l).sansCopies) (tasks : ∀ i, getTask u k i = getTask s k i) :
    accessOk u k l a w = accessOk s k l a w := by
  have bank : (getThr u k l).wbank = (getThr s k l).wbank := by
    have same := congrArg Thread.wbank context
    exact same
  have base : (getThr u k l).tbase = (getThr s k l).tbase := by
    have same := congrArg Thread.tbase context
    exact same
  have task : (getThr u k l).task = (getThr s k l).task := by
    have same := congrArg Thread.task context
    exact same
  have standard : isStandard u k l = isStandard s k l := by rw [isStandard, isStandard, thrTask, thrTask, task, tasks]
  have scratch (x : Nat) : scratchOk u k l x = scratchOk s k l x := by rw [scratchOk, scratchOk, standard]
  unfold accessOk apertureAddr
  dsimp only
  rw [bank, base, scratch, scratch]

theorem tload_ok (ok : accessOk u k l a w = true) (unlocked : rangeOf a ≠ .locks) :
    tload u k l a w = .ok (bytesValue a (loadBytes u k l a w), loadEffect u k l a w) := by
  rw [tload, ok, decide_eq_false unlocked]
  rfl

theorem bytesValue_head (range : rangeOf a = .head) (v : Nat) : bytesValue a (beBytes w v) = v % 2 ^ (8 * w) := by
  simp only [bytesValue, range, beNat, beBytes, List.reverse_reverse, leNat_leBytes]

theorem bytesValue_little (range : rangeOf a ≠ .head ∧ rangeOf a ≠ .tail) (v : Nat) : bytesValue a (leBytes w v) = v % 2 ^ (8 * w) := by
  unfold bytesValue
  split
  · exact absurd ‹_› range.1
  · exact absurd ‹_› range.2
  · exact leNat_leBytes w v

end

section
variable {s u : State} {k l a w v : Nat} (stored : tstore s k l a w v = .ok u)
include stored

theorem loadBytes_behind_head (range : rangeOf a = .head) :
    accessOk u k l a w = true ∧ loadBytes u k l a w = beBytes w (v % 2 ^ (8 * w)) := by
  have ok := tstore_accessOk stored
  have context := tstore_sansCopies stored k l
  rw [tstore_head ok v range] at stored
  cases stored
  have ok' := (accessOk_congr (a := a) (w := w) context fun i => getTask_modThr ..).trans ok
  refine ⟨ok', (loadBytes_head ok' range).trans ?_⟩
  rw [getThr_modThr_same]
  have read := map_range_getD (beBytes w (v % 2 ^ (8 * w))) (f := fun i =>
    bget (ssetRange 0 (getThr s k l).head a (beBytes w (v % 2 ^ (8 * w)))) (a + i)) fun i inside => by
      rw [bget_ssetRange, if_pos (by omega), Nat.add_sub_cancel_left]
  rwa [beBytes_length] at read

theorem loadBytes_behind_stationMemory (range : rangeOf a = .scratch ∨ rangeOf a = .flow ∨ rangeOf a = .shared) :
    accessOk u k l a w = true ∧ loadBytes u k l a w = leBytes w (v % 2 ^ (8 * w)) := by
  have ok := tstore_accessOk stored
  have context := tstore_sansCopies stored k l
  rw [tstore_stationMemory ok v range] at stored
  cases stored
  have ok' := (accessOk_congr (a := a) (w := w) context fun i => getTask_modStn_mem ..).trans ok
  refine ⟨ok', (loadBytes_stationMemory ok' range).trans ?_⟩
  rw [getThr_modStn_mem, getStn_modStn_same]
  have read := map_range_getD (leBytes w (v % 2 ^ (8 * w))) (f := fun i => bget (ssetRange 0 (getStn s k).mem
    (memPlace (getThr s k l) l a) (leBytes w (v % 2 ^ (8 * w)))) (memPlace (getThr s k l) l a + i)) fun i inside => by
      rw [bget_ssetRange, if_pos (by omega), Nat.add_sub_cancel_left]
  rwa [leBytes_length] at read

theorem loadBytes_behind_aperture (range : rangeOf a = .aperture) :
    accessOk u k l a w = true ∧ loadBytes u k l a w = leBytes w (v % 2 ^ (8 * w)) := by
  have ok := tstore_accessOk stored
  obtain ⟨rfl, -⟩ := accessOk_aperture ok range
  rw [tstore_aperture ok v range] at stored
  split_ifs at stored with general
  cases stored
  refine ⟨ok, (loadBytes_aperture range).trans ?_⟩
  have read := map_range_getD (leBytes 4 (v % 2 ^ (8 * 4))) (f := fun i => tblByte (tblWrite s (apertureAddr (getThr s k l) a)
    (leBytes 4 (v % 2 ^ (8 * 4)))) (apertureAddr (getThr s k l) a + i)) fun i inside => by
      rw [tblByte_tblWrite (by simpa using regionOf_general_word ok range general), if_pos (by omega), Nat.add_sub_cancel_left]
  rwa [leBytes_length] at read

end

/-- Settles O18: the bytes that a load returns are those that the store wrote, and stand for its value. -/
theorem storeThenLoad : Obligations.StoreThenLoad := by
  intro s u k l a w v stored range
  have value {bs : List Byte} (unlocked : rangeOf a ≠ .locks) (behind : accessOk u k l a w = true ∧ loadBytes u k l a w = bs)
      (stands : bytesValue a bs = v % 2 ^ (8 * w) % 2 ^ (8 * w)) : ∃ u', tload u k l a w = .ok (v % 2 ^ (8 * w), u') := by
    rw [Nat.mod_mod] at stands
    exact ⟨_, by rw [tload_ok behind.1 unlocked, behind.2, stands]⟩
  rcases range with head | scratch | flow | shared | aperture
  · exact value (by simp [head]) (loadBytes_behind_head stored head) (bytesValue_head head _)
  · exact value (by simp [scratch]) (loadBytes_behind_stationMemory stored (.inl scratch)) (bytesValue_little (by simp [scratch]) _)
  · exact value (by simp [flow]) (loadBytes_behind_stationMemory stored (.inr (.inl flow))) (bytesValue_little (by simp [flow]) _)
  · exact value (by simp [shared]) (loadBytes_behind_stationMemory stored (.inr (.inr shared))) (bytesValue_little (by simp [shared]) _)
  · exact value (by simp [aperture]) (loadBytes_behind_aperture stored aperture) (bytesValue_little (by simp [aperture]) _)

end Sys2Proof.Machine
end

section
/-! Proofs about CPY and the ATOM instructions (R144, R152, R165, R166, R263). -/

namespace Sys2Proof.Machine

/-! ### Stores of an earlier CPY to station memory (R152, R165) -/

theorem foldl_keeps_mem {α β : Type} (part : State → α) {f : State → β → State} (l : List β) (s : State)
    (kept : ∀ u, ∀ x ∈ l, part (f u x) = part u) : part (l.foldl f s) = part s := by
  induction l generalizing s with
  | nil => rfl
  | cons x l ih =>
    rw [List.foldl_cons, ih _ fun u y tail => kept u y (List.mem_cons_of_mem x tail), kept s x List.mem_cons_self]

/-- Before an access to station memory only stores to the memory of its own station are performed. -/
theorem orderStores_keeps_beside {α : Type} (part : State → α) (s : State) (k l a : Nat)
    (range : rangeOf a = .scratch ∨ rangeOf a = .flow ∨ rangeOf a = .shared) (delayed : ∀ d, part { s with delayed := d } = part s)
    (kept : ∀ u (mem : Sparse Byte → Sparse Byte), part (modStn u k fun st => { st with mem := mem st.mem }) = part u) :
    part (orderStores s k l a) = part s := by
  rw [orderStores]
  refine (foldl_keeps_mem part _ _ fun u e waits => ?_).trans (delayed _)
  have own := (List.mem_filter.mp waits).2
  obtain ⟨due, e⟩ := e
  cases e with
  | memStore k' l' place bs =>
    obtain ⟨⟨rfl, -⟩, -⟩ : (k' = k ∧ l' = l) ∧ _ := by simpa [storeOf] using own
    exact kept u fun mem => ssetRange 0 mem place bs
  | lockStore | tblStore => rcases range with h | h | h <;> simp [storeOf, h] at own
  | _ => cases own

/-! ### CPY (R165) -/

section
variable {s : State} {t : Tid} {p : Guard}

theorem tload_state {u s' : State} {k l a w v : Nat} (loaded : tload u k l a w = .ok (v, s')) : s' = loadEffect u k l a w := by
  unfold tload at loaded
  split_ifs at loaded
  cases loaded
  rfl

/-- A store that acts later changes no station yet. -/
theorem laterStore_stn (s : State) (k l a w v n : Nat) : (laterStore s k l a w v n).stn = s.stn := by
  unfold laterStore
  dsimp only
  split <;> rfl

theorem addReg_halt (th : Thread) (r : BitVec 4) (w : Nat) : (addReg th r w).halt = th.halt := setReg_halt ..

/-- A CPY whose load and store are allowed (R165). -/
theorem cpy_completes (gD gS : BitVec 4) (size : BitVec 2) (w v : Nat) (s2 s3 : State) (runs : Runs s t p) (width : sizeBytes size = some w) :
    let k := t.stn.val
    let l := tlane t
    let src := ((thrOf s t).reg gS).toNat % 2 ^ 16
    let dst := ((thrOf s t).reg gD).toNat % 2 ^ 16
    let n := rangeLatency src - commitCycles
    tload (accessState s t 4 src) k l src w = .ok (v, s2) → tstore (orderStores s2 k l dst) k l dst w v = .ok s3 →
    exec (.cpy t p gD gS size) s = .next (modThr (noteAccess
      (if storesLater dst = true ∧ 0 < n then laterStore (orderStores s2 k l dst) k l dst w v n else s3) k l (rangeLatency src))
      k l fun th => addReg (addReg th gD w) gS w) := by
  intro k l src dst n loaded stored
  have loadedHalt : (getThr s2 k l).halt = none := by
    rw [tload_state loaded]
    refine (loadEffect_keeps Thread.halt (fun _ _ => rfl) ..).trans ?_
    rw [accessState_thr, issuedThr_unhalted runs]
  have orderedHalt : (getThr (orderStores s2 k l dst) k l).halt = none := by rw [orderStores_thr, loadedHalt]
  have storedHalt : (getThr s3 k l).halt = none := (congrArg Thread.halt (tstore_sansCopies stored k l)).trans orderedHalt
  have later : (getThr (laterStore (orderStores s2 k l dst) k l dst w v n) k l).halt = none := by
    rw [getThr_congr (laterStore_stn ..), orderedHalt]
  have loaded' : tload (orderStores (issuedState s t 4) k l src) k l src w = _ := loaded
  rw [exec, execCpy, width, Option.isNone_some, Option.getD_some, issue_runs s t p 4 _ runs, cpyBody, getThr_issuedState]
  dsimp only
  rw [issuedThr_reg, issuedThr_reg, loaded']
  dsimp only
  rw [stored]
  simp only [Bool.and_eq_true, decide_eq_true_eq]
  refine congrArg Host.Outcome.next (haltBoundary_none _ _ _ ?_)
  rw [getThr_modThr_same, addReg_halt, addReg_halt, noteAccess, getThr_modThr_same]
  dsimp only
  split_ifs
  · exact later
  · exact storedHalt

end

theorem laterStore_stationMemory (s : State) (k l a w v n : Nat) (range : rangeOf a = .scratch ∨ rangeOf a = .flow ∨ rangeOf a = .shared) :
    laterStore s k l a w v n = delay s n (.memStore k l (memPlace (getThr s k l) l a) (leBytes w (v % 2 ^ (8 * w)))) := by
  rcases range with h | h | h <;> simp only [laterStore, h, valueBytes]

/-! ### ATOM (R166, R263) -/

section
variable {i : Instr} {s : State} {t : Tid} {p : Guard} {rd ra : BitVec 4} {f : Thread → Word → Option Word}

theorem accessOk_shared {s : State} {k l a : Nat} (range : rangeOf a = .shared) (aligned : a % 4 = 0)
    (bank : (getThr s k l).wbank.toNat ≤ 12) : accessOk s k l a 4 = true := by
  have bounds := rangeOf_eq_shared.mp range
  have last : rangeOf (a + 4 - 1) = .shared := rangeOf_eq_shared.mpr (by omega)
  simp only [accessOk, alignedFor, range, last, aligned, bank, decide_true, Bool.and_true]
  exact decide_eq_true (by omega)

theorem issuedThr_wbank (s : State) (t : Tid) (n : Nat) : (issuedThr s t n).wbank = (thrOf s t).wbank := by
  unfold issuedThr advance
  split_ifs <;> rfl

theorem issuedThr_preds (s : State) (t : Tid) (n : Nat) : (issuedThr s t n).preds = (thrOf s t).preds := by
  unfold issuedThr advance
  split_ifs <;> rfl

theorem memPlace_congr {th th' : Thread} (bank : th.wbank = th'.wbank) (l a : Nat) : memPlace th l a = memPlace th' l a := by
  rw [memPlace, memPlace, bank]

/-- The word of station memory that an ATOM reads. -/
def atomWord (s : State) (t : Tid) (a : Nat) : Word :=
  BitVec.ofNat 32 (leNat ((List.range 4).map fun x =>
    bget (getStn (accessState s t 4 a) t.stn.val).mem (memPlace (thrOf s t) (tlane t) a + x)))

/-- The access of an ATOM to shared data is noted before its word is written (R166, R176). -/
def atomNoted (s : State) (t : Tid) (a : Nat) : State := noteAccess (accessState s t 4 a) t.stn.val (tlane t) 10

/-- An ATOM has written its word, if any. -/
def atomWritten (s : State) (t : Tid) (a : Nat) (new : Option Word) : State :=
  match new with
  | none => atomNoted s t a
  | some v => modStn (atomNoted s t a) t.stn.val fun st => { st with
      mem := ssetRange 0 (getStn (accessState s t 4 a) t.stn.val).mem (memPlace (thrOf s t) (tlane t) a) (leBytes 4 v.toNat) }

/-- The state behind an ATOM at a word of shared data: rd holds the old word (R166). -/
def atomState (s : State) (t : Tid) (rd : BitVec 4) (a : Nat) (new : Option Word) : State :=
  modThr (atomWritten s t a new) t.stn.val (tlane t) fun th => th.setReg rd (atomWord s t a)

/-! ### What an ATOM leaves, part by part -/

section
variable (a : Nat)

theorem atomNoted_mem (j : Nat) : (getStn (atomNoted s t a) j).mem = (getStn (accessState s t 4 a) j).mem :=
  getStn_modStn_keeps _ _ Station.mem (fun _ => by rfl) j

theorem atomNoted_thr : ∃ e, getThr (atomNoted s t a) t.stn.val (tlane t) = { issuedThr s t 4 with endAt := e } := by
  refine ⟨max (issuedThr s t 4).endAt ((accessState s t 4 a).clk - commitCycles + 10), ?_⟩
  rw [atomNoted, noteAccess, getThr_modThr_same, accessState_thr]

variable (new : Option Word)

theorem atomWritten_thr (j m : Nat) : getThr (atomWritten s t a new) j m = getThr (atomNoted s t a) j m := by
  cases new with
  | none => rfl
  | some v => exact getThr_modStn_mem ..

/-- Beside rd and the end of the access the thread's context is that which the slot leaves; the other contexts are as before. -/
theorem atomState_thr : ∃ e, thrOf (atomState s t rd a new) t = Thread.setReg { issuedThr s t 4 with endAt := e } rd (atomWord s t a) := by
  obtain ⟨e, noted⟩ := atomNoted_thr (s := s) (t := t) a
  exact ⟨e, by rw [thrOf, atomState, getThr_modThr_same, atomWritten_thr, noted]⟩

theorem atomState_thr_ne {j m : Nat} (other : (j, m) ≠ (t.stn.val, tlane t)) :
    getThr (atomState s t rd a new) j m = getThr s j m := by
  rw [atomState, getThr_modThr_ne _ _ other, atomWritten_thr, atomNoted, noteAccess, getThr_modThr_ne _ _ other, accessState,
    orderStores_thr, issuedState_thr_ne s t 4 other]

theorem atomState_mem (j : Nat) : (getStn (atomState s t rd a new) j).mem = (getStn (atomWritten s t a new) j).mem :=
  getStn_modStn_keeps _ _ Station.mem (fun _ => by rfl) j

/-- The word is written, or none; every other byte of the station's memory is as the access found it. -/
theorem atomState_ownMem (x : Nat) : bget (getStn (atomState s t rd a new) t.stn.val).mem x = match new with
    | none => bget (getStn (accessState s t 4 a) t.stn.val).mem x
    | some v => if memPlace (thrOf s t) (tlane t) a ≤ x ∧ x < memPlace (thrOf s t) (tlane t) a + 4
        then byteAt (leBytes 4 v.toNat) (x - memPlace (thrOf s t) (tlane t) a) else bget (getStn (accessState s t 4 a) t.stn.val).mem x := by
  rw [atomState_mem]
  cases new with
  | none => exact congrArg (bget · x) (atomNoted_mem ..)
  | some v =>
    have written : (getStn (atomWritten s t a (some v)) t.stn.val).mem = ssetRange 0 (getStn (accessState s t 4 a) t.stn.val).mem
        (memPlace (thrOf s t) (tlane t) a) (leBytes 4 v.toNat) := congrArg Station.mem (getStn_modStn_same ..)
    rw [written, bget_ssetRange, leBytes_length]
    rfl

variable {a} (range : rangeOf a = .shared)
include range

theorem atomState_mem_ne {j : Nat} (other : j ≠ t.stn.val) : (getStn (atomState s t rd a new) j).mem = (getStn s j).mem := by
  have ordered : (getStn (accessState s t 4 a) j).mem = (getStn (issuedState s t 4) j).mem :=
    orderStores_keeps_beside (fun u => (getStn u j).mem) _ _ _ _ (.inr (.inr range)) (fun _ => rfl) fun u mem => by
      rw [getStn_modStn_ne _ _ other]
  have issued := congrArg Station.mem (issuedState_rest s t 4 j)
  have written : (getStn (atomWritten s t a new) j).mem = (getStn (accessState s t 4 a) j).mem := by
    cases new with
    | none => exact atomNoted_mem ..
    | some v => exact (congrArg Station.mem (getStn_modStn_ne _ _ other)).trans (atomNoted_mem ..)
  rw [atomState_mem, written, ordered]
  exact issued

theorem atomState_tbl : (atomState s t rd a new).tbl = s.tbl := by
  have written : (atomState s t rd a new).tbl = (accessState s t 4 a).tbl := by
    rw [atomState, modThr_tbl]
    cases new with
    | none => exact modThr_tbl ..
    | some v => exact (modStn_tbl ..).trans (modThr_tbl ..)
  have ordered : (accessState s t 4 a).tbl = (issuedState s t 4).tbl :=
    orderStores_keeps_beside State.tbl _ _ _ _ (.inr (.inr range)) (fun _ => rfl) fun _ _ => rfl
  exact written.trans (ordered.trans (issuedState_tbl s t 4))

end

/-! ### The run of an ATOM -/

section
variable {a : Nat} (range : rangeOf a = .shared) (aligned : a % 4 = 0) (bank : (thrOf s t).wbank.toNat ≤ 12)
include range aligned bank

/-- The load of an ATOM finds its word and does nothing else. -/
theorem tload_atom : ∃ old, tload (accessState s t 4 a) t.stn.val (tlane t) a 4 = .ok (old, accessState s t 4 a) ∧
    BitVec.ofNat 32 old = atomWord s t a := by
  have context := accessState_thr s t 4 a
  have ok := accessOk_shared range aligned (s := accessState s t 4 a) (by rwa [context, issuedThr_wbank])
  have load := tload_ok ok (by simp [range])
  rw [loadEffect_plain (by simp [ReadActs, range])] at load
  refine ⟨_, load, ?_⟩
  rw [loadBytes_stationMemory ok (.inr (.inr range)), context, memPlace_congr (issuedThr_wbank s t 4), atomWord]
  simp only [bytesValue, range]

/-- The store of an ATOM writes the word. -/
theorem tstore_atom (v : Word) :
    tstore (atomNoted s t a) t.stn.val (tlane t) a 4 v.toNat = .ok (atomWritten s t a (some v)) := by
  obtain ⟨e, context⟩ := atomNoted_thr (s := s) (t := t) a
  have noted : (getThr (atomNoted s t a) t.stn.val (tlane t)).wbank = (thrOf s t).wbank := by
    rw [context]
    exact issuedThr_wbank s t 4
  have word : v.toNat % 2 ^ (8 * 4) = v.toNat := Nat.mod_eq_of_lt v.isLt
  rw [tstore_stationMemory (accessOk_shared range aligned (by rwa [noted])) _ (.inr (.inr range)), memPlace_congr noted, atomNoted_mem,
    word, atomWritten]

theorem atomOp_completes (runs : Runs s t p) (run : exec i s = atomOp s t p rd ra f) (address : ((thrOf s t).reg ra).toNat % 2 ^ 16 = a) :
    exec i s = .next (atomState s t rd a (f (issuedThr s t 4) (atomWord s t a))) := by
  refine completes_of_issue runs (by rw [run, atomOp]) ?_ ?_
  · obtain ⟨old, loaded, word⟩ := tload_atom range aligned bank
    have ordered : tload (orderStores (issuedState s t 4) t.stn.val (tlane t) a) t.stn.val (tlane t) a 4 = _ := loaded
    have bad : (rangeOf a != .shared && rangeOf a != .aperture || a % 4 != 0) = false := by simp [range, aligned]
    have general : (decide (rangeOf a = .aperture) && regionOf (apertureAddr (issuedThr s t 4) a) != .general) = false := by simp [range]
    rw [getThr_issuedState]
    dsimp only
    rw [issuedThr_reg, address, bad, general, ordered]
    dsimp only
    rw [word, if_pos range, ← atomNoted]
    cases f (issuedThr s t 4) (atomWord s t a) with
    | none => rfl
    | some v =>
      dsimp only
      rw [tstore_atom range aligned bank v]
      rfl
  · obtain ⟨e, context⟩ := atomState_thr (s := s) (t := t) (rd := rd) a (f (issuedThr s t 4) (atomWord s t a))
    rw [context, setReg_halt]
    exact issuedThr_unhalted runs 4

end

theorem atomOp_refused (runs : Runs s t p) (run : exec i s = atomOp s t p rd ra f) :
    let a := ((thrOf s t).reg ra).toNat % 2 ^ 16
    (rangeOf a ≠ .shared ∧ rangeOf a ≠ .aperture) ∨ a % 4 ≠ 0 →
    exec i s = .next (takeTrap (useSlot s t.stn.val (tlane t)) t.stn.val (tlane t) (trapAddress a)) := by
  intro a refused
  have bad : (rangeOf a != .shared && rangeOf a != .aperture || a % 4 != 0) = true := by simpa using refused
  rw [run, atomOp, issue_runs s t p 4 _ runs, getThr_issuedState]
  dsimp only
  rw [issuedThr_reg, if_pos bad]

end

/-- Settles O19: CPY step by step; ATOM by the state behind it (`atomState`), part by part, or by its trap. -/
theorem copyAndAtomics : Obligations.CopyAndAtomics := by
  refine ⟨fun s t p gD gS size w v s2 s3 runs width => cpy_completes gD gS size w v s2 s3 runs width, laterStore_stationMemory,
    fun _ _ _ _ _ => rfl, fun s t p rd ra rt runs => ?_⟩
  intro k l a place mem old result
  refine ⟨fun range aligned bank => ?completes, fun refused => ?traps⟩
  case completes =>
    have does {i : Instr} {new : Option Word} (run : exec i s = .next (atomState s t rd a new)) : result i new := by
      obtain ⟨e, context⟩ := atomState_thr (s := s) (t := t) (rd := rd) a new
      have reg (r : BitVec 4) : Thread.reg { issuedThr s t 4 with endAt := e } r = (thrOf s t).reg r := issuedThr_reg s t 4 r
      refine ⟨_, run, ?_, fun r other => ?_, ?_, fun j m => atomState_thr_ne a new, fun j => atomState_mem_ne new range,
        atomState_tbl new range, atomState_ownMem a new⟩
      · rw [context]
        split_ifs with zero
        · rw [zero, reg_zero]
        · exact reg_setReg_same _ _ _ zero
      · rw [context, reg_setReg_ne _ _ other, reg]
      · rw [context, setReg_frame]
        exact issuedThr_preds s t 4
    have completes {i : Instr} {f : Thread → Word → Option Word} (run : exec i s = atomOp s t p rd ra f) :=
      does (atomOp_completes range aligned bank runs run rfl)
    have add := completes (i := .atomFadd t p rd ra rt) (by rw [exec, execAtomFadd])
    have swap := completes (i := .atomSwap t p rd ra rt) (by rw [exec, execAtomSwap])
    have cas := completes (i := .atomCas t p rd ra rt) (by rw [exec, execAtomCas])
    rw [issuedThr_reg] at add swap
    rw [issuedThr_reg, issuedThr_reg] at cas
    exact ⟨add, swap, cas⟩
  case traps =>
    exact ⟨atomOp_refused runs (by rw [exec, execAtomFadd]) refused, atomOp_refused runs (by rw [exec, execAtomSwap]) refused,
      atomOp_refused runs (by rw [exec, execAtomCas]) refused⟩

end Sys2Proof.Machine
end

section
/-! Proofs about the channel instructions (R143, R179, R265 to R270). -/

namespace Sys2Proof.Machine

/-! ### What an operation on a channel leaves of the thread and of the channels -/

section
variable {s : State} {k l : Nat}

theorem setP6_thr (u : State) (b : Bool) : getThr (setP6 u k l b) k l = (getThr u k l).setPred 6 b := getThr_modThr_same ..

theorem setP6_chans (u : State) (b : Bool) : (setP6 u k l b).chans = u.chans := modThr_chans ..

theorem chanFree_thr (u : State) (h ch : Nat) : getThr (chanFree u h ch) k l = getThr u k l := by
  rw [chanFree]
  split_ifs <;> rfl

theorem chanFree_chans (u : State) (h ch : Nat) :
    (chanFree u h ch).chans = smod {} u.chans (chanKey h ch) fun c => { c with pub := c.pub.tail } := by
  rw [chanFree]
  split_ifs <;> rfl

/-- The channel in a state whose channels are those of `u` with one changed. -/
theorem getChan_smod {u v : State} {h ch : Nat} {f : Chan → Chan} (changed : v.chans = smod {} u.chans (chanKey h ch) f) :
    getChan v h ch = f (getChan u h ch) := by
  rw [getChan, changed, sget_smod_same, getChan]

/-- Thread l's context is as before but for its open message and p6. -/
def LeavesMessage (s u : State) (k l : Nat) (o : Option OpenMsg) (b : Bool) : Prop :=
  getThr u k l = Thread.setPred { getThr s k l with openMsg := o } 6 b

section
variable {m : OpenMsg} (v : Word) (ch w : Nat)

theorem chwBody_writes (opened : (getThr s k l).openMsg = some m) :
    LeavesMessage s (chwBody s k l v ch w) k l (some { m with words := sset 0 m.words w v }) true ∧
      (chwBody s k l v ch w).chans = s.chans := by
  rw [LeavesMessage, chwBody, opened]
  dsimp only
  rw [setP6_thr, setP6_chans, getThr_modThr_same]
  exact ⟨rfl, rfl⟩

theorem cheBody_closes (opened : (getThr s k l).openMsg = some m) :
    LeavesMessage s (cheBody s k l v ch w) k l none true ∧
      getChan (cheBody s k l v ch w) (chanHalf s k) m.ch = { getChan s (chanHalf s k) m.ch with
        pub := (getChan s (chanHalf s k) m.ch).pub ++ [(sset 0 m.words w v, false)]
        opens := (getChan s (chanHalf s k) m.ch).opens - 1 } := by
  rw [LeavesMessage, cheBody, opened]
  dsimp only
  refine ⟨?_, getChan_smod (f := fun c => { c with pub := c.pub ++ [(sset 0 m.words w v, false)], opens := c.opens - 1 }) rfl⟩
  rw [setP6_thr]
  exact congrArg (Thread.setPred · 6 true) (getThr_modThr_same ..)

variable (unopened : (getThr s k l).openMsg = none)
include unopened

/-- With no message open, a change of p6 alone leaves none open. -/
theorem leavesMessage_none {u : State} (same : getThr u k l = getThr s k l) (b : Bool) : LeavesMessage s (setP6 u k l b) k l none b := by
  rw [LeavesMessage, setP6_thr, same, ← unopened]

theorem chwBody_full (full : (getChan s (chanHalf s k) ch).full = true) :
    LeavesMessage s (chwBody s k l v ch w) k l none false ∧ (chwBody s k l v ch w).chans = s.chans := by
  rw [chwBody, unopened]
  dsimp only
  rw [if_pos full]
  exact ⟨leavesMessage_none unopened rfl false, rfl⟩

theorem chwBody_opens (room : (getChan s (chanHalf s k) ch).full = false) :
    LeavesMessage s (chwBody s k l v ch w) k l (some { ch := ch, words := sset 0 [] w v }) true ∧
      getChan (chwBody s k l v ch w) (chanHalf s k) ch =
        { getChan s (chanHalf s k) ch with opens := (getChan s (chanHalf s k) ch).opens + 1 } := by
  rw [LeavesMessage, chwBody, unopened]
  dsimp only
  rw [room, if_neg Bool.false_ne_true]
  refine ⟨?_, getChan_smod (f := fun c => { c with opens := c.opens + 1 }) rfl⟩
  rw [setP6_thr, getThr_modThr_same]
  rfl

theorem cheBody_full (full : (getChan s (chanHalf s k) ch).full = true) :
    LeavesMessage s (cheBody s k l v ch w) k l none false ∧ (cheBody s k l v ch w).chans = s.chans := by
  rw [cheBody, unopened]
  dsimp only
  rw [if_pos full]
  exact ⟨leavesMessage_none unopened rfl false, rfl⟩

/-- The slot that CHE takes of its own is the one that it publishes. -/
theorem cheBody_publishes (room : (getChan s (chanHalf s k) ch).full = false) :
    LeavesMessage s (cheBody s k l v ch w) k l none true ∧ getChan (cheBody s k l v ch w) (chanHalf s k) ch =
      { getChan s (chanHalf s k) ch with pub := (getChan s (chanHalf s k) ch).pub ++ [(sset 0 [] w v, false)] } := by
  rw [cheBody, unopened]
  dsimp only
  rw [room, if_neg Bool.false_ne_true]
  refine ⟨leavesMessage_none unopened rfl true, ?_⟩
  have reserved : getChan (modChan s (chanHalf s k) ch fun c => { c with opens := c.opens + 1 }) (chanHalf s k) ch =
      { getChan s (chanHalf s k) ch with opens := (getChan s (chanHalf s k) ch).opens + 1 } :=
    getChan_smod (f := fun c => { c with opens := c.opens + 1 }) rfl
  refine (getChan_smod (f := fun c => { c with pub := c.pub ++ [(sset 0 [] w v, false)], opens := c.opens - 1 }) rfl).trans ?_
  rw [reserved, Nat.add_sub_cancel]

end

theorem chpBody_frees (s : State) (k l ch : Nat) : LeavesMessage s (chpBody s k l ch) k l (getThr s k l).openMsg
      (!(getChan s (chanHalf s k) ch).pub.isEmpty) ∧
    getChan (chpBody s k l ch) (chanHalf s k) ch =
      { getChan s (chanHalf s k) ch with pub := (getChan s (chanHalf s k) ch).pub.tail } := by
  rw [LeavesMessage, chpBody]
  cases empty : (getChan s (chanHalf s k) ch).pub.isEmpty with
  | true =>
    have nothing : (getChan s (chanHalf s k) ch).pub = [] := List.isEmpty_iff.mp empty
    refine ⟨setP6_thr .., ?_⟩
    rw [if_pos rfl, getChan, setP6_chans, ← getChan, nothing, List.tail_nil, ← nothing]
  | false =>
    rw [if_neg Bool.false_ne_true]
    refine ⟨?_, getChan_smod (f := fun c => { c with pub := c.pub.tail }) ?_⟩
    · rw [setP6_thr, chanFree_thr]
      rfl
    · rw [setP6_chans, chanFree_chans]

end

/-! ### The instructions -/

section
variable {i : Instr} {s : State} {t : Tid} {p : Guard} (runs : Runs s t p) (n : Nat)

theorem chanHalf_issuedState (s : State) (t : Tid) (n k : Nat) : chanHalf (issuedState s t n) k = chanHalf s k := by
  have role := congrArg Station.role (issuedState_rest s t n k)
  exact congrArg (fun r => match roleHalf r with | some h => hIdx h | none => 0) role

theorem issuedState_chans (s : State) (t : Tid) (n : Nat) : (issuedState s t n).chans = s.chans := by rw [issuedState_stnPar s t n]

theorem getChan_issuedState (s : State) (t : Tid) (n h ch : Nat) : getChan (issuedState s t n) h ch = getChan s h ch := by
  rw [getChan, issuedState_chans, getChan]

theorem issuedThr_openMsg (s : State) (t : Tid) (n : Nat) : (issuedThr s t n).openMsg = (thrOf s t).openMsg := by
  unfold issuedThr advance
  split_ifs <;> rfl

include runs

/-- A channel instruction writes p6 and its thread's open message, and no register. -/
theorem completes_of_leavesMessage {body : State → Effects} {u : State} {o : Option OpenMsg} {b : Bool}
    (leaves : LeavesMessage (issuedState s t n) u t.stn.val (tlane t) o b)
    (run : exec i s = issue s t p false n body) (effect : body (issuedState s t n) = .ok u) :
    exec i s = .next u ∧ (∀ r, (thrOf u t).reg r = (thrOf s t).reg r) ∧ (thrOf u t).pred 6 = b ∧ (thrOf u t).openMsg = o := by
  have context : thrOf u t = Thread.setPred { issuedThr s t n with openMsg := o } 6 b := by rw [thrOf, leaves, getThr_issuedState]
  rw [context]
  refine ⟨completes_of_issue runs run effect ?_, fun r => ?_, pred_setPred_same _ b (by decide), ?_⟩
  · rw [context, setPred_halt]
    exact issuedThr_unhalted runs n
  · rw [reg_setPred]
    exact issuedThr_reg s t n r
  · rw [setPred_frame]

end

/-- Settles O24, instruction by instruction: a message open, a full channel, and one with room. -/
theorem channelInstructions : Obligations.ChannelInstructions := by
  intro s t p gS ch w runs h c v
  have half : chanHalf (issuedState s t 4) t.stn.val = h := chanHalf_issuedState s t 4 _
  have channel (x : Nat) : getChan (issuedState s t 4) h x = getChan s h x := getChan_issuedState s t 4 h x
  have chans : (issuedState s t 4).chans = s.chans := issuedState_chans s t 4
  have opening : (getThr (issuedState s t 4) t.stn.val (tlane t)).openMsg = (thrOf s t).openMsg := by
    rw [getThr_issuedState, issuedThr_openMsg]
  have value : (getThr (issuedState s t 4) t.stn.val (tlane t)).reg gS = v := by rw [getThr_issuedState, issuedThr_reg]
  refine ⟨?chw, ?che, ?chp⟩
  case chw =>
    have completes {o : Option OpenMsg} {b : Bool} (leaves : LeavesMessage _ _ _ _ o b) :=
      completes_of_leavesMessage (i := .chw t p gS ch w) runs 4 leaves (by rw [exec, execChw]) (by rw [value])
    cases opened : (thrOf s t).openMsg with
    | some m =>
      obtain ⟨leaves, kept⟩ := chwBody_writes v ch.toNat w.toNat (opening.trans opened)
      obtain ⟨run, regs, p6, message⟩ := completes leaves
      exact ⟨_, run, regs, nofun, nofun, fun m' same => Option.some.inj same ▸ ⟨p6, kept.trans chans, message⟩⟩
    | none =>
      cases state : c.full with
      | true =>
        obtain ⟨leaves, kept⟩ := chwBody_full v ch.toNat w.toNat (opening.trans opened) (by rw [half, channel]; exact state)
        obtain ⟨run, regs, p6, message⟩ := completes leaves
        exact ⟨_, run, regs, fun _ _ => ⟨p6, message, kept.trans chans⟩, nofun, nofun⟩
      | false =>
        obtain ⟨leaves, moved⟩ := chwBody_opens v ch.toNat w.toNat (opening.trans opened) (by rw [half, channel]; exact state)
        obtain ⟨run, regs, p6, message⟩ := completes leaves
        rw [half, channel] at moved
        exact ⟨_, run, regs, nofun, fun _ _ => ⟨p6, moved, message⟩, nofun⟩
  case che =>
    have completes {o : Option OpenMsg} {b : Bool} (leaves : LeavesMessage _ _ _ _ o b) :=
      completes_of_leavesMessage (i := .che t p gS ch w) runs 4 leaves (by rw [exec, execChe]) (by rw [value])
    cases opened : (thrOf s t).openMsg with
    | some m =>
      obtain ⟨leaves, moved⟩ := cheBody_closes v ch.toNat w.toNat (opening.trans opened)
      obtain ⟨run, regs, p6, message⟩ := completes leaves
      rw [half, channel] at moved
      exact ⟨_, run, regs, message, nofun, nofun, fun m' same => Option.some.inj same ▸ ⟨p6, moved⟩⟩
    | none =>
      cases state : c.full with
      | true =>
        obtain ⟨leaves, kept⟩ := cheBody_full v ch.toNat w.toNat (opening.trans opened) (by rw [half, channel]; exact state)
        obtain ⟨run, regs, p6, message⟩ := completes leaves
        exact ⟨_, run, regs, message, fun _ _ => ⟨p6, kept.trans chans⟩, nofun, nofun⟩
      | false =>
        obtain ⟨leaves, moved⟩ := cheBody_publishes v ch.toNat w.toNat (opening.trans opened) (by rw [half, channel]; exact state)
        obtain ⟨run, regs, p6, message⟩ := completes leaves
        rw [half, channel] at moved
        exact ⟨_, run, regs, message, nofun, fun _ _ => ⟨p6, moved⟩, nofun⟩
  case chp =>
    obtain ⟨leaves, moved⟩ := chpBody_frees (issuedState s t 4) t.stn.val (tlane t) ch.toNat
    obtain ⟨run, regs, p6, message⟩ :=
      completes_of_leavesMessage (i := .chp t p 0 ch 0) runs 4 leaves (by rw [exec, execChp]; rfl) (by rfl)
    rw [half, channel] at p6 moved
    exact ⟨_, run, regs, message.trans opening, p6, moved⟩

end Sys2Proof.Machine
end

section
/-! Proofs about HLOCK and HFREE (R178, R204, R205). -/

namespace Sys2Proof.Machine

/-! ### The helper lock at a request and at a release -/

section
variable (s : State) (k : Nat) (r : LockReq)

theorem grantHelper_thr (j m : Nat) : getThr (grantHelper s k r) j m = getThr s j m :=
  (getThr_congr (grantHelper_stn s k r) j m).trans (getThr_modStn_keeps _ _ (fun _ => by rfl) j m)

theorem grantHelper_tbl : (grantHelper s k r).tbl = s.tbl := by
  rw [grantHelper, delay]
  exact pmax_tbl ..

/-- The flag of the grant falls due 4 cycles later (R205). -/
theorem grantHelper_delayed :
    (grantHelper s k r).delayed = s.delayed ++ [(s.clk + 4, .setFlag k r.task (getTask s k r.task).gen r.flag .grant)] := by
  rw [grantHelper, delay]
  simp only [pmax_delayed, pinc_delayed, modStn_delayed, pmax_clk, pinc_clk, modStn_clk]

theorem grantHelper_holder : (getStn (grantHelper s k r) k).lockHolder = some r := by
  rw [getStn_congr (grantHelper_stn s k r), getStn_modStn_same]

theorem requestHelper_thr (j m : Nat) : getThr (requestHelper s k r) j m = getThr s j m := by
  rw [requestHelper]
  split_ifs
  · exact grantHelper_thr s k r j m
  · exact getThr_modStn_keeps _ _ (fun _ => by rfl) j m

theorem requestHelper_tbl : (requestHelper s k r).tbl = s.tbl := by
  rw [requestHelper]
  split_ifs
  · exact grantHelper_tbl s k r
  · rfl

variable {s k}

theorem requestHelper_grants (free : (getStn s k).lockHolder = none) (first : (getStn s k).lockQueue = []) :
    requestHelper s k r = grantHelper s k r := by simp [requestHelper, free, first]

theorem requestHelper_queues (held : (getStn s k).lockHolder.isSome = true) :
    requestHelper s k r = modStn s k fun st => { st with lockQueue := st.lockQueue ++ [r] } := by
  have taken : (getStn s k).lockHolder.isNone = false := by simpa using held
  simp [requestHelper, taken]

theorem passHelper_thr (l : Nat) : getThr (passHelper s k) k l = getThr s k l := by
  obtain ⟨h, q, left, -⟩ := getStn_passHelper s k
  rw [getThr, left, getThr]

theorem freeHelper_thr (l : Nat) : getThr (freeHelper s k false) k l = getThr s k l :=
  (passHelper_thr l).trans (getThr_modStn_keeps _ _ (fun _ => by rfl) k l)

theorem freeHelper_tbl : (freeHelper s k false).tbl = s.tbl := congrArg (·.2.1) (passHelper_aside _ k)

/-- A lane without a request in the queue does not hold the lock that it lets go of. -/
theorem freeHelper_leaves {l : Nat} (others : ∀ r ∈ (getStn s k).lockQueue, r.lane ≠ l) :
    holdsHelper (getStn (freeHelper s k false) k) l = false := by
  obtain ⟨h, q, passed, waited⟩ := getStn_passHelper (modStn s k fun st => { st with lockHolder := none, job := st.job }) k
  rw [getStn_modStn_same] at waited
  have holder : (getStn (freeHelper s k false) k).lockHolder = h := congrArg Station.lockHolder passed
  rw [holdsHelper, holder]
  cases h with
  | none => rfl
  | some r => simpa using others r ((waited r rfl).resolve_right nofun)

end

/-! ### The instructions -/

section
variable {s : State} {t : Tid} {p : Guard} (runs : Runs s t p) (f : BitVec 4)

/-- The request of an HLOCK at its commit. -/
def lockRequest (s : State) (t : Tid) (f : BitVec 4) : LockReq :=
  { lane := tlane t, task := (thrOf s t).task, flag := f.toNat, bounded := bounded (thrTask s t.stn.val (tlane t)).cls, since := s.clk }

theorem holdsHelper_issuedState (s : State) (t : Tid) (n k l : Nat) :
    holdsHelper (getStn (issuedState s t n) k) l = holdsHelper (getStn s k) l :=
  holdsHelper_congr (congrArg Station.lockHolder (issuedState_rest s t n k)) l

include runs

theorem hlock_requests (user : lockUser (issuedState s t 4) t.stn.val (tlane t) = true) :
    exec (.hlock t p f) s = .next (requestHelper (issuedState s t 4) t.stn.val (lockRequest s t f)) := by
  refine completes_of_issue runs (by rw [exec, execHlock]) ?_ ?_
  · rw [user, getThr_issuedState, issuedThr_task, issuedState_thrTask, issuedState_clk]
    rfl
  · rw [thrOf, requestHelper_thr, getThr_issuedState, issuedThr_unhalted runs]

theorem hlock_notUser (stranger : lockUser (issuedState s t 4) t.stn.val (tlane t) = false) :
    exec (.hlock t p f) s = .next (takeTrap (useSlot s t.stn.val (tlane t)) t.stn.val (tlane t) (trapHelper 2)) := by
  rw [exec, execHlock, issue_runs s t p 4 _ runs]
  rw [stranger]
  rfl

theorem hfree_frees (idle : jobRunning s t.stn.val (tlane t) = false) (holds : holdsHelper (getStn s t.stn.val) (tlane t) = true) :
    exec (.hfree t p 0) s = .next (freeHelper (issuedState s t 4) t.stn.val false) := by
  refine completes_of_issue runs (by rw [exec, execHfree, idle]; rfl) ?_ ?_
  · rw [if_pos ((holdsHelper_issuedState ..).trans holds)]
  · rw [thrOf, freeHelper_thr, getThr_issuedState, issuedThr_unhalted runs]

theorem hfree_traps (stranger : holdsHelper (getStn s t.stn.val) (tlane t) = false) :
    exec (.hfree t p 0) s = .next (takeTrap (useSlot s t.stn.val (tlane t)) t.stn.val (tlane t) trapLock) := by
  rw [exec, execHfree]
  rw [stranger, Bool.and_false, if_neg Bool.false_ne_true]
  refine (issue_runs s t p 4 _ runs).trans ?_
  rw [holdsHelper_issuedState, stranger]
  rfl

end

/-- Settles O23: HLOCK that is granted, waits or traps, and HFREE by the holder and by another thread. -/
theorem helperLock : Obligations.HelperLock := by
  intro s t p runs k l s1
  have context : getThr s1 k l = issuedThr s t 4 := getThr_issuedState ..
  have tables : s1.tbl = s.tbl := issuedState_tbl s t 4
  have waiting := congrArg Station.lockQueue (issuedState_rest s t 4 k)
  have holding := congrArg Station.lockHolder (issuedState_rest s t 4 k)
  refine ⟨fun f user => ⟨_, hlock_requests runs f user, fun r => ?_, ?_, fun free first => ?grants, fun held => ?queues⟩,
    fun f => hlock_notUser runs f, fun idle holds others => ⟨_, hfree_frees runs idle holds, ?_, fun r => ?_, ?_⟩, hfree_traps runs⟩
  · rw [thrOf, requestHelper_thr, context, issuedThr_reg]
  · rw [requestHelper_tbl, tables]
  case grants =>
    rw [requestHelper_grants _ free first, grantHelper_delayed, issuedState_delayed, issuedState_clk, issuedState_task]
    refine ⟨?_, rfl⟩
    rw [holdsHelper, grantHelper_holder]
    exact decide_eq_true rfl
  case queues =>
    rw [requestHelper_queues _ held, modStn_delayed, getStn_modStn_same]
    exact ⟨holding, issuedState_delayed s t 4, _, rfl, rfl, congrArg (· ++ _) waiting⟩
  · exact freeHelper_leaves (waiting ▸ others)
  · rw [thrOf, freeHelper_thr, context, issuedThr_reg]
  · rw [freeHelper_tbl, tables]

end Sys2Proof.Machine
end

section
/-! Proofs about WAIT, its timeout and SIGNAL (R171, R173, R174, R231). -/

namespace Sys2Proof.Machine

/-! ### WAIT (R171, R173) -/

section
variable (s : State) (k l : Nat) (mask : BitVec 16) (tsel : Nat)

/-- The deadline of a WAIT that commits now. -/
def waitDeadline (s : State) (task : Task) (tsel : Nat) : Nat := s.clk - commitCycles + waitTimeoutOf s task tsel

/-- Every masked flag was set by the deadline of a WAIT that commits now. -/
def MetInTime (s : State) (task : Task) (mask : BitVec 16) (tsel : Nat) : Prop :=
  task.flags &&& mask = mask ∧ flagsMetAt task mask ≤ waitDeadline s task tsel

variable {s k l mask tsel}

theorem waitBody_goesOn (met : MetInTime s (thrTask s k l) mask tsel) : waitBody s k l mask tsel =
    modThr (modTask s k (getThr s k l).task fun t => { t with flags := t.flags &&& ~~~ mask }) k l fun th => th.setPred 7 false :=
  if_pos (by simpa [flagsMeet, MetInTime, waitDeadline] using met)

theorem waitBody_waits (unmet : ¬ MetInTime s (thrTask s k l) mask tsel) : waitBody s k l mask tsel =
    modThr (modTask s k (getThr s k l).task fun t => { t with mask := mask }) k l fun th =>
      { th with wait := some { mask := mask, deadline := waitDeadline s (thrTask s k l) tsel } } :=
  if_neg (by simpa [flagsMeet, MetInTime, waitDeadline] using unmet)

theorem waitTimeoutOf_image {task : Task} {img : List Byte} {n : Nat} (image : taskImage s task = some img)
    (timeout : opTimeout img task.node tsel = some n) : waitTimeoutOf s task tsel = n := by
  rw [waitTimeoutOf, image, Option.bind_some, timeout]

end

section
variable {s : State} {t : Tid} {p : Guard}

theorem waitDeadline_issuedState (s : State) (t : Tid) (n : Nat) (task : Task) (tsel : Nat) :
    waitDeadline (issuedState s t n) task tsel = waitDeadline s task tsel := by
  have image : taskImage (issuedState s t n) task = taskImage s task := by
    simp only [taskImage, imageOf, liveEd, issuedState_ed]
  rw [waitDeadline, waitTimeoutOf, image, issuedState_clk, waitDeadline, waitTimeoutOf]

theorem metInTime_issuedState (s : State) (t : Tid) (n : Nat) (task : Task) (mask : BitVec 16) (tsel : Nat) :
    MetInTime (issuedState s t n) task mask tsel ↔ MetInTime s task mask tsel := by
  rw [MetInTime, waitDeadline_issuedState, MetInTime]

theorem issuedThr_wait (s : State) (t : Tid) (n : Nat) : (issuedThr s t n).wait = (thrOf s t).wait := by
  unfold issuedThr advance
  split_ifs <;> rfl

/-- A thread that issues does not wait (R150). -/
theorem Runs.waitless (runs : Runs s t p) : (thrOf s t).wait = none := by
  have issues := runs.1.1
  simp only [canIssue, runsOn, Bool.and_eq_true] at issues
  obtain ⟨⟨⟨⟨⟨⟨⟨-, waitless⟩, -⟩, -⟩, -⟩, -⟩, -⟩, -⟩ := issues
  exact Option.isNone_iff_eq_none.mp waitless

variable (runs : Runs s t p) (mask : BitVec 16) (tsel : BitVec 5)
include runs

theorem wait_goesOn (met : MetInTime s (thrTask s t.stn.val (tlane t)) mask tsel.toNat) : exec (.wait t p mask tsel) s =
    .next (modThr (modTask (issuedState s t 4) t.stn.val (thrOf s t).task fun task => { task with flags := task.flags &&& ~~~ mask })
      t.stn.val (tlane t) fun th => th.setPred 7 false) := by
  refine completes_of_issue runs (by rw [exec, execWait]) ?_ ?_
  · rw [waitBody_goesOn (by rwa [issuedState_thrTask, metInTime_issuedState]), getThr_issuedState, issuedThr_task]
  · rw [thrOf, getThr_modThr_same, setPred_halt, getThr_modTask, getThr_issuedState, issuedThr_unhalted runs]

theorem wait_waits (unmet : ¬ MetInTime s (thrTask s t.stn.val (tlane t)) mask tsel.toNat) : exec (.wait t p mask tsel) s =
    .next (modThr (modTask (issuedState s t 4) t.stn.val (thrOf s t).task fun task => { task with mask := mask }) t.stn.val (tlane t)
      fun th => { th with wait := some { mask := mask, deadline := waitDeadline s (thrTask s t.stn.val (tlane t)) tsel.toNat } }) := by
  refine completes_of_issue runs (by rw [exec, execWait]) ?_ ?_
  · rw [waitBody_waits (by rwa [issuedState_thrTask, metInTime_issuedState]), getThr_issuedState, issuedThr_task, issuedState_thrTask,
      waitDeadline_issuedState]
  · rw [thrOf, getThr_modThr_same, getThr_modTask, getThr_issuedState, issuedThr_unhalted runs]

end

/-! ### The timeout of a WAIT (R173) -/

section
variable {s : State} {t : Tid} {w : WaitSt} (waits : (thrOf s t).wait = some w)
include waits

theorem waitTimeout_expires (running : (thrOf s t).st = .running) (unhalted : (thrOf s t).halt = none) (due : w.deadline ≤ s.clk) :
    exec (.waitTimeout t) s = .next (modThr (modTask s t.stn.val (thrOf s t).task fun task => { task with mask := 0 })
      t.stn.val (tlane t) timeoutThread) := by
  have context : getThr s t.stn.val (tlane t) = thrOf s t := rfl
  simp only [exec, execWaitTimeout, context, waits, running, due, decide_true, Bool.and_self, if_true]
  refine congrArg Host.Outcome.next (haltBoundary_none _ _ _ ?_)
  rw [getThr_modThr_same, getThr_modTask, timeoutThread]
  exact (setPred_halt ..).trans unhalted

theorem waitTimeout_early (early : s.clk < w.deadline) : exec (.waitTimeout t) s = .next s := by
  have context : getThr s t.stn.val (tlane t) = thrOf s t := rfl
  simp only [exec, execWaitTimeout, context, waits, Nat.not_le.mpr early, decide_false, Bool.and_false, Bool.false_eq_true, if_false]

end

/-! ### The delivery of a flag (R231) -/

section
variable {s : State} {k l i : Nat}

theorem getTask_modTask_ne (s : State) (k : Nat) {i j : Nat} (f : Task → Task) (other : j ≠ i) :
    getTask (modTask s k i f) k j = getTask s k j := by
  rw [getTask, modTask, getStn_modStn_same]
  exact sget_smod_ne _ _ _ other

/-- A flag of a task whose thread does not wait wakes none. -/
theorem flagsChanged_waitless {st : Station} (clk : Nat) (running : (sget {} st.tasks i).st = .running)
    (waitless : (sget {} st.threads (sget {} st.tasks i).thread).wait = none) : flagsChanged clk st i = st := by
  simp only [flagsChanged, running, waitless]
  cases (sget {} st.threads (sget {} st.tasks i).thread).st <;> rfl

theorem signal_stale (gen : BitVec 12) (f : Nat)
    (stale : (getTask s k i).gen ≠ gen ∨ (getTask s k i).st = .free ∨ (getTask s k i).st = .done) :
    deliverFlag s k i gen f .signal = pinc s (pidStnSSignalStale k) := by
  have old : ((getTask s k i).gen != gen || decide ((getTask s k i).st = .free) || decide ((getTask s k i).st = .done)) = true := by
    simpa [or_assoc] using stale
  simp only [deliverFlag, old, Bool.true_or, if_true]

/-- The signal to a task that runs and does not wait sets its flag. -/
theorem signal_running {gen : BitVec 12} (f : Nat) (current : (getTask s k i).gen = gen) (running : (getTask s k i).st = .running)
    (waitless : (getThr s k (getTask s k i).thread).wait = none) :
    deliverFlag s k i gen f .signal = modTask s k i (raiseFlag s.clk f) := by
  have raised : sget {} (smod {} (getStn s k).tasks i (raiseFlag s.clk f)) i = raiseFlag s.clk f (getTask s k i) := sget_smod_same ..
  have set : deliverFlag s k i gen f .signal = modStn s k fun st => setTaskFlag s.clk st i f := by
    simp [deliverFlag, current, running]
  rw [set]
  refine modStn_congr (flagsChanged_waitless _ ?_ ?_)
  · dsimp only
    rw [raised]
    exact running
  · dsimp only
    rw [raised]
    exact waitless

/-- A delivery leaves the context of a thread that does not wait. -/
theorem deliverFlag_thr (gen : BitVec 12) (f : Nat) (waitless : (getThr s k l).wait = none) :
    getThr (deliverFlag s k i gen f .signal) k l = getThr s k l := by
  rw [deliverFlag]
  split_ifs
  · rfl
  · rw [getThr, getStn_modStn_same]
    exact flagsChanged_thread _ _ waitless

end

section
variable {s : State} {t : Tid} {p : Guard}

theorem issuedState_wait (s : State) (t : Tid) (n j m : Nat) : (getThr (issuedState s t n) j m).wait = (getThr s j m).wait := by
  by_cases own : (j, m) = (t.stn.val, tlane t)
  · cases own
    rw [getThr_issuedState, issuedThr_wait, thrOf]
  · rw [issuedState_thr_ne s t n own]

theorem signal_delivers (runs : Runs s t p) (gT f : BitVec 4) : exec (.signal t p gT f) s =
    .next (deliverFlag (issuedState s t 4) t.stn.val (((thrOf s t).reg gT).toNat % 2 ^ 12)
      (BitVec.ofNat 12 (((thrOf s t).reg gT).toNat / 2 ^ 16)) f.toNat .signal) := by
  refine completes_of_issue runs (by rw [exec, execSignal]) ?_ ?_
  · rw [getThr_issuedState, issuedThr_reg]
  · rw [thrOf, deliverFlag_thr _ _ ((issuedState_wait ..).trans runs.waitless), getThr_issuedState, issuedThr_unhalted runs]

end

/-- Settles O21: WAIT that goes on or waits, its timeout, and SIGNAL to a task that runs or to none. -/
theorem waitAndSignal : Obligations.WaitAndSignal := by
  refine ⟨fun s t p mask tsel runs => ⟨fun img n => waitTimeoutOf_image, ?wait⟩, fun s t w running unhalted waits =>
    ⟨fun due => ⟨_, waitTimeout_expires waits running unhalted due, ?timeout⟩, waitTimeout_early waits⟩,
    fun s t p gT f runs => ⟨signal_delivers runs gT f, fun current running waitless => ?running, fun stale => ?stale⟩⟩
  case wait =>
    by_cases met : MetInTime s (thrTask s t.stn.val (tlane t)) mask tsel.toNat
    · refine ⟨_, wait_goesOn runs mask tsel met, ?_⟩
      rw [thrOf, getThr_modThr_same, getThr_modTask, getThr_issuedState, getTask_modThr, getTask_modTask_same, issuedState_task]
      refine ⟨fun r => ?_, fun _ => ⟨pred_setPred_same _ _ (by decide), ?_, rfl⟩, fun unmet => absurd met unmet⟩
      · rw [reg_setPred, issuedThr_reg]
      · rw [setPred_frame]
        exact (issuedThr_wait s t 4).trans runs.waitless
    · refine ⟨_, wait_waits runs mask tsel met, ?_⟩
      rw [thrOf, getThr_modThr_same, getThr_modTask, getThr_issuedState, getTask_modThr, getTask_modTask_same, issuedState_task]
      exact ⟨issuedThr_reg s t 4, fun now => absurd now met, fun _ => ⟨issuedThr_preds s t 4, rfl, rfl⟩⟩
  case timeout =>
    rw [thrOf, getThr_modThr_same, getThr_modTask, getTask_modThr, getTask_modTask_same]
    exact ⟨pred_setPred_same _ true (by decide), rfl, reg_setPred _ 7 true, rfl⟩
  case running =>
    refine ⟨_, signal_delivers runs gT f, ?_⟩
    rw [signal_running f.toNat ((congrArg Task.gen (issuedState_task ..)).trans current)
      ((congrArg Task.st (issuedState_task ..)).trans running) (by rw [issuedState_task, issuedState_wait, waitless])]
    refine ⟨?_, fun j other => ?_⟩
    · rw [getTask_modTask_same, issuedState_task]
      rfl
    · rw [getTask_modTask_ne _ _ _ other, issuedState_task]
  case stale =>
    rw [signal_delivers runs gT f, signal_stale _ _ (by rwa [issuedState_task])]

end Sys2Proof.Machine
end

section
/-! Proofs about the requests to the lookup ports: LKUP, LREAD, LEARN and CNT (R186, R188, R193, R194, R197). -/

namespace Sys2Proof.Machine

/-! ### The stations and the task at the slot -/

section
variable (s : State) (t : Tid) (n : Nat)

theorem useSlot_stn_ne (k l : Nat) {j : Nat} (other : j ≠ k) : getStn (useSlot s k l) j = getStn s j := by
  rw [useSlot, getStn_modStn_ne _ _ other]
  split_ifs <;> simp

/-- An instruction's slot is a matter of its own station. -/
theorem issuedState_stn_ne {j : Nat} (other : j ≠ t.stn.val) : getStn (issuedState s t n) j = getStn s j := by
  rw [issuedState, modThr, getStn_modStn_ne _ _ other, useSlot_stn_ne s _ _ other]

theorem issuedState_portQueue (j port : Nat) : portQueue (getStn (issuedState s t n) j) port = portQueue (getStn s j) port := by
  have ports := congrArg (portQueue · port) (issuedState_rest s t n j)
  exact ports

theorem issuedState_myHandle : myHandle (issuedState s t n) t.stn.val (tlane t) = myHandle s t.stn.val (tlane t) := by
  rw [myHandle, issuedState_thrTask, getThr_issuedState, issuedThr_task, myHandle, thrOf]

theorem issuedState_reg (g : BitVec 4) : (getThr (issuedState s t n) t.stn.val (tlane t)).reg g = (thrOf s t).reg g := by
  rw [getThr_issuedState, issuedThr_reg]

end

/-- The class of a thread's task, by its context and the task store. -/
theorem isStandard_congr {s u : State} {k l : Nat} (context : getThr u k l = getThr s k l) (tasks : ∀ i, getTask u k i = getTask s k i) :
    isStandard u k l = isStandard s k l := by
  rw [isStandard, thrTask, context, tasks, isStandard, thrTask]

/-! ### A request enters its port, a slot is reserved (R193, R197) -/

theorem portQueue_setPortQueue (st : Station) (port : Nat) (q : List LookReq) : portQueue (setPortQueue st port q) port = q := by
  unfold portQueue setPortQueue
  split_ifs <;> rfl

/-- What a station holds beside its two ports stays when a port's queue changes. -/
theorem setPortQueue_keeps {α : Type} (part : Station → α) (kept0 : ∀ st q, part { st with port0 := q } = part st)
    (kept1 : ∀ st q, part { st with port1 := q } = part st) (st : Station) (port : Nat) (q : List LookReq) :
    part (setPortQueue st port q) = part st := by
  unfold setPortQueue
  split_ifs
  · exact kept0 st q
  · exact kept1 st q

section
variable (s : State) (k l : Nat)

theorem pushReq_keeps {α : Type} (part : Station → α) (kept0 : ∀ st q, part { st with port0 := q } = part st)
    (kept1 : ∀ st q, part { st with port1 := q } = part st) (req : LookReq) (j : Nat) :
    part (getStn (pushReq s k req) j) = part (getStn s j) :=
  getStn_modStn_keeps s k part (fun st => setPortQueue_keeps part kept0 kept1 st _ _) j

theorem pushReq_portQueue (req : LookReq) :
    portQueue (getStn (pushReq s k req) k) (portOf req.lane) = portQueue (getStn s k) (portOf req.lane) ++ [req] := by
  rw [pushReq, getStn_modStn_same, portQueue_setPortQueue]

theorem pushReq_thr (req : LookReq) (j m : Nat) : getThr (pushReq s k req) j m = getThr s j m :=
  pushReq_keeps s k (fun st => sget ({} : Thread) st.threads m) (fun _ _ => rfl) (fun _ _ => rfl) req j

theorem pushReq_task (req : LookReq) (j i : Nat) : getTask (pushReq s k req) j i = getTask s j i :=
  pushReq_keeps s k (fun st => sget ({} : Task) st.tasks i) (fun _ _ => rfl) (fun _ _ => rfl) req j

theorem pushReq_mySlot (req : LookReq) (j m r : Nat) : mySlot (pushReq s k req) j m r = mySlot s j m r := by
  have slots := pushReq_keeps s k Station.slots (fun _ _ => rfl) (fun _ _ => rfl) req j
  rw [mySlot, isStandard_congr (pushReq_thr s k req j m) (pushReq_task s k req j), slots, mySlot]

theorem reserveSlot_thr (r kind j m : Nat) : getThr (reserveSlot s k l r kind) j m = getThr s j m :=
  getThr_modStn_keeps s k (fun _ => by rfl) j m

theorem reserveSlot_task (r kind j i : Nat) : getTask (reserveSlot s k l r kind) j i = getTask s j i :=
  getStn_modStn_keeps s k (fun st => sget ({} : Task) st.tasks i) (fun _ => by rfl) j

theorem reserveSlot_mySlot (r kind : Nat) : mySlot (reserveSlot s k l r kind) k l r =
    { mySlot s k l r with st := 1, kind := kind, owner := myHandle s k l } := by
  rw [mySlot, isStandard_congr (reserveSlot_thr s k l r kind k l) (reserveSlot_task s k l r kind k), reserveSlot, getStn_modStn_same]
  dsimp only
  rw [sget_smod_same, mySlot]

end

/-! ### The state behind a request -/

/-- From s to u thread t has used its slot, the requests q have entered the port of its core, and its context, table memory and the other
stations are as the slot left them. -/
def PortTook (s u : State) (t : Tid) (q : List LookReq) : Prop :=
  portQueue (getStn u t.stn.val) (portOf (tlane t)) = portQueue (getStn s t.stn.val) (portOf (tlane t)) ++ q ∧
  thrOf u t = issuedThr s t 4 ∧ u.tbl = s.tbl ∧ ∀ j, j ≠ t.stn.val → getStn u j = getStn s j

/-- Slot r of thread t waits for an answer of a kind to a task. -/
def SlotPends (u : State) (t : Tid) (r kind owner : Nat) : Prop :=
  let slot := mySlot u t.stn.val (tlane t) r
  slot.st = 1 ∧ slot.kind = kind ∧ slot.owner = owner

section
variable {s u : State} {t : Tid} {q : List LookReq}

theorem portTook_issuedState (s : State) (t : Tid) : PortTook s (issuedState s t 4) t [] :=
  ⟨(issuedState_portQueue ..).trans (List.append_nil _).symm, issuedState_thr s t 4, issuedState_tbl s t 4,
    fun _ other => issuedState_stn_ne s t 4 other⟩

theorem PortTook.reserveSlot (took : PortTook s u t q) (l r kind : Nat) : PortTook s (reserveSlot u t.stn.val l r kind) t q := by
  obtain ⟨queue, context, tables, others⟩ := took
  refine ⟨?_, (reserveSlot_thr ..).trans context, tables, fun j other => (getStn_modStn_ne u _ other).trans (others j other)⟩
  exact (getStn_modStn_keeps u _ (fun st => portQueue st (portOf (tlane t))) (fun _ => by rfl) _).trans queue

theorem PortTook.pushReq (took : PortTook s u t q) {req : LookReq} (own : req.lane = tlane t) :
    PortTook s (pushReq u t.stn.val req) t (q ++ [req]) := by
  obtain ⟨queue, context, tables, others⟩ := took
  refine ⟨?_, (pushReq_thr ..).trans context, tables, fun j other => (getStn_modStn_ne u _ other).trans (others j other)⟩
  have entered := pushReq_portQueue u t.stn.val req
  rw [own] at entered
  rw [entered, queue, List.append_assoc]

variable (s t)

theorem slotPends_reserveSlot_pushReq (req : LookReq) (r kind : Nat) :
    SlotPends (pushReq (reserveSlot (issuedState s t 4) t.stn.val (tlane t) r kind) t.stn.val req) t r kind
      (myHandle s t.stn.val (tlane t)) := by
  rw [SlotPends, pushReq_mySlot, reserveSlot_mySlot]
  exact ⟨rfl, rfl, issuedState_myHandle s t 4⟩

end

/-! ### The instructions (R194) -/

section
variable {i : Instr} {s u : State} {t : Tid} {p : Guard} {m : Nat} {body : State → Effects} (runs : Runs s t p)
include runs

/-- A helper instruction whose effect is a request completes. -/
theorem completes_of_portTook {q : List LookReq} (run : exec i s = issueHelper s t p m false body)
    (effect : body (issuedState s t 4) = .ok u) (took : PortTook s u t q) : exec i s = .next u := by
  obtain ⟨-, context, -, -⟩ := took
  rw [run, issueHelper_defined, issueAs_runs true s t p 4 body runs, effect]
  refine congrArg Host.Outcome.next (haltBoundary_none _ _ _ ?_)
  exact (congrArg Thread.halt context).trans (issuedThr_unhalted runs 4)

/-- A helper instruction whose effect is a trap is counted as killed (R186). -/
theorem helperTrap_of_error {e : TrapInfo} (run : exec i s = issueHelper s t p m false body)
    (effect : body (issuedState s t 4) = .error e) : exec i s = .next (helperTrap s t e) := by
  rw [run, issueHelper_defined, issueAs_runs true s t p 4 body runs, effect]
  rfl

/-- An instruction that asks with no slot: its request enters the port. -/
theorem asks_of_push {req : LookReq} (run : exec i s = issueHelper s t p m false body) (own : req.lane = tlane t)
    (effect : body (issuedState s t 4) = .ok (pushReq (issuedState s t 4) t.stn.val req)) :
    ∃ u, exec i s = .next u ∧ PortTook s u t [req] :=
  have took := (portTook_issuedState s t).pushReq own
  ⟨_, completes_of_portTook runs run effect took, took⟩

/-- An instruction that asks for an answer in slot r, when the slot is not pending for the same task: its request enters the port, and the
slot is pending (R197). -/
theorem asks_of_reserve {req : LookReq} {r kind : Nat} (run : exec i s = issueHelper s t p m false body) (own : req.lane = tlane t)
    (effect : body (issuedState s t 4) = if slotBusy (issuedState s t 4) t.stn.val (tlane t) r then .error (trapHelper 0)
      else .ok (pushReq (reserveSlot (issuedState s t 4) t.stn.val (tlane t) r kind) t.stn.val req))
    (free : slotBusy (issuedState s t 4) t.stn.val (tlane t) r = false) :
    ∃ u, exec i s = .next u ∧ PortTook s u t [req] ∧ SlotPends u t r kind (myHandle s t.stn.val (tlane t)) := by
  rw [free, if_neg Bool.false_ne_true] at effect
  have took := ((portTook_issuedState s t).reserveSlot (tlane t) r kind).pushReq own
  exact ⟨_, completes_of_portTook runs run effect took, took, slotPends_reserveSlot_pushReq s t req r kind⟩

/-- Every kind of LKUP, with a free slot, with a pending one, and with a key that cannot be read (R188, R197). -/
theorem looks_of_lkupOp {kind : Nat} {gS tbl : BitVec 4} {r : BitVec 3} {f : BitVec 4} (run : exec i s = lkupOp s t p kind gS tbl r f) :
    Looks i s t kind gS tbl r f := by
  rw [lkupOp] at run
  refine ⟨fun readable free => ?sends, fun readable busy => ?busy, fun unreadable => ?unreadable⟩
  case sends =>
    obtain ⟨u, completes, ⟨queue, context, tables, others⟩, pending, kept, owner⟩ := asks_of_reserve runs run rfl
      (by dsimp only; rw [issuedState_reg, helperBytes, if_pos readable]) free
    exact ⟨u, completes, queue, pending, kept, owner, context, tables, others⟩
  case busy =>
    refine helperTrap_of_error runs run ?_
    dsimp only
    rw [issuedState_reg, helperBytes, if_pos readable]
    exact if_pos busy
  case unreadable =>
    refine helperTrap_of_error runs run ?_
    dsimp only
    rw [issuedState_reg, helperBytes, unreadable]
    rfl

end

/-- Settles O26: LKUP and LREAD reserve their slot and ask, LEARN and CNT ask with no slot; what a request enters and keeps is
`PortTook`. -/
theorem lookupRequests : Obligations.LookupRequests := by
  intro s t p gS tbl r f runs k l s1 part a sends
  refine ⟨looks_of_lkupOp runs rfl, looks_of_lkupOp runs rfl, looks_of_lkupOp runs rfl, looks_of_lkupOp runs rfl,
    looks_of_lkupOp runs rfl, fun free => ?lread, fun busy => ?lreadBusy, fun readable => ?learn, fun unreadable => ?learnTraps,
    fun gB => ?cnt⟩
  case lread => exact asks_of_reserve runs (by rw [exec, execLread]) rfl (by rw [issuedState_reg]) free
  case lreadBusy => exact helperTrap_of_error runs (by rw [exec, execLread]) (if_pos busy)
  case learn => exact asks_of_push runs (by rw [exec, execLearn]) rfl (by rw [issuedState_reg, helperBytes, if_pos readable])
  case learnTraps => exact helperTrap_of_error runs (by rw [exec, execLearn]) (by rw [issuedState_reg, helperBytes, unreadable]; rfl)
  case cnt => exact asks_of_push runs (by rw [exec, execCnt]) rfl (by rw [issuedState_reg, issuedState_reg])

end Sys2Proof.Machine
end

section
/-! Proofs about the dispatch unit: the start of a task, the residency scan, operation timers, stall reports and a forced halt (R113, R231,
R234 to R241, R251, R272, R273). -/

namespace Sys2Proof.Machine

/-! ### The start of a task (R113, R231, R237) -/

section
variable {s : State} {k i lane : Nat}

/-- A flag delivered to a task that runs and does not wait is set, and nothing else happens (R231). -/
theorem deliverLive_running {gen : BitVec 12} (f : Nat) (current : (getTask s k i).gen = gen) (running : (getTask s k i).st = .running)
    (waitless : (getThr s k (getTask s k i).thread).wait = none) :
    deliverLive s k i gen f = modTask s k i (raiseFlag s.clk f) := by
  rw [← signal_running f current running waitless]
  simp [deliverLive, deliverFlag, current, running]

/-- An arrival at the start of a task that does not wait sets a flag of it, if any. -/
theorem arrivalAtStart_running (running : (getTask s k i).st = .running)
    (waitless : (getThr s k (getTask s k i).thread).wait = none) :
    arrivalAtStart s k i = s ∨ ∃ f, arrivalAtStart s k i = modTask s k i (raiseFlag s.clk f) := by
  unfold arrivalAtStart
  dsimp only
  split
  · exact .inl rfl
  · split
    · exact .inl rfl
    · exact .inr ⟨_, deliverLive_running _ rfl running waitless⟩

variable (s k i lane)

/-- The station when task i has been put on a lane, before any arrival (R113, R232, R237). -/
def startedState : State :=
  let t := getTask s k i
  let p := (getPkt s t.pkt).getD {}
  modStn s k fun st => { st with
    threads := smod {} st.threads lane fun th => freshThread th s.clk i (entryPc s k t) p
    slots := clearSlots lane (t.cls = 0) st.slots
    affinity := sset none st.affinity (affinityKey p t.node) (some (lane / 8 * 256 + t.graph))
    tasks := smod {} st.tasks i fun t =>
      { t with st := .running, flags := t.flags &&& ~~~ t.mask, mask := 0, thread := lane, timerAt := timerOf s (getTask s k i) } }

theorem startTask_eq : startTask s k lane i = pinc (arrivalAtStart (startedState s k i lane) k i) (pidDispSDispatched k) := rfl

theorem startedState_task : getTask (startedState s k i lane) k i = { getTask s k i with
    st := .running, flags := (getTask s k i).flags &&& ~~~ (getTask s k i).mask, mask := 0, thread := lane,
    timerAt := timerOf s (getTask s k i) } := by
  rw [startedState, getTask, getStn_modStn_same, sget_smod_same]
  rfl

theorem startedState_thr : getThr (startedState s k i lane) k lane =
    freshThread (getThr s k lane) s.clk i (entryPc s k (getTask s k i)) ((getPkt s (getTask s k i).pkt).getD {}) := by
  rw [startedState, getThr, getStn_modStn_same, sget_smod_same]
  rfl

theorem startedState_thr_ne {l : Nat} (other : l ≠ lane) : getThr (startedState s k i lane) k l = getThr s k l := by
  rw [startedState, getThr, getStn_modStn_same]
  dsimp only
  rw [sget_smod_ne _ _ _ other, getThr]

/-- The thread takes the task and both run; the other threads, the other stations and table memory stay. -/
def Started (u : State) : Prop :=
  (getTask u k i).st = .running ∧ (getTask u k i).thread = lane ∧ (getThr u k lane).st = .running ∧
    (getThr u k lane).task = i ∧ (getThr u k lane).since = s.clk ∧ (∀ l, l ≠ lane → getThr u k l = getThr s k l) ∧
    (∀ j, j ≠ k → getStn u j = getStn s j) ∧ u.tbl = s.tbl

theorem startedState_started : Started s k i lane (startedState s k i lane) := by
  unfold Started
  rw [startedState_task, startedState_thr]
  exact ⟨rfl, rfl, rfl, rfl, rfl, fun l => startedState_thr_ne s k i lane, fun j => getStn_modStn_ne _ _, rfl⟩

variable {s k i lane}

/-- A flag that is set keeps the start of its task. -/
theorem Started.raiseFlag {u : State} (started : Started s k i lane u) (clk f : Nat) :
    Started s k i lane (modTask u k i (raiseFlag clk f)) := by
  obtain ⟨running, thread, threads⟩ := started
  refine ⟨?_, ?_, ?_⟩
  · rw [getTask_modTask_same]; exact running
  · rw [getTask_modTask_same]; exact thread
  · simp only [getThr_modTask]
    obtain ⟨st, task, since, others, stations, tables⟩ := threads
    exact ⟨st, task, since, others, fun j other => (getStn_modStn_ne _ _ other).trans (stations j other), tables⟩

theorem startTask_started : Started s k i lane (startTask s k lane i) := by
  have start := startedState_started s k i lane
  have task := startedState_task s k i lane
  have running : (getTask (startedState s k i lane) k i).st = .running := start.1
  have waitless : (getThr (startedState s k i lane) k (getTask (startedState s k i lane) k i).thread).wait = none := by
    rw [task, startedState_thr]
    rfl
  rw [startTask_eq]
  rcases arrivalAtStart_running running waitless with same | ⟨f, arrived⟩
  · rw [same]; exact start
  · rw [arrived]; exact start.raiseFlag _ f

/-- A ready candidate with a free thread starts there (R237, R240). -/
theorem tryCand_starts {c : Cand} (ready : (getTask s k c.idx).st = .ready) (within : taskOver s (getTask s k c.idx) = false)
    (free : placeLane s k (getTask s k c.idx) = some lane) : tryCand s k c = (startTask s k lane c.idx, true) := by
  simp [tryCand, ready, within, placeTask, free]

end

/-! ### The residency scan (R241) -/

/-- The scan of a station moves on to the next entry of its task store. -/
def scanMoved (s : State) (k : Nat) : State := modStn s k fun st => { st with scan := ((getStn s k).scan + 1) % 4096 }

theorem residencyScan_spares {s : State} {k : Fin 17} (spared : scanHits s (getTask s k.val (getStn s k.val).scan) = false) :
    exec (.residencyScan k) s = .next (scanMoved s k.val) := by
  have same (t : Task) : scanHits (scanMoved s k.val) t = scanHits s t := rfl
  change Host.Outcome.next (if scanHits (scanMoved s k.val) (getTask s k.val (getStn s k.val).scan) then _ else scanMoved s k.val) = _
  rw [same, spared, if_neg Bool.false_ne_true]

theorem scanMoved_reads (s : State) (k : Nat) : let st := getStn (scanMoved s k) k
    st.scan = ((getStn s k).scan + 1) % 4096 ∧ st.tasks = (getStn s k).tasks ∧ st.threads = (getStn s k).threads := by
  rw [scanMoved, getStn_modStn_same]
  exact ⟨rfl, rfl, rfl⟩

/-! ### Operation timers (R231) -/

section
variable {s : State} {k : Fin 17} {idx : BitVec 12} {x : Nat}

theorem operationTimer_early (set : (getTask s k.val idx.toNat).timerAt = some x) (early : s.clk < x) :
    exec (.operationTimer k idx) s = .next s := by
  change execOperationTimer k idx s = _
  simp [execOperationTimer, set, Nat.not_le.mpr early]

/-- The expired timer of a task that runs and does not wait is cleared, and its flag set. -/
theorem operationTimer_expires (set : (getTask s k.val idx.toNat).timerAt = some x) (due : x ≤ s.clk)
    (running : (getTask s k.val idx.toNat).st = .running)
    (waitless : (getThr s k.val (getTask s k.val idx.toNat).thread).wait = none) :
    let t := getTask s k.val idx.toNat
    exec (.operationTimer k idx) s = .next (modTask (modTask s k.val idx.toNat fun t => { t with timerAt := none }) k.val idx.toNat
      (raiseFlag s.clk (edGet s t.tag (pidDispGraphOpTimerFlag t.graph t.node)))) := by
  change execOperationTimer k idx s = _
  simp only [execOperationTimer, set, due, running, decide_true, Bool.true_or, Bool.and_true, if_true]
  refine congrArg Host.Outcome.next (deliverLive_running _ ?_ ?_ ?_)
  · rw [getTask_modTask_same]
  · rw [getTask_modTask_same]; exact running
  · rw [getTask_modTask_same, getThr_modTask]; exact waitless

end

/-! ### Stalls (R251) -/

/-- What a stall's report leaves of its station, and what it counts. -/
theorem reportStall_reads (s : State) (k ty cls bit : Nat) : let u := reportStall s k ty cls bit
    (getStn u k).stallSeen = (getStn s k).stallSeen + bit ∧ u.flt.total = satAdd 32 s.flt.total 1 ∧ u.tbl = s.tbl := by
  refine ⟨?_, report_total .., congrArg (·.2.2) (report_keeps ..)⟩
  rw [reportStall, getStn_congr (congrArg (·.1) (report_keeps ..)), getStn_modStn_same]

/-! ### A forced halt (R272, R273) -/

section
variable (s : State) (k l : Nat) (r : HaltReq)

/-- A halt leaves stations and held locks as `haltedState` says, whatever it answers and reports (R272). -/
theorem haltThread_keeps (forced : Bool) : (haltThread s k l r forced).stn = (haltedState s k l r).stn ∧
    (haltThread s k l r forced).held = (haltedState s k l r).held := by
  have settled (s0 u : State) : (settleBounds s0 u).stn = u.stn ∧ (settleBounds s0 u).held = u.held :=
    ⟨settleBounds_stn u s0, by rw [settleBounds_eq]⟩
  unfold haltThread
  dsimp only
  split
  · exact settled ..
  · exact settled ..

theorem haltedState_thr : getThr (haltedState s k l r) k l = { getThr (squash s k l) k l with st := .halted, halt := none } := by
  rw [haltedState, getThr_modStn_keeps (f := fun st => { st with halted := true }) _ _ fun _ => rfl, getThr_modThr_same, getThr_setShelf]

theorem haltedState_shelf : sget none (getStn (haltedState s k l r) k).shelf r.entry = some (haltShelf (squash s k l) k l) := by
  rw [haltedState, getStn_modStn_same, modThr, getStn_modStn_same, setShelf, getStn_modStn_same, sget_sset_same]

theorem haltedState_held : (haltedState s k l r).held = s.held := congrArg (·.1) (flushRegs_aside s k l)

/-- What the thread holds is given up before a forced halt (R260, R269, R273). -/
def haltReleased : State :=
  let u := abandonHelper (abortOpen s k l) k l
  abandonTask u (masterId k l) (getThr u k l).task

theorem haltReleased_held : (haltReleased s k l).held = heldByOthers s (masterId k l) (getThr s k l).task := by
  have task : (getThr (abandonHelper (abortOpen s k l) k l) k l).task = (getThr s k l).task := by
    rw [getThr_abandonHelper, abortOpen_thr]
  have held : (abandonHelper (abortOpen s k l) k l).held = s.held :=
    congrArg (·.1) ((abandonHelper_aside _ k l).trans (abortOpen_aside s k l))
  rw [haltReleased, task, heldByOthers, ← held]
  exact congrArg (·.1) (abandonLocks_aside _ _)

variable {s} {t : Tid} {r : HaltReq}

theorem forcedHalt_unasked (unasked : (thrOf s t).halt = none) : exec (.forcedHalt t) s = .next s := by
  rw [thrOf] at unasked
  change execForcedHalt t s = _
  simp [execForcedHalt, unasked]

theorem forcedHalt_waits (asked : (thrOf s t).halt = some r) (waits : s.clk < r.since + 4096 ∨ (thrOf s t).ended = true ∨
    (thrOf s t).st = .trapped ∨ inEmu (getStn s t.stn.val) (tlane t) = true) : exec (.forcedHalt t) s = .next s := by
  rw [thrOf] at asked waits
  change execForcedHalt t s = _
  simp only [execForcedHalt, asked]
  exact if_pos (by simpa [or_assoc] using waits)

theorem forcedHalt_halts (asked : (thrOf s t).halt = some r) (due : r.since + 4096 ≤ s.clk) (going : (thrOf s t).ended = false)
    (untrapped : (thrOf s t).st ≠ .trapped) (core : inEmu (getStn s t.stn.val) (tlane t) = false) :
    exec (.forcedHalt t) s = .next (haltThread (haltReleased s t.stn.val (tlane t)) t.stn.val (tlane t) r true) := by
  rw [thrOf] at asked going untrapped
  change execForcedHalt t s = _
  simp [execForcedHalt, asked, going, untrapped, core, Nat.not_lt.mpr due, haltReleased]

/-- What a forced halt leaves of its thread, its locks, its snapshot entry and its station. -/
theorem forcedHalt_reads (s : State) (k l : Nat) (r : HaltReq) : let u := haltThread (haltReleased s k l) k l r true
    (getThr u k l).st = .halted ∧ (getThr u k l).halt = none ∧ heldTask u (masterId k l) (getThr s k l).task = [] ∧
      sget none (getStn u k).shelf r.entry = some (haltShelf (squash (haltReleased s k l) k l) k l) ∧ (getStn u k).halted = true := by
  obtain ⟨stations, held⟩ := haltThread_keeps (haltReleased s k l) k l r true
  have context := haltedState_thr (haltReleased s k l) k l r
  refine ⟨?_, ?_, heldTask_of_heldByOthers (s := s) ?_, ?_, ?_⟩
  · rw [getThr_congr stations]; exact congrArg Thread.st context
  · rw [getThr_congr stations]; exact congrArg Thread.halt context
  · exact Eq.trans held ((haltedState_held _ k l r).trans (haltReleased_held s k l))
  · rw [getStn_congr stations]; exact haltedState_shelf ..
  · rw [getStn_congr stations]; exact (haltedState_reads _ k l r).2.1

end

/-- Settles O50, event by event: a start by `startTask_started`, the halt by `forcedHalt_reads`, the others from the equation of their
command. -/
theorem dispatchAndStalls : Obligations.DispatchAndStalls := by
  intro s
  refine ⟨fun k => ⟨?idle, ?starts, ?scan, fun idx => ⟨?early, ?expires⟩, ?stallEarly, ?stall, ?longEarly, ?long⟩,
    fun t => ⟨forcedHalt_unasked, fun r asked => ⟨forcedHalt_waits asked, ?forced⟩⟩⟩
  case idle =>
    intro none
    change Host.Outcome.next (tryCands s k.val 0 _) = _
    rw [none, tryCands]
  case starts =>
    intro c lane single ready within free
    refine ⟨startTask s k.val lane c.idx, ?_, startTask_started⟩
    change Host.Outcome.next (tryCands s k.val 0 _) = _
    rw [single, tryCands, tryCand_starts ready within free]
    rfl
  case scan =>
    intro spared
    obtain ⟨moved, tasks, threads⟩ := scanMoved_reads s k.val
    exact ⟨_, residencyScan_spares spared, moved, tasks, fun l => by rw [getThr, threads, getThr], fun j => getStn_modStn_ne _ _, rfl⟩
  case early => exact fun x => operationTimer_early
  case expires =>
    intro x set due running waitless
    refine ⟨_, operationTimer_expires set due running waitless, ?_, ?_⟩
    · rw [getTask_modTask_same, getTask_modTask_same]; rfl
    · rw [getTask_modTask_same, getTask_modTask_same]; rfl
  case stallEarly => exact fun early => if_neg (by simp [early])
  case stall => exact fun due => ⟨_, if_pos due, reportStall_reads ..⟩
  case longEarly => exact fun early => if_neg (by simp [early])
  case long =>
    intro due
    obtain ⟨seen, -, tables⟩ := reportStall_reads s k.val 0x06 clsCritical 2
    exact ⟨_, if_pos due, seen, report_latched _ _ _ _ _ _ _ _ (Nat.le_refl _), tables⟩
  case forced =>
    intro due going untrapped core
    obtain ⟨halted, unasked, free, entry, mark⟩ := forcedHalt_reads s t.stn.val (tlane t) r
    exact ⟨_, _, forcedHalt_halts asked due going untrapped core, halted, unasked, free, entry, rfl, rfl, mark⟩

end Sys2Proof.Machine
end

section
/-! Proofs about copies: what an enqueue, a discard and the end of a copy leave of the state, and of a packet without a trap record
(R102, R131, R317, R326, R327, R383). -/

namespace Sys2Proof.Machine

/-! ### Folios, references and copies (R102, R317) -/

section
variable (s : State)

/-- Giving up folios changes the buffer only (R317). -/
theorem dropRefs_eq (fs : List Nat) : dropRefs s fs = { s with buf := (dropRefs s fs).buf } := by
  induction fs generalizing s with
  | nil => rfl
  | cons i rest ih =>
    change dropRefs (dropRef s i) rest = { s with buf := (dropRefs (dropRef s i) rest).buf }
    rw [ih, dropRef_eq]

/-- Gaining references changes the buffer only (R317). -/
theorem addRefs_eq (fs : List Nat) (n : Nat) : addRefs s fs n = { s with buf := (addRefs s fs n).buf } := by
  induction fs generalizing s with
  | nil => rfl
  | cons i rest ih =>
    rw [addRefs, List.foldl_cons]
    split
    · exact ih s
    · exact ih _

theorem giveUp_eq (c : Copy) : giveUp s c = { s with buf := (giveUp s c).buf } := dropRefs_eq s _

theorem closeCopy_eq (c : Copy) : closeCopy s c =
    { s with ed := (closeCopy s c).ed, pkts := (closeCopy s c).pkts, stn := (closeCopy s c).stn } := by
  unfold closeCopy
  rw [endCopy_eq]
  rfl

theorem discardCopy_eq (c : Copy) : discardCopy s c = { s with
    buf := (discardCopy s c).buf, ed := (discardCopy s c).ed, pkts := (discardCopy s c).pkts, stn := (discardCopy s c).stn } := by
  change closeCopy (giveUp s c) c = { s with
    buf := (closeCopy (giveUp s c) c).buf, ed := (closeCopy (giveUp s c) c).ed, pkts := (closeCopy (giveUp s c) c).pkts
    stn := (closeCopy (giveUp s c) c).stn }
  rw [closeCopy_eq, giveUp_eq]

@[simp] theorem giveUp_tm (c : Copy) : (giveUp s c).tm = s.tm := by rw [giveUp_eq]
@[simp] theorem giveUp_host (c : Copy) : (giveUp s c).host = s.host := by rw [giveUp_eq]
@[simp] theorem closeCopy_tm (c : Copy) : (closeCopy s c).tm = s.tm := by rw [closeCopy_eq]
@[simp] theorem closeCopy_host (c : Copy) : (closeCopy s c).host = s.host := by rw [closeCopy_eq]
@[simp] theorem discardCopy_tm (c : Copy) : (discardCopy s c).tm = s.tm := by rw [discardCopy_eq]
@[simp] theorem discardCopy_flt (c : Copy) : (discardCopy s c).flt = s.flt := by rw [discardCopy_eq]
@[simp] theorem endCopy_tm (i : Nat) : (endCopy s i).tm = s.tm := by rw [endCopy_eq]

end

/-! ### Moves of a packet and its copies -/

/-- A state but for its traffic: the packets, their folios, copies and counts, the queues and ports, the stations, whose snapshot entries go
with packets, and what a report may change. -/
def sansTraffic (s : State) : State :=
  { unreported s with pkts := [], stn := [], buf := State.reset.buf, tm := State.reset.tm, ed := { s.ed with tagCount := [] } }

/-- Packet i, if there is one, carries no trap record. -/
def Untrapped (s : State) (i : Nat) : Prop := ∀ p, getPkt s i = some p → p.trap = none

/-- From s to u packet i and its copies have moved: nothing but traffic has changed, and the stations have not where the packet carries no
trap record (R131). -/
structure Moves (i : Nat) (s u : State) : Prop where
  rest : sansTraffic u = sansTraffic s
  quiet : Untrapped s i → Untrapped u i ∧ u.stn = s.stn

section
variable {i : Nat} {s u v : State}

theorem Moves.refl (i : Nat) (s : State) : Moves i s s := ⟨rfl, fun clean => ⟨clean, rfl⟩⟩

theorem Moves.trans (first : Moves i s u) (second : Moves i u v) : Moves i s v where
  rest := second.rest.trans first.rest
  quiet clean := by
    obtain ⟨cleanU, same⟩ := first.quiet clean
    obtain ⟨cleanV, same'⟩ := second.quiet cleanU
    exact ⟨cleanV, same'.trans same⟩

theorem moves_foldl {α : Type} {f : State → α → State} (l : List α) (each : ∀ s, ∀ a ∈ l, Moves i s (f s a)) (s : State) :
    Moves i s (l.foldl f s) :=
  List.foldlRecOn l f (Moves.refl i s) fun u moved a mem => moved.trans (each u a mem)

/-- What changes neither packets nor stations moves nothing of a trap record. -/
theorem moves_of_frame (rest : sansTraffic u = sansTraffic s) (pkts : u.pkts = s.pkts) (stn : u.stn = s.stn) : Moves i s u where
  rest := rest
  quiet clean := ⟨fun p present => clean p (by rw [getPkt, ← pkts]; exact present), stn⟩

theorem Moves.getHalf_eq (moves : Moves i s u) (h : Hf) : getHalf u h = getHalf s h := by
  cases h with
  | west => have same := congrArg State.west moves.rest; exact same
  | east => have same := congrArg State.east moves.rest; exact same

theorem Moves.tbl_eq (moves : Moves i s u) : u.tbl = s.tbl := by
  have same := congrArg State.tbl moves.rest
  exact same

variable (i s)

theorem moves_report (src ty cls reporter a0 a1 a2 : Nat) : Moves i s (report s src ty cls reporter a0 a1 a2) := by
  have same := report_unreported s src ty cls reporter a0 a1 a2
  have kept := report_keeps s src ty cls reporter a0 a1 a2
  have rest := congrArg
    (fun u => { u with pkts := [], stn := [], buf := State.reset.buf, tm := State.reset.tm, ed := { u.ed with tagCount := [] } }) same
  exact moves_of_frame rest (congrArg (·.2.1) kept) (congrArg (·.1) kept)

theorem moves_pinc (id : Nat) : Moves i s (pinc s id) := moves_of_frame rfl rfl rfl
theorem moves_pset (id v : Nat) : Moves i s (pset s id v) := moves_of_frame rfl rfl rfl
theorem moves_leaveTag (half tag : Nat) : Moves i s (leaveTag s half tag) := moves_of_frame rfl rfl rfl
theorem moves_enterTag (half tag n : Nat) : Moves i s (enterTag s half tag n) := moves_of_frame rfl rfl rfl
theorem moves_pushCopy (p q : Nat) (c : Copy) : Moves i s (pushCopy s p q c) := moves_of_frame rfl rfl rfl

theorem moves_dropRefs (fs : List Nat) : Moves i s (dropRefs s fs) := by
  rw [dropRefs_eq]
  exact moves_of_frame rfl rfl rfl

theorem moves_addRefs (fs : List Nat) (n : Nat) : Moves i s (addRefs s fs n) := by
  rw [addRefs_eq]
  exact moves_of_frame rfl rfl rfl

variable {i s}

theorem put_trap (p : Packet) (f : Nat × Nat) (v : Nat) : (p.put f v).trap = p.trap := rfl

/-- A packet that is written anew keeps its trap record. -/
theorem moves_setPkt {p q : Packet} (present : getPkt s i = some p) (record : q.trap = p.trap) : Moves i s (setPkt s i q) where
  rest := rfl
  quiet clean := by
    refine ⟨fun r read => ?_, rfl⟩
    rw [getPkt_setPkt_same] at read
    cases read
    exact record.trans (clean p present)

theorem moves_modPkt {f : Packet → Packet} (record : ∀ p, (f p).trap = p.trap) : Moves i s (modPkt s i f) := by
  unfold modPkt
  split
  · exact .refl i s
  · next p present => exact moves_setPkt present (record p)

variable (i s)

theorem moves_dropPkt : Moves i s (dropPkt s i) where
  rest := by rw [dropPkt_eq]; rfl
  quiet clean := by
    refine ⟨fun p present => ?_, dropPkt_stn s i clean⟩
    rw [getPkt, dropPkt_pkts, sget_sset_same] at present
    cases present

theorem moves_endCopy : Moves i s (endCopy s i) := by
  unfold endCopy
  split
  · exact .refl i s
  · next p present =>
    split
    · exact moves_dropPkt i s
    · exact moves_setPkt present rfl

theorem moves_forgetPacket : Moves i s (forgetPacket s i) := by
  unfold forgetPacket
  split
  · exact .refl i s
  · next p present =>
    split
    · exact moves_dropPkt i s
    · exact moves_setPkt present rfl

theorem moves_discardPacket : Moves i s (discardPacket s i) := by
  unfold discardPacket
  split
  · exact .refl i s
  · exact ((moves_dropRefs i s _).trans (moves_leaveTag i _ _ _)).trans (moves_forgetPacket i _)

variable {i}

theorem moves_closeCopy {c : Copy} (own : c.pkt = i) : Moves i s (closeCopy s c) := by
  subst own
  exact (moves_leaveTag c.pkt s c.half c.tag).trans (moves_endCopy c.pkt _)

theorem moves_discardCopy {c : Copy} (own : c.pkt = i) : Moves i s (discardCopy s c) :=
  (moves_dropRefs i s _).trans (moves_closeCopy (giveUp s c) own)

/-! ### Enqueue (R326, R327, R340, R383) -/

theorem moves_tailDrop (p q : Nat) {c : Copy} (own : c.pkt = i) : Moves i s (tailDrop s p q c) := by
  have dropped := moves_pinc i s (pidTmQTailDrop p q)
  have counted := dropped.trans (moves_pinc i _ (pidCapRuleDropped c.rule))
  unfold tailDrop
  dsimp only
  refine .trans ?_ (moves_discardCopy _ own)
  split_ifs
  · exact counted.trans (moves_report ..)
  · exact counted
  · exact dropped.trans (moves_report ..)
  · exact dropped

theorem moves_enqueueCopy (p q : Nat) {c : Copy} (own : c.pkt = i) : Moves i s (enqueueCopy s p q c) := by
  unfold enqueueCopy
  split_ifs
  · exact (moves_pinc i s _).trans (moves_discardCopy _ own)
  · exact (moves_pinc i s _).trans (moves_discardCopy _ own)
  · subst own
    exact (moves_modPkt (f := fun x => x.put (fFlag flDeep) 1) fun _ => put_trap ..).trans (moves_pushCopy ..)
  · exact moves_tailDrop s p q own
  · exact moves_pushCopy ..

theorem moves_addCapture (rule : Nat) : Moves i s (addCapture s i rule) := by
  unfold addCapture
  split
  · exact .refl i s
  · next p present =>
    split
    · exact moves_pinc i s _
    · have still : getPkt (addRefs s p.folios 1) i = some p := by rw [addRefs_eq]; exact present
      have entered := ((moves_addRefs i s p.folios 1).trans
        (moves_setPkt (q := { p with recorded := true, copies := p.copies + 1 }) still rfl)).trans
        (moves_enterTag i _ (hIdx p.half) (p.get fTag) 1)
      exact entered.trans (moves_enqueueCopy _ _ _ rfl)

theorem moves_advanceSeqs (pairs : List Nat) : Moves i s (advanceSeqs s pairs) :=
  moves_foldl pairs (fun u n _ => moves_pset i u (pidEgrRedSeq n) ((pget u (pidEgrRedSeq n) + 1) % 65536)) s

/-- An enqueued packet and its copies have moved (R326, R327, R383). -/
theorem moves_enqueuePacket (port q : Nat) (plain : Bool) : Moves i s (enqueuePacket s i port q plain) := by
  have counted (l : List Nat) : Moves i s (l.foldl (fun u x => pinc u (pidTmPortTooLong x)) s) :=
    moves_foldl l (fun u x _ => moves_pinc i u (pidTmPortTooLong x)) s
  have pkts (l : List Nat) : getPkt (l.foldl (fun u x => pinc u (pidTmPortTooLong x)) s) i = getPkt s i :=
    foldl_keeps (fun u => getPkt u i) (f := fun u x => pinc u (pidTmPortTooLong x)) (fun _ _ => rfl) l s
  unfold enqueuePacket
  split
  · exact .refl i s
  · next p present =>
    have entered (l fs : List Nat) {p' : Packet} (record : p'.trap = p.trap) (n half tag m : Nat) :
        Moves i s (enterTag (addRefs (setPkt (l.foldl (fun u x => pinc u (pidTmPortTooLong x)) s) i p') fs n) half tag m) :=
      (((counted l).trans (moves_setPkt ((pkts l).trans present) record)).trans (moves_addRefs ..)).trans (moves_enterTag ..)
    dsimp only
    refine .trans (.trans ?captured (moves_advanceSeqs _ _)) (moves_foldl _ (fun u xc mem => moves_enqueueCopy u _ _ ?own) _)
    case own =>
      obtain ⟨x, -, rfl⟩ := List.mem_map.mp mem
      rfl
    case captured =>
      split
      · refine entered _ _ ?_ _ _ _ _
        exact (apply_ite Packet.trap ..).trans (ite_self _)
      · refine .trans (entered _ _ ?_ _ _ _ _) (moves_addCapture _ _)
        exact (apply_ite Packet.trap ..).trans (ite_self _)

end

end Sys2Proof.Machine
end

section
/-! Proofs about the release unit: the checks of a complete packet, and its release as a packet or as a hole (R26 to R28, R84, R245 to R248). -/

namespace Sys2Proof.Machine

/-! ### The checks of a complete packet (R245) -/

section
variable (s : State) (i : Nat) (p : Packet)

/-- The disposition of a packet moves counters only. -/
theorem finalDisp_eq : (finalDisp s p).1 = { s with par := (finalDisp s p).1.par } := by
  have forward : (forwardDisp s p).1 = { s with par := (forwardDisp s p).1.par } := by
    unfold forwardDisp
    dsimp only
    split_ifs <;> rfl
  have program : (programDisp s p).1 = { s with par := (programDisp s p).1.par } := by
    unfold programDisp
    dsimp only
    split_ifs
    · exact forward
    · rfl
    · rfl
  unfold finalDisp
  split
  · rfl
  · split
    · split_ifs <;> rfl
    · split_ifs
      · rfl
      · exact program

/-- The token test changes the buckets and counters only (R84). -/
theorem takeToken_eq (r : Nat) : (takeToken s r).1 = { s with
    par := (takeToken s r).1.par, excTokens := (takeToken s r).1.excTokens, excLast := (takeToken s r).1.excLast } := by
  unfold takeToken
  dsimp only
  split <;> rfl

/-- A packet whose disposition is final waits for its turn from now on; its half's queue stays. -/
theorem toRelease_waits : getPkt (toRelease s i p) i = some { p with stage := .checked, relAt := s.clk } ∧
    (∀ h, getHalf (toRelease s i p) h = getHalf s h) ∧ (toRelease s i p).stn = s.stn ∧ (toRelease s i p).buf = s.buf := by
  refine ⟨?packet, fun h => ?half, pmax_stn .., pmax_buf ..⟩
  case packet =>
    rw [getPkt, toRelease, pmax_pkts]
    exact getPkt_setPkt_same ..
  case half =>
    cases h with
    | west => exact pmax_west ..
    | east => exact pmax_east ..

/-- The parts of the device that the checks of a packet keep, and the time from which it waits. -/
def timeHalvesStations (s : State) : Nat × HalfState × HalfState × Sparse Station × Buffer := (s.clk, s.west, s.east, s.stn, s.buf)

theorem finalDisp_keeps : timeHalvesStations (finalDisp s p).1 = timeHalvesStations s := by rw [finalDisp_eq]; rfl
theorem takeToken_keeps (r : Nat) : timeHalvesStations (takeToken s r).1 = timeHalvesStations s := by rw [takeToken_eq]; rfl
theorem countDisp_keeps (h r : Nat) : timeHalvesStations (countDisp s h r) = timeHalvesStations s := rfl

theorem checkPacket_waits : ∃ u q, checkPacket s i p = toRelease u i q ∧ timeHalvesStations u = timeHalvesStations s := by
  unfold checkPacket
  generalize disp : finalDisp s p = x
  obtain ⟨v, d⟩ := x
  have kept : timeHalvesStations v = timeHalvesStations s := by rw [← finalDisp_keeps s p, disp]
  have counted := (countDisp_keeps v (hIdx p.half) d).trans kept
  simp only
  split
  · generalize token : takeToken (countDisp v (hIdx p.half) d) (releaseReason d) = y
    obtain ⟨w, ok⟩ := y
    have spent := takeToken_keeps (countDisp v (hIdx p.half) d) (releaseReason d)
    rw [token] at spent
    exact ⟨w, _, rfl, spent.trans counted⟩
  · exact ⟨_, _, rfl, counted⟩

end

section
variable {s : State} {h : Hf}

theorem passComplete_waits (none_ : (getHalf s h).relQ.find? (fun i => (getPkt s i).any fun p => p.stage = .complete) = none) :
    exec (.passComplete h) s = .next s := by
  change execPassComplete h s = _
  rw [execPassComplete, none_]

/-- The oldest complete packet gets its disposition and waits for its turn from now on. -/
theorem passComplete_checks {i : Nat}
    (oldest : (getHalf s h).relQ.find? (fun i => (getPkt s i).any fun p => p.stage = .complete) = some i) :
    ∃ u q, exec (.passComplete h) s = .next u ∧ getPkt u i = some q ∧ q.stage = .checked ∧ q.relAt = s.clk ∧
      (getHalf u h).relQ = (getHalf s h).relQ ∧ u.stn = s.stn ∧ u.buf = s.buf := by
  have complete := List.find?_some oldest
  obtain ⟨p, present⟩ : ∃ p, getPkt s i = some p := by
    cases found : getPkt s i with
    | none => rw [found] at complete; cases complete
    | some p => exact ⟨p, rfl⟩
  have run : exec (.passComplete h) s = .next (checkPacket s i p) := by
    change execPassComplete h s = _
    simp only [execPassComplete, oldest, present]
  obtain ⟨u, q, checked, kept⟩ := checkPacket_waits s i p
  obtain ⟨packet, halves, stations, buffer⟩ := toRelease_waits u i q
  refine ⟨_, _, run, by rw [checked]; exact packet, rfl, congrArg (·.1) kept, ?_, ?_, ?_⟩
  · rw [checked, halves]
    cases h with
    | west => exact congrArg (fun x => x.2.1.relQ) kept
    | east => exact congrArg (fun x => x.2.2.1.relQ) kept
  · rw [checked, stations]; exact congrArg (·.2.2.2.1) kept
  · rw [checked, buffer]; exact congrArg (·.2.2.2.2) kept

end

/-! ### The turn of a packet (R246) -/

@[simp] theorem getHalf_modHalf_same (s : State) (h : Hf) (f : HalfState → HalfState) : getHalf (modHalf s h f) h = f (getHalf s h) := by
  cases h <;> rfl

/-- A state but for its halves and packets. -/
def sansHalves (s : State) : State := { s with west := {}, east := {}, pkts := [] }

theorem modHalf_sansHalves (s : State) (h : Hf) (f : HalfState → HalfState) : sansHalves (modHalf s h f) = sansHalves s := by
  cases h <;> rfl

theorem modPkt_sansHalves (s : State) (i : Nat) (f : Packet → Packet) : sansHalves (modPkt s i f) = sansHalves s := by
  rw [modPkt_eq]
  rfl

/-- A packet whose turn comes with a half's next number is releasable in the next cycle (R246). -/
def retime (h : HalfState) (d clk : Nat) (q : Packet) : Packet :=
  if q.stage = .checked && ordered q && q.get fDomain = d && hasTurn h q then { q with relAt := clk + 1 } else q

/-- Every packet stays, but for the time from which it may be released. -/
def SameButTime (s u : State) : Prop := ∀ i p, getPkt s i = some p → ∃ r, getPkt u i = some { p with relAt := r }

section
variable {s u v : State}

theorem SameButTime.refl (s : State) : SameButTime s s := fun _ p present => ⟨p.relAt, present⟩

theorem SameButTime.trans (first : SameButTime s u) (second : SameButTime u v) : SameButTime s v := fun i p present => by
  obtain ⟨r, present'⟩ := first i p present
  obtain ⟨r', present''⟩ := second i { p with relAt := r } present'
  exact ⟨r', present''⟩

theorem sameButTime_modPkt (s : State) (i : Nat) {f : Packet → Packet} (time : ∀ p, ∃ r, f p = { p with relAt := r }) :
    SameButTime s (modPkt s i f) := by
  intro j p present
  by_cases same : j = i
  · subst same
    obtain ⟨r, timed⟩ := time p
    exact ⟨r, by rw [modPkt, present, ← timed]; exact getPkt_setPkt_same ..⟩
  · refine ⟨p.relAt, ?_⟩
    unfold modPkt
    split
    · exact present
    · rw [getPkt_setPkt_ne _ _ same]; exact present

end

theorem retime_relAt (h : HalfState) (d clk : Nat) (q : Packet) : ∃ r, retime h d clk q = { q with relAt := r } := by
  unfold retime
  split
  · exact ⟨_, rfl⟩
  · exact ⟨q.relAt, rfl⟩

section
variable (s : State) (p : Packet)

/-- The half of an ordered packet goes on to its domain's next number (R246). -/
def turned : State :=
  let d := p.get fDomain
  modHalf s p.half fun h => { h with next := sset 0 h.next d ((sget 0 h.next d + 1) % 65536) }

theorem advanceNext_ordered (takesTurn : ordered p = true) : advanceNext s p = (getHalf (turned s p) p.half).relQ.foldl
    (fun u i => modPkt u i (retime (getHalf u p.half) (p.get fDomain) u.clk)) (turned s p) := by
  simp only [advanceNext, takesTurn]
  rfl

theorem turned_getHalf : getHalf (turned s p) p.half = { getHalf s p.half with
    next := sset 0 (getHalf s p.half).next (p.get fDomain) ((sget 0 (getHalf s p.half).next (p.get fDomain) + 1) % 65536) } :=
  getHalf_modHalf_same ..

theorem turned_sansHalves : sansHalves (turned s p) = sansHalves s := modHalf_sansHalves ..

theorem turned_sameButTime : SameButTime s (turned s p) := by
  intro i q present
  refine ⟨q.relAt, ?_⟩
  unfold turned modHalf
  dsimp only
  split <;> exact present

/-- What the advance of a domain's number leaves: the half's next number, the packets but for their time, the rest (R246). -/
theorem advanceNext_reads : let v := advanceNext s p
    getHalf v p.half = (if ordered p then getHalf (turned s p) p.half else getHalf s p.half) ∧ sansHalves v = sansHalves s ∧
      SameButTime s v := by
  by_cases takesTurn : ordered p = true
  · dsimp only
    rw [advanceNext_ordered s p takesTurn, if_pos takesTurn]
    have half (u : State) (i : Nat) (f : Packet → Packet) : getHalf (modPkt u i f) p.half = getHalf u p.half := by rw [modPkt_eq]; rfl
    refine ⟨foldl_keeps (fun u => getHalf u p.half) (fun u i => half u i _) _ _, ?_, ?_⟩
    · rw [foldl_keeps sansHalves (fun u i => modPkt_sansHalves ..), turned_sansHalves]
    · exact List.foldlRecOn _ _ (turned_sameButTime s p) fun u timed i _ => timed.trans (sameButTime_modPkt u i (retime_relAt _ _ _))
  · have stays : advanceNext s p = s := by simp [advanceNext, takesTurn]
    dsimp only
    rw [stays, if_neg takesTurn]
    exact ⟨rfl, rfl, .refl s⟩

end

/-! ### Release (R246 to R248) -/

section
variable (s : State) (i : Nat) (p : Packet)

theorem moves_releaseHole : Moves i s (releaseHole s i p) := by
  have counted := moves_pinc i s (pidOrdHalfHoles (hIdx p.half))
  unfold releaseHole
  dsimp only
  refine .trans ?_ (moves_discardPacket i _)
  split
  · exact counted
  · exact counted.trans (moves_addCapture ..)

theorem moves_releasePacket {q : Packet} (present : getPkt s i = some q) (record : p.trap = q.trap) :
    Moves i s (releasePacket s i p) := by
  have counted := moves_pinc i s (pidOrdHalfReleased (hIdx p.half))
  unfold releasePacket
  dsimp only
  split_ifs
  · exact counted.trans (moves_enqueuePacket ..)
  · refine .trans (counted.trans (moves_setPkt present ?_)) (moves_enqueuePacket _ _ _ _)
    rw [put_trap, record]
  · exact counted.trans (moves_enqueuePacket ..)

/-- A packet that no copy holds is gone when it is discarded (R26, R383). -/
theorem discardPacket_leavesNone {q : Packet} (present : getPkt s i = some q) (uncopied : q.copies = 0) :
    getPkt (discardPacket s i) i = none := by
  have still : getPkt (leaveTag (dropRefs s q.folios) (hIdx q.half) (q.get fTag)) i = some q := by rw [dropRefs_eq]; exact present
  simp only [discardPacket, present, forgetPacket, still, uncopied, if_true]
  rw [getPkt, dropPkt_pkts, sget_sset_same]

/-- The rule under which a hole is recorded is read from the parameters (R383). -/
theorem holeRule_congr {u v : State} (p : Packet) (same : u.par = v.par) : holeRule u p = holeRule v p := by
  have get (id : Nat) : pget u id = pget v id := by rw [pget, same, pget]
  simp only [holeRule, captureRule, get]

/-- The rule under which a hole is recorded does not depend on the count of holes (R383). -/
theorem holeRule_counted (h : Nat) : holeRule (pinc s (pidOrdHalfHoles h)) p = holeRule s p := by
  have enable (n : Nat) : pget (pinc s (pidOrdHalfHoles h)) (pidCapRuleEnable n) = pget s (pidCapRuleEnable n) :=
    pget_pinc_ne s (by unfold pidCapRuleEnable pidOrdHalfHoles; omega)
  have discards (n : Nat) : pget (pinc s (pidOrdHalfHoles h)) (pidCapRuleDiscards n) = pget s (pidCapRuleDiscards n) :=
    pget_pinc_ne s (by unfold pidCapRuleDiscards pidOrdHalfHoles; omega)
  simp only [holeRule, captureRule, enable, discards]

/-- A hole without a capture rule or a copy leaves no packet (R28, R246, R383). -/
theorem releaseHole_leavesNone {q : Packet} (present : getPkt s i = some q) (uncopied : q.copies = 0) (unruled : holeRule s p = none) :
    getPkt (releaseHole s i p) i = none := by
  have rule : holeRule (pinc s (pidOrdHalfHoles (hIdx p.half))) p = none := (holeRule_counted s p _).trans unruled
  rw [releaseHole, rule]
  exact discardPacket_leavesNone _ i present uncopied

/-- The state when packet i has left its half's queue and its domain has gone on (R246). -/
def dequeued (h : Hf) : State := advanceNext (modHalf s h fun x => { x with relQ := x.relQ.filter (· != i) }) p

theorem release_waits {h : Hf} (idle : nextRelease s h = none) : exec (.release h) s = .next s := by
  change execRelease h s = _
  rw [execRelease, idle]

variable {s i p} {h : Hf}

section
variable (next : nextRelease s h = some i) (present : getPkt s i = some p)
include next present

theorem exec_release : exec (.release h) s =
    .next (if p.hole then releaseHole (dequeued s i p h) i p else releasePacket (dequeued s i p h) i p) := by
  change execRelease h s = _
  simp only [execRelease, next, present]
  rfl

end

/-- What the release of a packet leaves of its half's queue, its domain, its stations and the tables. -/
theorem dequeued_reads (present : getPkt s i = some p) (own : p.half = h) : let v := dequeued s i p h
    (getHalf v h).relQ = (getHalf s h).relQ.filter (· != i) ∧
    sget 0 (getHalf v h).next (p.get fDomain) = (if ordered p then (sget 0 (getHalf s h).next (p.get fDomain) + 1) % 65536
      else sget 0 (getHalf s h).next (p.get fDomain)) ∧
    sansHalves v = sansHalves s ∧ ∃ r, getPkt v i = some { p with relAt := r } := by
  subst own
  have left : sansHalves (modHalf s p.half fun x => { x with relQ := x.relQ.filter (· != i) }) = sansHalves s := modHalf_sansHalves ..
  have same : getPkt (modHalf s p.half fun x => { x with relQ := x.relQ.filter (· != i) }) i = some p := by
    rw [← present]; cases p.half <;> rfl
  obtain ⟨half, rest, timed⟩ := advanceNext_reads (modHalf s p.half fun x => { x with relQ := x.relQ.filter (· != i) }) p
  rw [turned_getHalf, getHalf_modHalf_same] at half
  refine ⟨?_, ?_, rest.trans left, timed i p same⟩
  · rw [dequeued, half]
    split <;> rfl
  · rw [dequeued, half]
    split
    · rw [sget_sset_same]
    · rfl

/-- The release unit takes the packet whose turn it is (R28, R246 to R248). -/
theorem release_takes (next : nextRelease s h = some i) (present : getPkt s i = some p) (own : p.half = h) :
    ∃ u, exec (.release h) s = .next u ∧ (getHalf u h).relQ = (getHalf s h).relQ.filter (· != i) ∧
      sget 0 (getHalf u h).next (p.get fDomain) = (if ordered p then (sget 0 (getHalf s h).next (p.get fDomain) + 1) % 65536
        else sget 0 (getHalf s h).next (p.get fDomain)) ∧
      (p.hole = true → p.copies = 0 → holeRule s p = none → getPkt u i = none) ∧ (p.trap = none → u.stn = s.stn) ∧ u.tbl = s.tbl := by
  obtain ⟨queue, number, rest, r, still⟩ := dequeued_reads present own
  have kept := congrArg (fun u => (u.stn, u.tbl, u.par)) rest
  obtain ⟨stn, tbl, par⟩ : (dequeued s i p h).stn = s.stn ∧ (dequeued s i p h).tbl = s.tbl ∧ (dequeued s i p h).par = s.par :=
    ⟨congrArg (·.1) kept, congrArg (·.2.1) kept, congrArg (·.2.2) kept⟩
  have moved : Moves i (dequeued s i p h)
      (if p.hole then releaseHole (dequeued s i p h) i p else releasePacket (dequeued s i p h) i p) := by
    split
    · exact moves_releaseHole ..
    · exact moves_releasePacket _ _ _ still rfl
  refine ⟨_, exec_release next present, by rw [moved.getHalf_eq, queue], by rw [moved.getHalf_eq, number], ?hole, ?stations,
    moved.tbl_eq.trans tbl⟩
  case hole =>
    intro hole uncopied unruled
    rw [if_pos hole]
    exact releaseHole_leavesNone _ i p still uncopied ((holeRule_congr p par).trans unruled)
  case stations =>
    intro clean
    refine (moved.quiet fun q read => ?_).2.trans stn
    rw [still] at read
    cases read
    exact clean

end

end Sys2Proof.Machine
end

section
/-! Proofs about ports and queues: recirculation and the deep queues (R60, R316, R325, R340, R341, R379). -/

namespace Sys2Proof.Machine

/-! ### Queues and ports -/

section
variable (s : State)

@[simp] theorem getPort_modPort_same (key : Nat) (f : PortState → PortState) : getPort (modPort s key f) key = f (getPort s key) :=
  sget_smod_same ..

theorem getPort_modPort_ne {key j : Nat} (f : PortState → PortState) (other : j ≠ key) : getPort (modPort s key f) j = getPort s j :=
  sget_smod_ne _ _ _ other

@[simp] theorem getQueue_setQueue_same (key : Nat) (cs : List Copy) : getQueue (setQueue s key cs) key = cs := sget_sset_same ..

theorem getQueue_setQueue_ne {key j : Nat} (cs : List Copy) (other : j ≠ key) : getQueue (setQueue s key cs) j = getQueue s j :=
  sget_sset_ne _ _ _ _ other

variable {s}

theorem getPort_congr {u : State} (same : u.tm = s.tm) (key : Nat) : getPort u key = getPort s key := by rw [getPort, same, getPort]

theorem getQueue_congr {u : State} (same : u.tm = s.tm) (key : Nat) : getQueue u key = getQueue s key := by
  rw [getQueue, same, getQueue]

end

/-- A frame that is written leaves queues and ports. -/
theorem writeFrame_tm {s v : State} {writer acct : Nat} {bytes : List Byte} {fs : List Nat}
    (written : writeFrame s writer acct bytes = some (v, fs)) : v.tm = s.tm := by
  rw [writeFrame_eq written]

/-! ### The parser's queue (R14, R61) -/

theorem mem_insertBy {α : Type} (key : α → Nat) (x : α) (l : List α) : x ∈ insertBy key x l := by
  induction l with
  | nil => exact List.mem_cons_self
  | cons y rest ih =>
    rw [insertBy]
    split
    · exact List.mem_cons_of_mem _ ih
    · exact List.mem_cons_self

section
variable (s : State) (i : Nat) (p : Packet)

theorem queueParser_getPkt : getPkt (queueParser s i p) i = some { p with stage := .received, arrived := s.clk } := by
  have same : (queueParser s i p).pkts = (setPkt s i { p with stage := .received, arrived := s.clk }).pkts := by
    unfold queueParser modHalf
    dsimp only
    split <;> rfl
  rw [getPkt, same]
  exact getPkt_setPkt_same ..

theorem queueParser_rxQ : i ∈ (getHalf (queueParser s i p) p.half).rxQ := by
  have half : getHalf (queueParser s i p) p.half = { getHalf (setPkt s i { p with stage := .received, arrived := s.clk }) p.half with
      rxQ := insertBy (parserRank (setPkt s i { p with stage := .received, arrived := s.clk })) i
        (getHalf (setPkt s i { p with stage := .received, arrived := s.clk }) p.half).rxQ } := getHalf_modHalf_same ..
  rw [half]
  exact mem_insertBy ..

@[simp] theorem queueParser_tm : (queueParser s i p).tm = s.tm := by
  unfold queueParser modHalf
  dsimp only
  split <;> rfl

end

/-! ### Recirculation (R60, R325) -/

section
variable {s : State} {h : Hf} {t : TxCopy}

theorem recirculate_idle (free : (getPort s (portKey 33 (hIdx h))).tx = none) : exec (.recirculate h) s = .next s := by
  change execRecirculate h s = _
  simp only [execRecirculate, free]

variable (selected : (getPort s (portKey 33 (hIdx h))).tx = some t)
include selected

theorem recirculate_waits (unedited : t.out = none) : exec (.recirculate h) s = .next s := by
  change execRecirculate h s = _
  simp only [execRecirculate, selected, unedited]

variable {bytes : List Byte} {p : Packet} (edited : t.out = some bytes) (present : getPkt s t.copy.pkt = some p)
include edited present

theorem recirculate_discards (full : writeFrame (modPort s (portKey 33 (hIdx h)) fun x => { x with tx := none }) 33 65 bytes = none) :
    exec (.recirculate h) s = .next (discardCopy (modPort s (portKey 33 (hIdx h)) fun x => { x with tx := none }) t.copy) := by
  change execRecirculate h s = _
  simp only [execRecirculate, selected, edited, present, full]

theorem recirculate_queues {v : State} {fs : List Nat}
    (written : writeFrame (modPort s (portKey 33 (hIdx h)) fun x => { x with tx := none }) 33 65 bytes = some (v, fs)) :
    exec (.recirculate h) s =
      .next (queueParser (endCopy (giveUp v t.copy) t.copy.pkt) (fs.headD 0) (nextPass v p bytes fs)) := by
  change execRecirculate h s = _
  simp only [execRecirculate, selected, edited, present, written]

/-- Port 33 is free when its frame has been written again, or found no folio. -/
theorem recirculate_frees : ∃ u, exec (.recirculate h) s = .next u ∧ (getPort u (portKey 33 (hIdx h))).tx = none := by
  cases written : writeFrame (modPort s (portKey 33 (hIdx h)) fun x => { x with tx := none }) 33 65 bytes with
  | none =>
    refine ⟨_, recirculate_discards selected edited present written, ?_⟩
    rw [getPort_congr (discardCopy_tm ..), getPort_modPort_same]
  | some vf =>
    have ports : (queueParser (endCopy (giveUp vf.1 t.copy) t.copy.pkt) (vf.2.headD 0) (nextPass vf.1 p bytes vf.2)).tm =
        (modPort s (portKey 33 (hIdx h)) fun x => { x with tx := none }).tm := by
      rw [queueParser_tm, endCopy_tm, giveUp_tm, writeFrame_tm written]
    refine ⟨_, recirculate_queues selected edited present written, ?_⟩
    rw [getPort_congr ports, getPort_modPort_same]

end

/-! ### Spilling and reading back (R340, R341, R379) -/

section
variable {s : State}

theorem spill_idle (idle : spillNext s = none) : exec .spill s = .next s := by
  change execSpill s = _
  simp only [execSpill, idle]

/-- The copy as the spill writer lays it in HBM. -/
def spilled (s : State) (p : Packet) (x : Copy) : Copy := { x with place := 2, data := chainBytes s p.folios, addr := spillAddr s }

/-- The state when the spill writer has read a copy: HBM has been asked, the folios given up. -/
def spillRead (s : State) (p : Packet) : State :=
  dropRefs (requestRange { s with freeCtr := s.freeCtr + 1 } (spillAddr s) (chainBytes s p.folios).length) p.folios

theorem spillRead_eq (s : State) (p : Packet) : (spillRead s p).tm = s.tm ∧ (spillRead s p).pkts = s.pkts := by
  rw [spillRead, dropRefs_eq, requestRange_eq]
  exact ⟨rfl, rfl⟩

theorem spill_moves {key : Nat} {c : Copy} {p : Packet} (first : spillNext s = some (key, c)) (present : getPkt s c.pkt = some p) :
    exec .spill s = .next (setQueue (spillRead s p) key (modFirst (fun x => x.place = 1) (spilled s p) (getQueue s key))) := by
  have queue : getQueue (spillRead s p) key = getQueue s key := getQueue_congr (spillRead_eq s p).1 key
  rw [← queue]
  change execSpill s = _
  simp only [execSpill, first, present]
  rfl

variable {p : Fin 32} {q : Fin 16} {err : HbmErr} {c : Copy}

theorem deepRead_idle (idle : (getQueue s (qKey p.val q.val 0)).find? (fun c => c.place = 2) = none) :
    exec (.deepRead p q err) s = .next s := by
  change execDeepRead p q err s = _
  simp only [execDeepRead, idle]

variable (found : (getQueue s (qKey p.val q.val 0)).find? (fun c => c.place = 2) = some c)
include found

/-- The deep reader waits for its prefetch limit and for shared folios. -/
theorem deepRead_waits (busy : pget s pidTmDeepPrefetch < prefetched (getQueue s (qKey p.val q.val 0)) + c.len ∨
    sharedFolios s - s.buf.claim < (ceilDiv c.data.length folioData : Nat)) : exec (.deepRead p q err) s = .next s := by
  change execDeepRead p q err s = _
  simp only [execDeepRead, found]
  rcases busy with limit | folios
  · rw [if_pos limit]
  · rw [if_pos folios, ite_self]

variable (limit : prefetched (getQueue s (qKey p.val q.val 0)) + c.len ≤ pget s pidTmDeepPrefetch)
  (folios : (ceilDiv c.data.length folioData : Nat) ≤ sharedFolios s - s.buf.claim)
include limit folios

theorem deepRead_drops : exec (.deepRead p q .uncorrectable) s =
    .next (settlePanic (discardCopy (pinc (setQueue (readError (requestRange s c.addr c.data.length) .uncorrectable c.addr)
      (qKey p.val q.val 0) (dropFirst (· == c) (getQueue s (qKey p.val q.val 0)))) (pidTmQDeepEccDrop p.val q.val)) c)) := by
  change execDeepRead p q .uncorrectable s = _
  simp only [execDeepRead, found, if_neg (Nat.not_lt.mpr limit), if_neg (Int.not_lt.mpr folios), if_true]

theorem deepRead_fills (readable : err ≠ .uncorrectable) {v : State} {fs : List Nat}
    (written : writeFrame (readError (requestRange s c.addr c.data.length) err c.addr) 33 66 c.data = some (v, fs)) :
    exec (.deepRead p q err) s = .next (settlePanic (setQueue v (qKey p.val q.val 0)
      (modFirst (· == c) (fun x => { x with place := 3, data := [], own := fs }) (getQueue s (qKey p.val q.val 0))))) := by
  change execDeepRead p q err s = _
  simp only [execDeepRead, found, if_neg (Nat.not_lt.mpr limit), if_neg (Int.not_lt.mpr folios), if_neg readable, written]

end

end Sys2Proof.Machine
end

section
/-! Proofs about the selection of a copy, its start on a port and the egress editor (R329 to R332, R338, R345). -/

namespace Sys2Proof.Machine

/-! ### The selection of a copy (R329 to R332) -/

section
variable {s : State} {p : Fin 36} {h : Hf}

theorem dequeueSelect_busy (sending : (getPort s (portKey p.val (hIdx h))).tx.isSome = true)
    (whole : interruptible s p.val (getPort s (portKey p.val (hIdx h))) = false) : exec (.dequeueSelect p h) s = .next s := by
  change execDequeueSelect p h s = _
  simp only [execDequeueSelect, sending, whole]
  rfl

/-- No frame is interrupted on a port that sends none (R338). -/
theorem interruptible_free (s : State) (p : Nat) {x : PortState} (free : x.tx = none) : interruptible s p x = false := by
  simp only [interruptible, free]

variable (free : (getPort s (portKey p.val (hIdx h))).tx = none) (allowed : shaperOk s (shaperKey p.val 16) = true)
include free allowed

/-- A free port whose shaper allows a start selects a queue. -/
theorem dequeueSelect_selects {y : PortState} {r : Option Nat} (chosen : selectQueue s p.val (if p.val = 33 then hIdx h else 0)
      (getPort s (portKey p.val (hIdx h))).held.isSome = (y, r)) : exec (.dequeueSelect p h) s = .next (match r with
    | none => resumeHeld (modPort s (portKey p.val (hIdx h)) fun _ => y) (portKey p.val (hIdx h))
    | some q => startCopy s p.val (if p.val = 33 then hIdx h else 0) q y (getPort s (portKey p.val (hIdx h)))) := by
  change execDequeueSelect p h s = _
  simp only [execDequeueSelect, interruptible_free s p.val free, free, allowed, Bool.false_or, chosen]
  cases r <;> rfl

end

/-- The charge of a shaper changes the shapers only (R332). -/
theorem chargeShaper_eq (s : State) (key n : Nat) :
    chargeShaper s key n = { s with tm := { s.tm with shapers := (chargeShaper s key n).tm.shapers } } := by
  unfold chargeShaper
  dsimp only
  split <;> rfl

/-- The state when copy c has left its queue, of which the rest stays: its shapers are charged, the dequeue counted (R332). -/
def copyTaken (s : State) (p side q : Nat) (c : Copy) (rest : List Copy) : State :=
  pinc (chargeShaper (chargeShaper (setQueue s (qKey p q side) rest) (shaperKey p q) c.counted) (shaperKey p 16) c.counted)
    (pidTmQDequeued p q)

section
variable (s : State) (p side q : Nat) (c : Copy) (rest : List Copy)

theorem copyTaken_reads : let u := copyTaken s p side q c rest
    getQueue u (qKey p q side) = rest ∧ u.pkts = s.pkts ∧ u.buf = s.buf ∧ u.hbm = s.hbm := by
  have queue (u : State) (id key : Nat) : getQueue (pinc u id) key = getQueue u key := rfl
  have charged (u : State) (k n key : Nat) : getQueue (chargeShaper u k n) key = getQueue u key := by rw [chargeShaper_eq]; rfl
  refine ⟨?_, ?_⟩
  · rw [copyTaken, queue, charged, charged, getQueue_setQueue_same]
  · rw [copyTaken, chargeShaper_eq (chargeShaper _ _ _), chargeShaper_eq (setQueue _ _ _)]
    exact ⟨rfl, rfl, rfl⟩

variable {s p side q c rest} {y old : PortState} (head : getQueue s (qKey p q side) = c :: rest) (within : copyOver s c = false)
include head within

/-- On port 35 the copy goes to the capture writer's staging buffer (R384). -/
theorem startCopy_stages (capture : p = 35) : startCopy s p side q y old = settlePanic { modPort (copyTaken s p side q c rest) 35 fun _ => y with
    hbm := { (copyTaken s p side q c rest).hbm with staged := (copyTaken s p side q c rest).hbm.staged ++ [c] } } := by
  have still : copyOver (setQueue s (qKey p q side) rest) c = false := within
  subst capture
  simp only [startCopy, head, still, if_true]
  rfl

theorem startCopy_starts (line : p ≠ 35) (free : old.tx = none) : startCopy s p side q y old =
    modPort (copyTaken s p side q c rest) (portKey p side) fun _ =>
      { y with tx := some { copy := c, queue := q, egress := now (copyTaken s p side q c rest) } } := by
  have still : copyOver (setQueue s (qKey p q side) rest) c = false := within
  simp only [startCopy, head, still, if_neg line, free]
  rfl

/-- The port takes the head of the selected queue. -/
theorem startCopy_takes (free : old.tx = none) : let u := startCopy s p side q y old
    getQueue u (qKey p q side) = rest ∧ u.pkts = s.pkts ∧ u.buf = s.buf ∧ (p = 35 → u.hbm.staged = s.hbm.staged ++ [c]) ∧
      (p ≠ 35 → ∃ t, (getPort u (portKey p side)).tx = some t ∧ t.copy = c ∧ t.queue = q ∧ t.out = none) := by
  obtain ⟨queue, pkts, buf, hbm⟩ := copyTaken_reads s p side q c rest
  by_cases capture : p = 35
  · have stages := startCopy_stages (y := y) (old := old) head within capture
    generalize copyTaken s p side q c rest = v at queue pkts buf hbm stages
    dsimp only
    rw [stages]
    exact ⟨queue, pkts, buf, fun _ => by rw [← hbm]; rfl, fun line => absurd capture line⟩
  · have starts := startCopy_starts (y := y) head within capture free
    generalize copyTaken s p side q c rest = v at queue pkts buf hbm starts
    dsimp only
    rw [starts, getPort_modPort_same]
    exact ⟨queue, pkts, buf, fun line => absurd line capture, fun _ => ⟨_, rfl, rfl, rfl, rfl⟩⟩

end

/-- A port whose frame has ended goes on with the held one, unless a hold is in force (R338). -/
theorem resumeHeld_port (s : State) (key : Nat) : getPort (resumeHeld s key) key =
    if (getPort s key).hold || (getPort s key).tx.isSome then getPort s key
    else { getPort s key with tx := (getPort s key).held, held := none } := getPort_modPort_same ..

theorem resumeHeld_port_ne (s : State) {key j : Nat} (other : j ≠ key) : getPort (resumeHeld s key) j = getPort s j :=
  getPort_modPort_ne _ _ other

/-! ### The egress editor (R345) -/

section
variable (s : State)

theorem report_tm (src ty cls reporter a0 a1 a2 : Nat) : (report s src ty cls reporter a0 a1 a2).tm = s.tm := by
  have same := congrArg State.tm (report_unreported s src ty cls reporter a0 a1 a2)
  exact same

theorem editorReads_tm (port : Nat) (c : Copy) : (editorReads s port c).tm = s.tm := by
  unfold editorReads
  split
  · rfl
  · exact giveUp_tm ..

/-- The editor leaves the port without its copy, or with the bytes to send (R345). -/
theorem editCopy_port (port key : Nat) (t : TxCopy) (p : Packet) : (getPort (editCopy s port key t p) key).tx = none ∨
    ∃ x, (getPort (editCopy s port key t p) key).tx = some x ∧ x.copy = t.copy ∧ x.queue = t.queue ∧ x.out.isSome = true := by
  unfold editCopy
  dsimp only
  split
  · left
    rw [getPort_congr (discardCopy_tm ..), getPort_modPort_same]
  · right
    rw [getPort_congr (editorReads_tm ..), getPort_modPort_same]
    exact ⟨_, rfl, rfl, rfl, rfl⟩

variable {s} {p : Fin 36}

theorem egressEdit_idle (free : (getPort s (editKey s p.val)).tx = none) : exec (.egressEdit p) s = .next s := by
  change execEgressEdit p s = _
  simp only [execEgressEdit, free]

variable {t : TxCopy} (selected : (getPort s (editKey s p.val)).tx = some t)
include selected

theorem egressEdit_passes (done : t.out.isSome = true ∨ p.val = 35) : exec (.egressEdit p) s = .next s := by
  change execEgressEdit p s = _
  simp only [execEgressEdit, selected]
  exact if_pos (by simpa using done)

theorem egressEdit_edits (waits : t.out = none) (line : p.val ≠ 35) {k : Packet} (present : getPkt s t.copy.pkt = some k) :
    exec (.egressEdit p) s = .next (editCopy s p.val (editKey s p.val) t k) := by
  change execEgressEdit p s = _
  simp only [execEgressEdit, selected, waits, present, Option.isSome_none, Bool.false_or, decide_eq_true_eq, if_neg line]

end

end Sys2Proof.Machine
end

section
/-! Proofs about the end of a transmission, verification, gate entries and queue samples (R336 to R339, R347, R356). -/

namespace Sys2Proof.Machine

/-! ### The end of a transmission (R102, R338, R356) -/

/-- The stamp of a sent copy goes to its port's transmit stamps; queues, ports and packets stay (R356). -/
theorem txStampCopy_keeps (s : State) (port : Nat) (t : TxCopy) :
    (txStampCopy s port t).tm = s.tm ∧ (txStampCopy s port t).pkts = s.pkts := by
  have pushed (r : List Byte) : (pushTxStamp s port r).tm = s.tm ∧ (pushTxStamp s port r).pkts = s.pkts := by
    unfold pushTxStamp
    dsimp only
    split <;> exact ⟨rfl, rfl⟩
  unfold txStampCopy
  split
  · exact ⟨rfl, rfl⟩
  · split
    · exact pushed _
    · exact ⟨rfl, rfl⟩

/-- The last copy of a packet that has been released ends it (R383). -/
theorem closeCopy_ends {s : State} {c : Copy} {k : Packet} (present : getPkt s c.pkt = some k) (last : k.copies ≤ 1)
    (gone : k.stage = .released) : getPkt (closeCopy s c) c.pkt = none := by
  have still : getPkt (leaveTag s c.half c.tag) c.pkt = some k := present
  simp only [closeCopy, endCopy, still, last, gone, decide_true, Bool.and_self, if_true]
  rw [getPkt, dropPkt_pkts, sget_sset_same]

section
variable {s : State} {p : Fin 32}

theorem transmitComplete_idle (free : (getPort s p.val).tx = none) : exec (.transmitComplete p) s = .next s := by
  change execTransmitComplete p s = _
  simp only [execTransmitComplete, free]

variable {t : TxCopy} (sending : (getPort s p.val).tx = some t)
include sending

theorem transmitComplete_waits (waits : t.out = none ∨ s.flt.fatal = true) : exec (.transmitComplete p) s = .next s := by
  change execTransmitComplete p s = _
  simp only [execTransmitComplete, sending]
  exact if_pos (by simpa using waits)

theorem transmitComplete_ends (sent : t.out.isSome = true) (healthy : s.flt.fatal = false) : exec (.transmitComplete p) s =
    .next (resumeHeld (closeCopy (modPort (txStampCopy s p.val t) p.val fun x => { x with tx := none }) t.copy) p.val) := by
  have edited : t.out.isNone = false := by rw [← Option.not_isSome, sent]; rfl
  change execTransmitComplete p s = _
  simp only [execTransmitComplete, sending, edited, healthy, Bool.or_self, Bool.false_eq_true, if_false]

end

/-- What the end of a transmission leaves of the ports and of the packet. -/
theorem sent_reads (s : State) (p : Nat) (t : TxCopy) :
    let u := resumeHeld (closeCopy (modPort (txStampCopy s p t) p fun x => { x with tx := none }) t.copy) p
    (getPort u p).tx = (if (getPort s p).hold then none else (getPort s p).held) ∧
      (∀ k, getPkt s t.copy.pkt = some k → k.copies ≤ 1 → k.stage = .released → getPkt u t.copy.pkt = none) ∧
      ∀ q, q ≠ p → getPort u q = getPort s q := by
  obtain ⟨tm, pkts⟩ := txStampCopy_keeps s p t
  have own : getPort (closeCopy (modPort (txStampCopy s p t) p fun x => { x with tx := none }) t.copy) p =
      { getPort s p with tx := none } := by
    rw [getPort_congr (closeCopy_tm ..), getPort_modPort_same, getPort_congr tm]
  refine ⟨?_, fun k present last gone => ?_, fun q other => ?_⟩
  · rw [resumeHeld_port, own]
    cases (getPort s p).hold <;> rfl
  · refine closeCopy_ends (k := k) ?_ last gone
    rw [← present]
    exact congrArg (fun m => sget none m t.copy.pkt) pkts
  · rw [resumeHeld_port_ne _ other, getPort_congr (closeCopy_tm ..), getPort_modPort_ne _ _ other, getPort_congr tm]

/-! ### Verification, gate entries and samples (R336 to R339, R347) -/

section
variable {s : State} {p : Fin 32}

theorem preemptVerifyResult_off (ok : Bool) (off : preemptOn s p.val = false ∨ pget s (pidMacPortPreemptVerify p.val) = 0) :
    exec (.preemptVerifyResult p ok) s = .next s := by
  change execPreemptVerifyResult p ok s = _
  exact if_pos (by simpa using off)

/-- A verification ends as its result says; a failed one is reported. -/
theorem preemptVerifyResult_ends (ok : Bool) (on : preemptOn s p.val = true) (verifies : pget s (pidMacPortPreemptVerify p.val) ≠ 0) :
    ∃ u, exec (.preemptVerifyResult p ok) s = .next u ∧ (getPort u p.val).verify = (if ok then 1 else 2) ∧
      (ok = false → u.flt.total = satAdd 32 s.flt.total 1) ∧ ∀ q, q ≠ p.val → getPort u q = getPort s q := by
  have run : exec (.preemptVerifyResult p ok) s = execPreemptVerifyResult p ok s := rfl
  rw [run, execPreemptVerifyResult, if_neg (by simp [on, verifies])]
  cases ok with
  | true =>
    refine ⟨_, rfl, ?_, nofun, fun q => getPort_modPort_ne _ _⟩
    rw [getPort_modPort_same]
    rfl
  | false =>
    refine ⟨_, rfl, ?_, fun _ => report_total .., fun q other => ?_⟩
    · rw [getPort_congr (report_tm ..), getPort_congr (pinc_tm ..), getPort_modPort_same]
      rfl
    · rw [getPort_congr (report_tm ..), getPort_congr (pinc_tm ..), getPort_modPort_ne _ _ other]

end

/-- From s to u only port p has changed, whose list number stays. -/
def PortOnly (p : Nat) (s u : State) : Prop :=
  (getPort u p).gcl = (getPort s p).gcl ∧ u.tm.queues = s.tm.queues ∧ u.pkts = s.pkts ∧ ∀ q, q ≠ p → getPort u q = getPort s q

section
variable {s u v : State} {p : Nat}

theorem PortOnly.trans (first : PortOnly p s u) (second : PortOnly p u v) : PortOnly p s v := by
  obtain ⟨list, queues, pkts, ports⟩ := first
  obtain ⟨list', queues', pkts', ports'⟩ := second
  exact ⟨list'.trans list, queues'.trans queues, pkts'.trans pkts, fun q other => (ports' q other).trans (ports q other)⟩

variable (p s)

theorem portOnly_refl : PortOnly p s s := ⟨rfl, rfl, rfl, fun _ _ => rfl⟩

theorem portOnly_pinc (id : Nat) : PortOnly p s (pinc s id) := ⟨rfl, rfl, rfl, fun _ _ => rfl⟩

theorem portOnly_modPort {f : PortState → PortState} (kept : ∀ x, (f x).gcl = x.gcl) : PortOnly p s (modPort s p f) :=
  ⟨by rw [getPort_modPort_same, kept], rfl, rfl, fun _ => getPort_modPort_ne _ _⟩

theorem portOnly_ite (b : Prop) [Decidable b] (left : PortOnly p s u) (right : PortOnly p s v) :
    PortOnly p s (if b then u else v) := by
  split
  · exact left
  · exact right

theorem portOnly_resumeHeld : PortOnly p s (resumeHeld s p) := portOnly_modPort s p fun x => by split <;> rfl

theorem portOnly_holdFrame : PortOnly p s (holdFrame s p) := by
  unfold holdFrame
  dsimp only
  split
  · split
    · refine .trans ?_ (portOnly_modPort _ p fun _ => rfl)
      split
      · exact portOnly_pinc s p _
      · exact portOnly_refl s p
    · exact portOnly_refl s p
  · exact portOnly_refl s p

end

/-- The port whose list has moved to the one in force (R337). -/
def listMoved (s : State) (p : Nat) : State :=
  modPort s p fun x => { x with gcl := portGcl s p, gclNext := if portGcl s p = x.gcl then x.gclNext else none }

theorem gateEntryChange_moves (s : State) (p : Fin 32) :
    ∃ u, exec (.gateEntryChange p) s = .next u ∧ PortOnly p.val (listMoved s p.val) u := by
  have entered (v : State) (b : Prop) [Decidable b] (id i : Nat) (hold : Bool) : PortOnly p.val v
      (modPort (if b then pinc v id else v) p.val fun x => { x with gateIdx := i, hold := hold }) := by
    refine .trans ?_ (portOnly_modPort _ p.val fun _ => rfl)
    split
    · exact portOnly_pinc v p.val id
    · exact portOnly_refl v p.val
  have run : exec (.gateEntryChange p) s = execGateEntryChange p s := rfl
  rw [run, execGateEntryChange]
  dsimp only
  split
  · refine ⟨_, rfl, .trans ?_ (portOnly_resumeHeld _ _)⟩
    exact portOnly_modPort _ _ fun _ => rfl
  · refine ⟨_, rfl, ?_⟩
    refine portOnly_ite _ _ _ (.trans ?_ (portOnly_holdFrame _ _)) (.trans ?_ (portOnly_resumeHeld _ _))
    · exact entered ..
    · exact entered ..

/-- A sample of a queue moves its figures only (R347). -/
theorem stnPar_sampleQueue {s u : State} (figures : StnPar s u) (p q : Nat) : StnPar s (sampleQueue u p q) := by
  have least {v : State} (figures : StnPar s v) (id n : Nat) : StnPar s (keepMin v id n) := by
    unfold keepMin
    split
    · exact stnPar_pset figures _ _
    · exact figures
  have depth (n : Nat) : StnPar s (pmax (keepMin (pset u (pidTmQDepthLast p q) n) (pidTmQDepthMin p q) n) (pidTmQDepthMax p q) n) :=
    stnPar_pmax (least (stnPar_pset figures _ _) _ _) _ _
  unfold sampleQueue
  dsimp only
  split
  · exact depth _
  · exact stnPar_pset (stnPar_pmax (least (stnPar_pset (depth _) _ _) _ _) _ _) _ _

section
variable {s : State}

theorem queueSample_done (done : now s / (1000 * 2 ^ 32) = s.tm.samples) : exec .queueSample s = .next s := if_pos done

theorem queueSample_samples (fresh : now s / (1000 * 2 ^ 32) ≠ s.tm.samples) : ∃ u, exec .queueSample s = .next u ∧
    u.tm.samples = now s / (1000 * 2 ^ 32) ∧ u.tm.queues = s.tm.queues ∧ u.pkts = s.pkts := by
  refine ⟨_, if_neg fresh, ?_⟩
  have sampled (v : State) : StnPar v ((List.range 36).foldl (fun u p => (List.range 16).foldl (fun u q => sampleQueue u p q) u) v) :=
    List.foldlRecOn _ _ (stnPar_refl v) fun u ports p _ =>
      List.foldlRecOn _ _ ports fun u queues q _ => stnPar_sampleQueue queues p q
  rw [sampled]
  exact ⟨rfl, rfl, rfl⟩

end

end Sys2Proof.Machine
end

section
/-! Proofs about the internal ports: host receive rings, the Registrar's port and host transmit rings (R291, R396, R404, R416, R417). -/

namespace Sys2Proof.Machine

/-! ### Packet rings (R404, R416, R417) -/

/-- The messages of ATTN_PENDING leave the packet rings. -/
theorem settleAttn_packetRings (s : State) : ((settleAttn s).host.rxRings, (settleAttn s).host.txRings) =
    (s.host.rxRings, s.host.txRings) := by
  unfold settleAttn
  exact foldl_keeps (fun u : State => (u.host.rxRings, u.host.txRings))
    (f := fun u b => if (attnPending s &&& ~~~ s.host.attnSeen).getLsbD b then sendMsix u b else u)
    (fun u b => by split <;> rfl) (List.range 12) s

theorem settleAttn_tm (s : State) : (settleAttn s).tm = s.tm := by rw [settleAttn_eq]

theorem getRx_congr {s u : State} (same : u.host.rxRings = s.host.rxRings) (q : Nat) : getRx u q = getRx s q := by
  rw [getRx, same, getRx]

theorem getTx_congr {s u : State} (same : u.host.txRings = s.host.txRings) (n : Nat) : getTx u n = getTx s n := by
  rw [getTx, same, getTx]

theorem stopRx_reads (s : State) (q : Nat) : (getRx (stopRx s q) q).stopped = true ∧ (stopRx s q).tm = s.tm := by
  refine ⟨?_, settleAttn_tm _⟩
  rw [stopRx, getRx_congr (congrArg (·.1) (settleAttn_packetRings _)), getRx, sget_smod_same]

theorem stopTx_reads (s : State) (n : Nat) : (getTx (stopTx s n) n).stopped = true ∧ (stopTx s n).pkts = s.pkts := by
  refine ⟨?_, by rw [stopTx, settleAttn_eq]⟩
  rw [stopTx, getTx_congr (congrArg (·.2) (settleAttn_packetRings _)), getTx, sget_smod_same]

/-! ### Host receive rings (R396, R417) -/

/-- Each fragment of a frame fills one descriptor. -/
theorem fillRing_descs_length (n : Nat) (p : Packet) (c : Copy) (total : Nat) (frags : List (List Byte)) (r : RxRing) :
    (fillRing n p c total frags r).descs.length = r.descs.length + frags.length := by
  induction frags generalizing r with
  | nil => rfl
  | cons f rest ih =>
    rw [fillRing, ih]
    simp only [fillRx, List.length_append, List.length_cons, List.length_nil]
    omega

/-- The ring of a queue when a frame has filled its descriptors. -/
def filledRing (s : State) (q : Nat) (p : Packet) (c : Copy) (data : List Byte) : RxRing :=
  fillRing (pget s (pidHostRxringEntries q)) p c data.length (pieces (pget s (pidHostRxringBufLen q)) data) (getRx s q)

/-- The state v when the ring of a queue has been filled for a frame that arrived at s. -/
def ringFilled (s v : State) (q : Nat) (p : Packet) (c : Copy) (data : List Byte) : State :=
  { v with host := { v.host with rxRings := sset {} v.host.rxRings q (filledRing s q p c data) } }

theorem storeFrags_keeps (s : State) (xs : List ((Nat × Nat) × (List Byte × List Byte))) :
    ((storeFrags s xs).tm, (storeFrags s xs).host) = (s.tm, s.host) :=
  foldl_keeps (fun u => (u.tm, u.host)) (fun u x => by rw [writeHdm_eq, writeHdm_eq]) xs s

section
variable {s : State} {q : Nat} {p : Packet} {c : Copy} {data : List Byte}

/-- A frame that finds its places goes to its ring; queues and ports stay. -/
theorem rxDeliver_fills (reached : s.host.cxl = true ∨
      (rxPlaces s q (pieces (pget s (pidHostRxringBufLen q)) data).length).isSome = true) :
    ∃ v, rxDeliver s q p c data = some v ∧ v.tm = s.tm ∧ v.host.rxRings = sset {} s.host.rxRings q (filledRing s q p c data) := by
  have filled (v : State) (kept : (v.tm, v.host) = (s.tm, s.host)) : (ringFilled s v q p c data).tm = s.tm ∧
      (ringFilled s v q p c data).host.rxRings = sset {} s.host.rxRings q (filledRing s q p c data) := by
    obtain ⟨tm, host⟩ := Prod.mk.inj kept
    exact ⟨tm, by rw [← host]; rfl⟩
  by_cases link : s.host.cxl = true
  · have delivers : rxDeliver s q p c data = some (ringFilled s s q p c data) := if_pos link
    exact ⟨_, delivers, filled s rfl⟩
  · obtain ⟨ps, places⟩ := Option.isSome_iff_exists.mp (reached.resolve_left link)
    have delivers : rxDeliver s q p c data = some (ringFilled s (storeFrags s (ps.zip
        ((filledRing s q p c data).descs.drop (getRx s q).descs.length))) q p c data) := by
      simp only [rxDeliver, if_neg link, places]
      rfl
    exact ⟨_, delivers, filled _ (storeFrags_keeps ..)⟩

/-- Over PCIe a frame whose places lie outside the host region goes nowhere (R396). -/
theorem rxDeliver_stops (pcie : s.host.cxl = false) (outside : rxPlaces s q (pieces (pget s (pidHostRxringBufLen q)) data).length = none) :
    rxDeliver s q p c data = none := by
  simp [rxDeliver, pcie, outside]

end

section
variable {s : State}

theorem hostRxDeliver_idle (free : (getPort s 32).tx = none) : exec .hostRxDeliver s = .next s := by
  change execHostRxDeliver s = _
  simp only [execHostRxDeliver, free]

variable {t : TxCopy} {bytes : List Byte} {p : Packet} (selected : (getPort s 32).tx = some t) (edited : t.out = some bytes)
  (present : getPkt s t.copy.pkt = some p)
include selected edited present

theorem hostRxDeliver_waits (full : rxRoom s t.queue (bytes.take (bytes.length - 4)).length = false) :
    exec .hostRxDeliver s = .next s := by
  change execHostRxDeliver s = _
  simp only [execHostRxDeliver, selected, edited, present, full]
  rfl

variable (room : rxRoom s t.queue (bytes.take (bytes.length - 4)).length = true)
include room

theorem hostRxDeliver_delivers {v : State} (delivered : rxDeliver s t.queue p t.copy (bytes.take (bytes.length - 4)) = some v) :
    exec .hostRxDeliver s =
      .next (settleAttn (closeCopy (giveUp (modPort v 32 fun x => { x with tx := none }) t.copy) t.copy)) := by
  change execHostRxDeliver s = _
  simp only [execHostRxDeliver, selected, edited, present, room, delivered]
  rfl

theorem hostRxDeliver_stops (undelivered : rxDeliver s t.queue p t.copy (bytes.take (bytes.length - 4)) = none) :
    exec .hostRxDeliver s = .next (stopRx s t.queue) := by
  change execHostRxDeliver s = _
  simp only [execHostRxDeliver, selected, edited, present, room, undelivered]
  rfl

/-- A delivered frame frees port 32 and fills its ring; the other rings stay. -/
theorem hostRxDeliver_fills (reached : s.host.cxl = true ∨ (rxPlaces s t.queue
      (pieces (pget s (pidHostRxringBufLen t.queue)) (bytes.take (bytes.length - 4))).length).isSome = true) :
    ∃ u, exec .hostRxDeliver s = .next u ∧ (getPort u 32).tx = none ∧ (getRx u t.queue).descs.length =
      (getRx s t.queue).descs.length + (pieces (pget s (pidHostRxringBufLen t.queue)) (bytes.take (bytes.length - 4))).length ∧
      ∀ q, q ≠ t.queue → getRx u q = getRx s q := by
  obtain ⟨v, delivered, -, rings⟩ := rxDeliver_fills (p := p) (c := t.copy) reached
  have kept : (settleAttn (closeCopy (giveUp (modPort v 32 fun x => { x with tx := none }) t.copy) t.copy)).host.rxRings =
      sset {} s.host.rxRings t.queue (filledRing s t.queue p t.copy (bytes.take (bytes.length - 4))) := by
    have settled := congrArg (·.1) (settleAttn_packetRings (closeCopy (giveUp (modPort v 32 fun x => { x with tx := none }) t.copy) t.copy))
    dsimp only at settled
    rw [settled, closeCopy_host, giveUp_host, ← rings]
    rfl
  refine ⟨_, hostRxDeliver_delivers selected edited present room delivered, ?_, ?_, fun q other => ?_⟩
  · have ports : (settleAttn (closeCopy (giveUp (modPort v 32 fun x => { x with tx := none }) t.copy) t.copy)).tm =
        (modPort v 32 fun x => { x with tx := none }).tm := by rw [settleAttn_tm, closeCopy_tm, giveUp_tm]
    rw [getPort_congr ports, getPort_modPort_same]
  · rw [getRx, kept, sget_sset_same]
    exact fillRing_descs_length ..
  · rw [getRx, kept, sget_sset_ne _ _ _ _ other, getRx]

end

/-! ### The Registrar's port (R291, R359) -/

/-- The parts of the device that the Registrar's work on a frame keeps. -/
def portsStationsPackets (s : State) : TM × Sparse Station × Sparse (Option Packet) := (s.tm, s.stn, s.pkts)

theorem peerEvent_keeps (s : State) (h stamp : Nat) (r : List Byte) :
    portsStationsPackets (peerEvent s h stamp r) = portsStationsPackets s := by
  have submitted (u : State) (key : List Byte) (q : Nat) (k : LearnKind) :
      portsStationsPackets (submitEv u h key q stamp k) = portsStationsPackets u := by
    unfold submitEv
    dsimp only
    split
    · rfl
    · split <;> rfl
  unfold peerEvent
  dsimp only
  generalize (if leAt r 8 1 < 64 then pget s (pidTblPeerPortMap (leAt r 8 1)) else 0x3F) = q
  split
  · rfl
  · exact submitted ..

theorem takeDelay_keeps (s : State) (p : Packet) : portsStationsPackets (takeDelay s p) = portsStationsPackets s := by
  unfold takeDelay
  dsimp only
  split <;> rfl

/-- The state when the Registrar has taken the frame of port 34 (R291, R359). -/
def registrarTook (s : State) (p : Packet) (bytes : List Byte) : State :=
  takeDelay ((learnRecords p bytes).foldl (fun s r => peerEvent s (hIdx p.half) (p.get fStamp) r)
    (modPort s 34 fun x => { x with tx := none })) p

theorem registrarTook_keeps (s : State) (p : Packet) (bytes : List Byte) : portsStationsPackets (registrarTook s p bytes) =
    portsStationsPackets (modPort s 34 fun x => { x with tx := none }) :=
  (takeDelay_keeps _ p).trans (foldl_keeps portsStationsPackets (fun u _ => peerEvent_keeps u ..) _ _)

section
variable {s : State}

theorem registrarRxDeliver_idle (free : (getPort s 34).tx = none) : exec .registrarRxDeliver s = .next s := by
  change execRegistrarRxDeliver s = _
  simp only [execRegistrarRxDeliver, free]

/-- Port 34 is free when its frame has been taken; only the record of a trapped packet touches a station (R131). -/
theorem registrarRxDeliver_takes {t : TxCopy} {bytes : List Byte} {p : Packet} (selected : (getPort s 34).tx = some t)
    (edited : t.out = some bytes) (present : getPkt s t.copy.pkt = some p) :
    ∃ u, exec .registrarRxDeliver s = .next u ∧ (getPort u 34).tx = none ∧ (p.trap = none → u.stn = s.stn) := by
  have run : exec .registrarRxDeliver s = .next (closeCopy (registrarTook s p bytes) t.copy) := by
    change execRegistrarRxDeliver s = _
    simp only [execRegistrarRxDeliver, selected, edited, present]
    rfl
  have kept := registrarTook_keeps s p bytes
  refine ⟨_, run, ?_, fun clean => ?_⟩
  · have ports := (closeCopy_tm (registrarTook s p bytes) t.copy).trans (congrArg (·.1) kept)
    rw [getPort_congr ports, getPort_modPort_same]
  · have pkts : (registrarTook s p bytes).pkts = s.pkts := congrArg (·.2.2) kept
    refine ((moves_closeCopy (registrarTook s p bytes) (c := t.copy) rfl).quiet fun q read => ?_).2.trans (congrArg (·.2.1) kept)
    rw [getPkt, pkts] at read
    cases present.symm.trans read
    exact clean

end

/-! ### Host transmit rings (R396, R416) -/

/-- What the consumption of a descriptor leaves: the ring last fetched, its index, the packets. -/
theorem consumeTx_reads (s : State) (n : Nat) : (consumeTx s n).host.lastTx = n ∧ (consumeTx s n).pkts = s.pkts ∧
    (getTx (consumeTx s n) n).cons = ((getTx s n).cons + 1) % pget s (pidHostTxringEntries n) := by
  refine ⟨rfl, rfl, ?_⟩
  rw [getTx, consumeTx, sget_smod_same]
  rfl

section
variable {s : State} {n : Fin 4} {desc data d b : List Byte}

theorem hostTxFetch_waits (other : roundRobin 4 s.host.lastTx (txReady s) ≠ some n.val) :
    exec (.hostTxFetch n desc data) s = .next s := by
  change execHostTxFetch n desc data s = _
  rw [execHostTxFetch, if_pos (by simpa using other)]

variable (turn : roundRobin 4 s.host.lastTx (txReady s) = some n.val)
include turn

theorem hostTxFetch_stops (pcie : s.host.cxl = false) (outside : txFetchPcie s n.val = none) :
    exec (.hostTxFetch n desc data) s = .next (stopTx s n.val) := by
  change execHostTxFetch n desc data s = _
  simp [execHostTxFetch, turn, pcie, outside]

/-- A descriptor and its frame arrive by either link. -/
theorem hostTxFetch_takes (arrived : (s.host.cxl = true ∧ d = desc ∧ b = data) ∨
    (s.host.cxl = false ∧ txFetchPcie s n.val = some (d, b))) : exec (.hostTxFetch n desc data) s = .next (txTake s n.val d b) := by
  change execHostTxFetch n desc data s = _
  rcases arrived with ⟨link, rfl, rfl⟩ | ⟨link, fetched⟩
  · simp [execHostTxFetch, turn, link]
  · simp [execHostTxFetch, turn, link, fetched]

end

/-- The queues of the parsers take a packet without the host's side and the parameters. -/
theorem queueParser_keeps (s : State) (i : Nat) (p : Packet) : (queueParser s i p).host = s.host ∧ (queueParser s i p).par = s.par := by
  unfold queueParser modHalf
  dsimp only
  split <;> exact ⟨rfl, rfl⟩

/-- The packet of the frame b that the host's descriptor d sends, at the state v that holds its folios fs (R416). -/
def sentPacket (v : State) (d b : List Byte) (fs : List Nat) : Packet :=
  newPacket (hfOf (leAt d 10 1)) 32 (sealFrame (fitBytes b (leAt d 8 2))) fs (now v)

section
variable {s : State} {n : Nat} {d b : List Byte}

theorem txTake_bad (bad : leAt d 8 2 < 60 ∨ 9212 < leAt d 8 2 ∨ 1 < leAt d 10 1 ∨ zeros d 11 5 = false) :
    txTake s n d b = pinc (consumeTx s n) (pidHostTxringBad n) :=
  if_pos (by simpa [or_assoc] using bad)

variable (least : 60 ≤ leAt d 8 2) (most : leAt d 8 2 ≤ 9212) (half : leAt d 10 1 ≤ 1) (reserved : zeros d 11 5 = true)
include least most half reserved

theorem txTake_good : txTake s n d b = match enterPort s (hfOf (leAt d 10 1)) 32 (sealFrame (fitBytes b (leAt d 8 2))) with
    | none => s
    | some s => consumeTx s n :=
  if_neg (by simp [Nat.not_lt.mpr least, Nat.not_lt.mpr most, Nat.not_lt.mpr half, reserved])

theorem txTake_waits (full : writeFrame s 32 65 (sealFrame (fitBytes b (leAt d 8 2))) = none) : txTake s n d b = s := by
  rw [txTake_good least most half reserved, enterPort, full]

theorem txTake_enters {v : State} {fs : List Nat} (written : writeFrame s 32 65 (sealFrame (fitBytes b (leAt d 8 2))) = some (v, fs)) :
    let u := txTake s n d b
    ∃ q, u.host.lastTx = n ∧ getPkt u (fs.headD 0) = some q ∧ q.folios = fs ∧ q.half = hfOf (leAt d 10 1) ∧
      (getTx u n).cons = ((getTx s n).cons + 1) % pget s (pidHostTxringEntries n) := by
  have enters : txTake s n d b = consumeTx (queueParser v (fs.headD 0) (sentPacket v d b fs)) n := by
    rw [txTake_good least most half reserved, enterPort, written]
    rfl
  obtain ⟨host, par⟩ := queueParser_keeps v (fs.headD 0) (sentPacket v d b fs)
  have stays : v.host = s.host ∧ v.par = s.par := by rw [writeFrame_eq written]; exact ⟨rfl, rfl⟩
  rw [stays.1] at host
  rw [stays.2] at par
  have queued := queueParser_getPkt v (fs.headD 0) (sentPacket v d b fs)
  rw [enters]
  generalize queueParser v (fs.headD 0) (sentPacket v d b fs) = w at host par queued
  obtain ⟨last, -, cons⟩ := consumeTx_reads w n
  have entered : getPkt (consumeTx w n) (fs.headD 0) = some { sentPacket v d b fs with stage := .received, arrived := v.clk } := queued
  exact ⟨_, last, entered, rfl, rfl, by rw [cons, getTx, host, pget, par, getTx, pget]⟩

end

end Sys2Proof.Machine
end

section
/-! Release and egress as one obligation: the last readings of its forms, and their assembly. -/

namespace Sys2Proof.Machine

section
variable {s : State}

/-- A recirculated frame waits in the parser of its half. -/
theorem recirculate_enters {h : Hf} {t : TxCopy} {bytes : List Byte} {p : Packet}
    (selected : (getPort s (portKey 33 (hIdx h))).tx = some t) (edited : t.out = some bytes) (present : getPkt s t.copy.pkt = some p)
    {v : State} {fs : List Nat}
    (written : writeFrame (modPort s (portKey 33 (hIdx h)) fun x => { x with tx := none }) 33 65 bytes = some (v, fs)) :
    ∃ u q, exec (.recirculate h) s = .next u ∧ getPkt u (fs.headD 0) = some q ∧ q.stage = .received ∧ q.half = p.half ∧
      q.folios = fs ∧ fs.headD 0 ∈ (getHalf u p.half).rxQ :=
  ⟨_, _, recirculate_queues selected edited present written, queueParser_getPkt .., rfl, rfl, rfl, queueParser_rxQ _ _ (nextPass v p bytes fs)⟩

/-- A copy that cannot be read back leaves its queue, and the error is reported (R341). -/
theorem deepRead_loses {p : Fin 32} {q : Fin 16} {c : Copy}
    (found : (getQueue s (qKey p.val q.val 0)).find? (fun c => c.place = 2) = some c)
    (limit : prefetched (getQueue s (qKey p.val q.val 0)) + c.len ≤ pget s pidTmDeepPrefetch)
    (folios : (ceilDiv c.data.length folioData : Nat) ≤ sharedFolios s - s.buf.claim) :
    ∃ u, exec (.deepRead p q .uncorrectable) s = .next u ∧
      getQueue u (qKey p.val q.val 0) = dropFirst (· == c) (getQueue s (qKey p.val q.val 0)) ∧ u.flt.total = satAdd 32 s.flt.total 1 := by
  have settled (v : State) (key : Nat) : getQueue (settlePanic v) key = getQueue v key := rfl
  have counted (v : State) (id key : Nat) : getQueue (pinc v id) key = getQueue v key := rfl
  have total : (readError (requestRange s c.addr c.data.length) .uncorrectable c.addr).flt.total = satAdd 32 s.flt.total 1 := by
    refine (report_total ..).trans ?_
    rw [requestRange_eq]
    rfl
  generalize reads : readError (requestRange s c.addr c.data.length) .uncorrectable c.addr = v at total
  refine ⟨_, deepRead_drops found limit folios, ?_, ?_⟩
  · rw [settled, getQueue_congr (discardCopy_tm ..), counted, getQueue_setQueue_same]
  · have kept (w : State) : (settlePanic (discardCopy w c)).flt = w.flt := discardCopy_flt w c
    rw [kept, reads]
    exact total

/-- A copy read back waits in its queue with folios of its own. -/
theorem deepRead_returns {p : Fin 32} {q : Fin 16} {err : HbmErr} {c : Copy}
    (found : (getQueue s (qKey p.val q.val 0)).find? (fun c => c.place = 2) = some c)
    (limit : prefetched (getQueue s (qKey p.val q.val 0)) + c.len ≤ pget s pidTmDeepPrefetch)
    (folios : (ceilDiv c.data.length folioData : Nat) ≤ sharedFolios s - s.buf.claim) (readable : err ≠ .uncorrectable)
    {v : State} {fs : List Nat}
    (written : writeFrame (readError (requestRange s c.addr c.data.length) err c.addr) 33 66 c.data = some (v, fs)) :
    ∃ u, exec (.deepRead p q err) s = .next u ∧ u.buf = v.buf ∧ getQueue u (qKey p.val q.val 0) =
      modFirst (· == c) (fun x => { x with place := 3, data := [], own := fs }) (getQueue s (qKey p.val q.val 0)) := by
  have settled (v : State) (key : Nat) : getQueue (settlePanic v) key = getQueue v key := rfl
  exact ⟨_, deepRead_fills found limit folios readable written, rfl, by rw [settled, getQueue_setQueue_same]⟩

/-- Only port 33 tells its halves apart. -/
theorem portKey_side (p h : Nat) : portKey p (if p = 33 then h else 0) = portKey p h := by
  by_cases recirculates : p = 33
  · rw [if_pos recirculates]
  · simp [portKey, recirculates]

/-- A free port whose selection finds no queue goes on with its held frame. -/
theorem dequeueSelect_resumes {p : Fin 36} {h : Hf} {y : PortState} (free : (getPort s (portKey p.val (hIdx h))).tx = none)
    (allowed : shaperOk s (shaperKey p.val 16) = true) (chosen : selectQueue s p.val (if p.val = 33 then hIdx h else 0)
      (getPort s (portKey p.val (hIdx h))).held.isSome = (y, none)) :
    ∃ u, exec (.dequeueSelect p h) s = .next u ∧ getPort u (portKey p.val (hIdx h)) =
      (if y.hold || y.tx.isSome then y else { y with tx := y.held, held := none }) ∧ u.tm.queues = s.tm.queues := by
  refine ⟨_, dequeueSelect_selects free allowed chosen, ?_, rfl⟩
  dsimp only
  rw [resumeHeld_port, getPort_modPort_same]

/-- A free port whose selection finds a queue takes its head. -/
theorem dequeueSelect_takes {p : Fin 36} {h : Hf} {y : PortState} {q : Nat} {c : Copy} {rest : List Copy}
    (free : (getPort s (portKey p.val (hIdx h))).tx = none) (allowed : shaperOk s (shaperKey p.val 16) = true)
    (chosen : selectQueue s p.val (if p.val = 33 then hIdx h else 0) (getPort s (portKey p.val (hIdx h))).held.isSome = (y, some q))
    (head : getQueue s (qKey p.val q (if p.val = 33 then hIdx h else 0)) = c :: rest) (within : copyOver s c = false) :
    ∃ u, exec (.dequeueSelect p h) s = .next u ∧ getQueue u (qKey p.val q (if p.val = 33 then hIdx h else 0)) = rest ∧
      u.pkts = s.pkts ∧ u.buf = s.buf ∧ (p.val = 35 → u.hbm.staged = s.hbm.staged ++ [c]) ∧
      (p.val ≠ 35 → ∃ t, (getPort u (portKey p.val (hIdx h))).tx = some t ∧ t.copy = c ∧ t.queue = q ∧ t.out = none) := by
  have taken := startCopy_takes (y := y) head within free
  rw [portKey_side] at taken
  exact ⟨_, dequeueSelect_selects free allowed chosen, taken⟩

theorem egressEdit_leaves {p : Fin 36} {t : TxCopy} (selected : (getPort s (editKey s p.val)).tx = some t) (waits : t.out = none)
    (line : p.val ≠ 35) {k : Packet} (present : getPkt s t.copy.pkt = some k) : ∃ u, exec (.egressEdit p) s = .next u ∧
      ((getPort u (editKey s p.val)).tx = none ∨ ∃ x, (getPort u (editKey s p.val)).tx = some x ∧ x.copy = t.copy ∧
        x.queue = t.queue ∧ x.out.isSome = true) :=
  ⟨_, egressEdit_edits selected waits line present, editCopy_port ..⟩

theorem gateEntryChange_reads (s : State) (p : Fin 32) : ∃ u, exec (.gateEntryChange p) s = .next u ∧
    (getPort u p.val).gcl = portGcl s p.val ∧ u.tm.queues = s.tm.queues ∧ u.pkts = s.pkts ∧
    ∀ q, q ≠ p.val → getPort u q = getPort s q := by
  obtain ⟨u, run, list, queues, pkts, ports⟩ := gateEntryChange_moves s p
  refine ⟨u, run, ?_, queues, pkts, fun q other => (ports q other).trans (getPort_modPort_ne _ _ other)⟩
  rw [list, listMoved, getPort_modPort_same]

/-- A refill touches the bank's own folio cache (R313). -/
theorem folioCacheRefill_refills (s : State) (b : Fin 16) : ∃ u, exec (.folioCacheRefill b) s = .next u ∧
    sget {} u.buf.banks b.val = bankRefill (sget {} s.buf.banks b.val) ∧
    ∀ j, j ≠ b.val → sget {} u.buf.banks j = sget {} s.buf.banks j :=
  ⟨_, rfl, sget_smod_same .., fun _ other => sget_smod_ne _ _ _ other⟩

end

/-- Settles O52, form by form from the readings of each above. -/
theorem releaseAndEgress : Obligations.ReleaseAndEgress := by
  intro s
  refine ⟨fun h => ⟨passComplete_waits, fun i => passComplete_checks, release_waits s, fun i p => release_takes, ?recirculate,
      recirculate_idle⟩,
    spill_idle, ?spill, fun p q err => ⟨deepRead_idle, ?deepRead⟩, fun p h => ⟨dequeueSelect_busy, ?dequeue⟩,
    fun p => ⟨egressEdit_idle, ?edit⟩, fun p => ⟨transmitComplete_idle, ?transmit, ?verify, gateEntryChange_reads s p⟩,
    hostRxDeliver_idle, ?hostRx, registrarRxDeliver_idle, fun t bytes p => registrarRxDeliver_takes, ?hostTx,
    folioCacheRefill_refills s, queueSample_done, queueSample_samples⟩
  case recirculate =>
    intro t selected
    exact ⟨recirculate_waits selected, fun bytes p edited present =>
      ⟨recirculate_frees selected edited present, fun v fs => recirculate_enters selected edited present⟩⟩
  case spill =>
    intro key c p first present
    obtain ⟨tm, pkts⟩ := spillRead_eq s p
    exact ⟨_, spill_moves first present, getQueue_setQueue_same .., fun j other =>
      (getQueue_setQueue_ne _ _ other).trans (getQueue_congr tm j), pkts⟩
  case deepRead =>
    intro c found
    refine ⟨fun limit => deepRead_waits found (.inl limit), fun folios => deepRead_waits found (.inr folios), fun limit folios =>
      ⟨?_, fun readable v fs => deepRead_returns found limit folios readable⟩⟩
    rintro rfl
    exact deepRead_loses found limit folios
  case dequeue =>
    intro free allowed
    exact ⟨fun y => dequeueSelect_resumes free allowed, fun y q c rest => dequeueSelect_takes free allowed⟩
  case edit =>
    intro t selected
    exact ⟨egressEdit_passes selected, fun waits line k => egressEdit_leaves selected waits line⟩
  case transmit =>
    intro t sending
    exact ⟨transmitComplete_waits sending, fun sent healthy => ⟨_, transmitComplete_ends sending sent healthy, sent_reads ..⟩⟩
  case verify =>
    intro ok
    exact ⟨preemptVerifyResult_off ok, preemptVerifyResult_ends ok⟩
  case hostRx =>
    intro t bytes p selected edited present
    refine ⟨hostRxDeliver_waits selected edited present, fun room => ⟨hostRxDeliver_fills selected edited present room,
      fun pcie outside => ?_⟩⟩
    obtain ⟨stopped, tm⟩ := stopRx_reads s t.queue
    exact ⟨_, hostRxDeliver_stops selected edited present room (rxDeliver_stops pcie outside), stopped, getPort_congr tm 32⟩
  case hostTx =>
    intro n desc data
    refine ⟨hostTxFetch_waits, fun turn pcie outside => ⟨_, hostTxFetch_stops turn pcie outside, stopTx_reads s n.val⟩,
      fun turn d b arrived => ⟨fun bad => ?_, fun least most half reserved => ?_⟩⟩
    all_goals rw [hostTxFetch_takes turn arrived]
    · rw [txTake_bad bad]
      obtain ⟨last, pkts, cons⟩ := consumeTx_reads s n.val
      exact ⟨_, rfl, last, pkts, cons⟩
    · refine ⟨fun full => congrArg Host.Outcome.next (txTake_waits least most half reserved full), fun v fs written => ?_⟩
      obtain ⟨q, reads⟩ := txTake_enters least most half reserved written
      exact ⟨_, q, rfl, reads⟩

end Sys2Proof.Machine
end

section
/-! Proofs about the lock bank: a write of a lock word in each form of R256, and the access to it by any master (R253 to R258). -/

namespace Sys2Proof.Machine

variable {s : State} {m w : Nat}

/-! ### Lock words and held-lock lists (R253, R258) -/

@[simp] theorem lockWord_setLock_same (s : State) (w : Nat) (v : BitVec 16) : lockWord (setLock s w v) w = v := sget_sset_same ..

theorem lockWord_setLock_ne (s : State) {w x : Nat} (v : BitVec 16) (other : x ≠ w) : lockWord (setLock s w v) x = lockWord s x :=
  sget_sset_ne _ _ _ _ other

theorem lockOwns_of_free (free : lockHeld (lockWord s w) = false) : lockOwns s m w = false := by simp [lockOwns, free]

theorem lockOwns_of_other (other : lockOwner (lockWord s w) ≠ m) : lockOwns s m w = false := by simp [lockOwns, other]

/-- The state once master `m` holds word `w` for a task (R256, R258). -/
def lockTakenFor (s : State) (m w task : Nat) : State :=
  { lockTaken s m w with held := s.held ++ [{ master := m, word := w, task := task }] }

@[simp] theorem lockWord_lockTakenFor (s : State) (m w task x : Nat) :
    lockWord (lockTakenFor s m w task) x = lockWord (lockTaken s m w) x := rfl

theorem heldBy_lockTakenFor (s : State) (m w task : Nat) :
    heldBy (lockTakenFor s m w task) m = heldBy s m ++ [{ master := m, word := w, task := task }] := by
  simp [heldBy, lockTakenFor]

/-! ### The forms of a write (R256) -/

/-- Identity 0x000, too, acquires where it does not own the lock (log entry 12). -/
theorem lockWrite_acquires (task : Nat) (refused : Bool) (unowned : lockOwns s m w = false) :
    lockWrite s m w m task refused = (lockAcquireWrite s m w task refused, .done) := by
  simp [lockWrite, unowned]

theorem lockWrite_takesFor (task : Nat) (free : lockHeld (lockWord s w) = false) (below : (heldBy s m).length < lockLimit m) :
    lockWrite s m w m task false = (lockTakenFor s m w task, .done) := by
  rw [lockWrite_acquires task false (lockOwns_of_free free)]
  simp [lockAcquireWrite, free, Nat.not_le.mpr below, lockTakenFor, lockTaken, setLock]

theorem lockWrite_contends (task : Nat) (held : lockHeld (lockWord s w) = true) (other : lockOwner (lockWord s w) ≠ m) :
    lockWrite s m w m task false = (pinc s pidLockContended, .done) := by
  rw [lockWrite_acquires task false (lockOwns_of_other other)]
  simp [lockAcquireWrite, held, other]

theorem lockWrite_releases (task : Nat) (refused : Bool) (owns : lockOwns s m w = true) :
    lockWrite s m w 0 task refused = (lockReleaseWrite s m w, .done) := by
  simp [lockWrite, owns]

/-- 0x4000 ORed with an identity of 12 bits is neither zero nor that identity, so the write is no acquire and no release. -/
theorem lockWrite_clears (task : Nat) (refused : Bool) (identity : m < 0x1000) (owns : lockOwns s m w = true) :
    lockWrite s m w (0x4000 ||| m) task refused = (setLock s w (lockWord s w &&& 0xBFFF), .done) := by
  have large : 0x4000 ≤ 0x4000 ||| m := Nat.left_le_or
  have nonzero : 0x4000 ||| m ≠ 0 := by omega
  have foreign : 0x4000 ||| m ≠ m := by omega
  simp only [lockWrite, nonzero, foreign, owns, decide_false, Bool.false_and, Bool.false_eq_true, if_false, if_true]

/-! ### The access by any master (R254, R255) -/

/-- A group that is open to every class refuses no acquire (R254). -/
theorem lockRefused_of_open {group : Nat} (word : Fin 64) (k lane v : Nat) (opened : bitOf (lockMask s group) 31 = false) :
    lockRefused s k lane (group * 64 + word.val) v = false := by
  have place : (group * 64 + word.val) / 64 = group := by omega
  simp [lockRefused, place, opened]

/-- What a write leaves, for a master that the mask admits and, where it is a thread, that runs. -/
theorem lockAccess_admitted {m : BitVec 12} {group word : Fin 64} {v : Nat} {u : State}
    (admitted : lockPermitted s m.toNat group.val = true) (opened : bitOf (lockMask s group.val) 31 = false)
    (runs : m.toNat < 0x880 → m.toNat % 128 < 96 → runsOn (getStn s (m.toNat / 128)) (m.toNat % 128) = true)
    (written : lockWrite s m.toNat (group.val * 64 + word.val) v (getThr s (m.toNat / 128) (m.toNat % 128)).task false = (u, .done)) :
    lockAccess s m group word v = u := by
  have going : (m.toNat < 0x880 && m.toNat % 128 < 96 && !runsOn (getStn s (m.toNat / 128)) (m.toNat % 128)) = false := by
    by_cases thread : m.toNat < 0x880 ∧ m.toNat % 128 < 96
    · simp [runs thread.1 thread.2]
    · simpa using fun small lane => absurd ⟨small, lane⟩ thread
  simp [lockAccess, going, admitted, lockRefused_of_open word _ _ _ opened, written]

/-- Settles O30, form by form: an admitted master's access is the write of its form, and each write sets one lock word or none. -/
theorem lockBank : Obligations.LockBank := by
  intro s m group word admitted opened runs
  refine ⟨fun free below => ?acquires, fun held other => ?contends, fun owns => ?clears, fun owns => ?releases⟩
  case acquires =>
    have taken := lockAccess_admitted admitted opened runs (lockWrite_takesFor _ free below)
    refine ⟨_, congrArg Host.Outcome.next taken, ⟨?_, fun x other => ?_⟩, ?_⟩
    · rw [lockWord_lockTakenFor, lockWord_lockTaken_same, BitVec.ofNat_toNat]
    · rw [lockWord_lockTakenFor, lockWord_lockTaken_ne _ _ other]
    · rw [heldBy_lockTakenFor, List.length_append, List.length_singleton]
  case contends =>
    have counted := lockAccess_admitted admitted opened runs (lockWrite_contends _ held other)
    exact ⟨_, congrArg Host.Outcome.next counted, pinc_locks .., pinc_held ..⟩
  case clears =>
    have cleared := lockAccess_admitted admitted opened runs (lockWrite_clears _ false m.isLt owns)
    exact ⟨_, congrArg Host.Outcome.next cleared, ⟨lockWord_setLock_same .., fun x other => lockWord_setLock_ne _ _ other⟩, rfl⟩
  case releases =>
    have released := lockAccess_admitted admitted opened runs (lockWrite_releases _ false owns)
    exact ⟨_, congrArg Host.Outcome.next released, lockWord_setLock_same .., fun x other => lockWord_setLock_ne _ _ other⟩

end Sys2Proof.Machine
end

section
/-! Proofs about the time commands and about steps, slews and frequency changes of Datum (R349, R351, R356, R364 to R367). -/

namespace Sys2Proof.Machine

/-! ### What logs, reports and learn events leave of the time base (R366) -/

/-- The time base and the learn sequence: what a step sets after it has applied the queued events. -/
def datumAndLearnQ (s : State) : Datum × List LearnEv := (s.datum, s.tbl.learnQ)

theorem datumAndLearnQ_congr {s u : State} (same : unreported u = unreported s) : datumAndLearnQ u = datumAndLearnQ s := by
  have kept := congrArg datumAndLearnQ same
  exact kept

section
variable (s : State)

theorem logEvent_datumAndLearnQ (code cls : Nat) (detail : List Byte) :
    datumAndLearnQ (logEvent s code cls detail) = datumAndLearnQ s :=
  datumAndLearnQ_congr (logEvent_unreported ..)

@[simp] theorem logEvent_datum (code cls : Nat) (detail : List Byte) : (logEvent s code cls detail).datum = s.datum :=
  congrArg (·.1) (logEvent_datumAndLearnQ s code cls detail)

theorem settleBounds_datumAndLearnQ (s0 : State) : datumAndLearnQ (settleBounds s0 s) = datumAndLearnQ s :=
  datumAndLearnQ_congr (settleBounds_unreported ..)

theorem pinc_datumAndLearnQ (id : Nat) : datumAndLearnQ (pinc s id) = datumAndLearnQ s := by
  rw [datumAndLearnQ, pinc_datum, pinc_tbl, datumAndLearnQ]

theorem tblWrite_datumAndLearnQ (a : Nat) (bs : List Byte) : datumAndLearnQ (tblWrite s a bs) = datumAndLearnQ s := by
  rw [tblWrite_eq, datumAndLearnQ, datumAndLearnQ]

theorem macPut_datumAndLearnQ (h i : Nat) (e : MacEnt) : datumAndLearnQ (macPut s h i e) = datumAndLearnQ s :=
  tblWrite_datumAndLearnQ ..

theorem report_datumAndLearnQ (src ty cls reporter a0 a1 a2 : Nat) :
    datumAndLearnQ (report s src ty cls reporter a0 a1 a2) = datumAndLearnQ s :=
  datumAndLearnQ_congr (report_unreported ..)

theorem reportParity_datumAndLearnQ (a reporter : Nat) : datumAndLearnQ (reportParity s a reporter) = datumAndLearnQ s :=
  (report_datumAndLearnQ ..).trans (pinc_datumAndLearnQ ..)

theorem reportCandidates_datumAndLearnQ (p : Part) (h : Nat) (key : List Byte) (reporter : Nat) :
    datumAndLearnQ (reportCandidates s p h key reporter) = datumAndLearnQ s := by
  refine foldl_keeps datumAndLearnQ (fun u i => ?_) _ s
  unfold checkParity
  split
  · exact reportParity_datumAndLearnQ ..
  · rfl

theorem reportPeer_datumAndLearnQ (h : Nat) (key : List Byte) (port op : Nat) :
    datumAndLearnQ (reportPeer s h key port op) = datumAndLearnQ s := by
  unfold reportPeer
  split <;> rfl

theorem flushCopy_datumAndLearnQ (h : Nat) (p : MacEnt → Bool) : datumAndLearnQ (flushCopy s h p).1 = datumAndLearnQ s := by
  unfold flushCopy
  extract_lets u selected v
  have reported : datumAndLearnQ u = datumAndLearnQ s := foldl_keeps datumAndLearnQ (fun w i => reportParity_datumAndLearnQ w ..) _ s
  have removed : datumAndLearnQ v = datumAndLearnQ u := foldl_keeps datumAndLearnQ (fun w i => macPut_datumAndLearnQ w ..) _ u
  exact removed.trans reported

/-- A learn event changes table memory, counters, peer records and the log (R284, R287, R291). -/
theorem applyLearn_datumAndLearnQ (h : Nat) (key : List Byte) (q : Nat) (peer : Bool) :
    datumAndLearnQ (applyLearn s h key q peer) = datumAndLearnQ s := by
  unfold applyLearn
  extract_lets u age
  have checked : datumAndLearnQ u = datumAndLearnQ s := reportCandidates_datumAndLearnQ ..
  clear_value u
  rw [← checked]
  split
  · simp only [apply_ite datumAndLearnQ, pinc_datumAndLearnQ, macPut_datumAndLearnQ, reportPeer_datumAndLearnQ,
      logEvent_datumAndLearnQ, ite_self]
  · split
    · exact pinc_datumAndLearnQ ..
    · split
      · exact pinc_datumAndLearnQ ..
      · simp only [apply_ite datumAndLearnQ, macPut_datumAndLearnQ, reportPeer_datumAndLearnQ, ite_self]

theorem applyDelete_datumAndLearnQ (h : Nat) (key : List Byte) (age : Nat) :
    datumAndLearnQ (applyDelete s h key age) = datumAndLearnQ s := by
  unfold applyDelete
  split
  · simp only [apply_ite datumAndLearnQ, macPut_datumAndLearnQ, reportPeer_datumAndLearnQ, ite_self]
  · rfl

theorem applyPeerDelete_datumAndLearnQ (h : Nat) (key : List Byte) : datumAndLearnQ (applyPeerDelete s h key) = datumAndLearnQ s := by
  unfold applyPeerDelete
  dsimp only
  split
  · simp only [apply_ite datumAndLearnQ, macPut_datumAndLearnQ, ite_self]
  · rfl

theorem applyEvIn_datumAndLearnQ (h : Nat) (e : LearnEv) : datumAndLearnQ (applyEvIn s h e) = datumAndLearnQ s := by
  have counted := pinc_datumAndLearnQ s (pidLearnHalfApplied h)
  unfold applyEvIn
  dsimp only
  generalize pinc s (pidLearnHalfApplied h) = u at counted ⊢
  rw [← counted]
  cases e.kind with
  | learn q peer => exact applyLearn_datumAndLearnQ ..
  | delete age => exact applyDelete_datumAndLearnQ ..
  | peerDelete => exact applyPeerDelete_datumAndLearnQ ..
  | flushPort p => exact flushCopy_datumAndLearnQ ..
  | flushCmd sel port fid key st hdr => exact flushCopy_datumAndLearnQ ..
  | lockEntry i | unlockEntry i => exact macPut_datumAndLearnQ ..
  | commitEntry i bs => exact tblWrite_datumAndLearnQ ..

theorem applyEv_datumAndLearnQ (e : LearnEv) : datumAndLearnQ (applyEv s e) = datumAndLearnQ s := by
  have both : datumAndLearnQ (applyEvIn (applyEvIn s 0 e) 1 e) = datumAndLearnQ s :=
    (applyEvIn_datumAndLearnQ ..).trans (applyEvIn_datumAndLearnQ ..)
  unfold applyEv
  dsimp only
  split <;> exact both

/-- No learn event queues another: the learn sequence is empty once every queued event is applied (R366). -/
theorem applyAllEvents_datumAndLearnQ : datumAndLearnQ (applyAllEvents s) = (s.datum, []) :=
  foldl_keeps datumAndLearnQ applyEv_datumAndLearnQ _ _

end

/-! ### Steps, slews and frequency changes (R351, R365 to R367) -/

section
variable (s : State)

/-- The registers of Datum after a step to `new`. -/
def steppedDatum (new : Nat) : Datum :=
  { s.datum with
    units := new, slew := none, valid := true, ppsOutSec := none
    stepWin := some { s := some new, since := s.clk, lim := residencyLimit s } }

theorem stepDatum_datumAndLearnQ (new : Nat) : datumAndLearnQ (stepDatum s new) = (steppedDatum s new, []) := by
  have applied := applyAllEvents_datumAndLearnQ s
  have datum : (applyAllEvents s).datum = s.datum := congrArg (·.1) applied
  have queue : (applyAllEvents s).tbl.learnQ = [] := congrArg (·.2) applied
  unfold stepDatum
  dsimp only
  rw [settleBounds_datumAndLearnQ, logEvent_datumAndLearnQ]
  simp only [datumAndLearnQ, steppedDatum, datum, queue]

theorem stepDatum_datum (new : Nat) : (stepDatum s new).datum = steppedDatum s new := congrArg (·.1) (stepDatum_datumAndLearnQ s new)

theorem stepDatum_learnQ (new : Nat) : (stepDatum s new).tbl.learnQ = [] := congrArg (·.2) (stepDatum_datumAndLearnQ s new)

theorem stepDatum_reads (new : Nat) : let u := stepDatum s new
    u.datum.units = new ∧ u.datum.slew = none ∧ u.datum.valid = true ∧ u.datum.stepWin.isSome = true := by
  simp only [stepDatum_datum, steppedDatum, Option.isSome_some, and_self]

/-- The slew that a correction by `offset` at a rate starts (R367). -/
def startedSlew (offset : Int) (rate : Nat) : Slew := { rate := if offset < 0 then -(rate : Int) else rate, offset := offset }

theorem startedSlew_rate (offset : Int) (rate : Nat) : (startedSlew offset rate).rate.natAbs = rate := by
  unfold startedSlew
  split
  · exact (Int.natAbs_neg _).trans (Int.natAbs_natCast rate)
  · exact Int.natAbs_natCast rate

theorem startSlew_datum (offset : Int) (rate : Nat) : (startSlew s offset rate).datum = { s.datum with
    slew := some (startedSlew offset rate), stepWin := if rateIsStep s rate then some (stepBegins s) else stepEnds s } :=
  settleBounds_datum ..

/-- A change of the frequency moves nothing of Datum but the frequency and the step window (R367). -/
theorem changeFreq_datum (f : Int) : (changeFreq s f).datum = { s.datum with freq := f, stepWin := (changeFreq s f).datum.stepWin } := by
  rw [changeFreq, settleBounds_datum]

end

/-! ### The time commands (R364) -/

section
variable {s : State} {h : CmdHdr} {ps : List Byte}

/-- With no servo in control and no step window, a new time is a step to it (R364, R365). -/
theorem setDatum_steps {new : Nat} (unlocked : s.datum.st ≠ 1) (settled : s.datum.stepWin = none) (moved : new / 2 ^ 16 ≠ now s / 2 ^ 16) :
    setDatum s new = answer (stepDatum s new) [] := by
  simp only [setDatum, servoLocked, unlocked, settled, moved, decide_false, Option.isSome_none, Bool.or_self, Bool.false_eq_true, if_false]

theorem timeGet_answers (accepted : Accepted s h 0x0500 0) : Answers (.timeGet h []) s h 0x0500 s
    (timeRecord (now s) ++ leBytes 1 s.datum.st ++ leBytes 8 (ofSigned 64 (rateNow s.datum)) ++ leBytes 1 (b2n s.datum.valid)) :=
  answers_of_hostCmdN (execTimeGet.eq_def ..) accepted rfl rfl

theorem timeSet_steps {new : Nat} (unlocked : s.datum.st ≠ 1) (settled : s.datum.stepWin = none) (accepted : Accepted s h 0x0501 0)
    (length : ps.length = 16) (record : recordUnits ps = some new) (moved : new / 2 ^ 16 ≠ now s / 2 ^ 16) :
    Answers (.timeSet h ps) s h 0x0501 (stepDatum s new) [] :=
  answers_of_hostCmdN (execTimeSet.eq_def ..) accepted length (by simp only [record, setDatum_steps unlocked settled moved])

theorem timeStep_steps {new : Nat} (unlocked : s.datum.st ≠ 1) (settled : s.datum.stepWin = none) (accepted : Accepted s h 0x0502 0)
    (length : ps.length = 10) (target : offsetTarget s (offset16 ps true) = some new) (moved : new / 2 ^ 16 ≠ now s / 2 ^ 16) :
    Answers (.timeStep h ps) s h 0x0502 (stepDatum s new) [] :=
  answers_of_hostCmdN (execTimeStep.eq_def ..) accepted length (by simp only [target, setDatum_steps unlocked settled moved])

/-- TIME_ADJUST within the scale and within 500 ppm starts its slew (R364, R367). -/
theorem timeAdjust_slews (unlocked : s.datum.st ≠ 1) (accepted : Accepted s h 0x0503 0) (length : ps.length = 14) :
    let d := offset16 ps false
    let rate := leAt ps 10 4
    let r : Int := s.datum.freq + (if d < 0 then -(rate : Int) else rate) * 65536
    1 ≤ rate → rate ≤ 1000000 → -maxOffset ≤ r → r ≤ maxOffset → (offsetTarget s d).isSome = true →
      Answers (.timeAdjust h ps) s h 0x0503 (startSlew s d rate) [] := by
  intro d rate r nonzero largest above below target
  refine answers_of_hostCmdN (execTimeAdjust.eq_def ..) accepted length ?_
  have inScale : (offsetTarget s d).isNone = false := by simpa using target
  have allowed : (rate < 1 || 1000000 < rate || maxOffset < r || r < -maxOffset || (offsetTarget s d).isNone) = false := by
    simp [inScale]
    omega
  have free : servoLocked s = false := by simpa [servoLocked] using unlocked
  simp only [d, rate, r] at allowed
  simp only [allowed, free, Bool.false_eq_true, if_false, d, rate]

/-- TIME_FREQ within 500 ppm, alone and with the slew in progress, sets the frequency (R351, R364). -/
theorem timeFreq_sets (unlocked : s.datum.st ≠ 1) (accepted : Accepted s h 0x0504 0) (length : ps.length = 8) :
    let f := toSigned 64 (leAt ps 0 8)
    f ≤ maxOffset → -maxOffset ≤ f → -maxOffset ≤ rateSum { s.datum with freq := f } → rateSum { s.datum with freq := f } ≤ maxOffset →
      Answers (.timeFreq h ps) s h 0x0504 (changeFreq s f) [] := by
  intro f below above sumAbove sumBelow
  refine answers_of_hostCmdN (execTimeFreq.eq_def ..) accepted length ?_
  have free : servoLocked s = false := by simpa [servoLocked] using unlocked
  simp only [f] at below above sumAbove sumBelow
  simp [not_lt.mpr below, not_lt.mpr above, not_lt.mpr sumAbove, not_lt.mpr sumBelow, free, f]

/-- The state whose transmit stamp queue of port p has been read. -/
def stampsTaken (s : State) (p : Nat) : State := { s with datum := { s.datum with txStamps := sset [] s.datum.txStamps p [] } }

theorem stampsTaken_same (s : State) (p : Nat) : sget [] (stampsTaken s p).datum.txStamps p = [] := sget_sset_same [] s.datum.txStamps p []

theorem stampsTaken_ne (s : State) {p q : Nat} (other : q ≠ p) :
    sget [] (stampsTaken s p).datum.txStamps q = sget [] s.datum.txStamps q :=
  sget_sset_ne [] [] s.datum.txStamps [] other

/-- The stamps of a port leave its queue with the reply (R356). -/
theorem timeTxstampRead_takes (accepted : Accepted s h 0x0505 0) (length : ps.length = 1) (port : leAt ps 0 1 < 32) :
    Answers (.timeTxstampRead h ps) s h 0x0505 (stampsTaken s (leAt ps 0 1))
      (sget [] s.datum.txStamps (leAt ps 0 1)).flatten :=
  answers_of_hostCmdN (execTimeTxstampRead.eq_def ..) accepted length (by simp only [not_le.mpr port, if_false, stampsTaken])

/-- What TIME_STATUS reports: state, source, step window, remaining slew, the pins and the holdover oscillator (R364). -/
def timeStatusBytes (d : Datum) : List Byte :=
  leBytes 1 d.st ++ leBytes 1 d.src ++ leBytes 1 (b2n d.stepWin.isSome) ++ leBytes 8 (ofSigned 64 ((d.slew.map slewLeft).getD 0))
    ++ leBytes 1 (b2n d.ppsInAt.isSome + 2 * b2n d.ppsOutUntil.isSome) ++ leBytes 1 (b2n d.oscHold)

theorem timeStatus_answers (accepted : Accepted s h 0x0506 0) : Answers (.timeStatus h []) s h 0x0506 s (timeStatusBytes s.datum) :=
  answers_of_hostCmdN (execTimeStatus.eq_def ..) accepted rfl (by cases slew : s.datum.slew <;> simp only [timeStatusBytes, slew] <;> rfl)

end

/-- Settles O36, command by command: each accepted command has one answer, and a step, a slew, a frequency change or a read of stamps writes
its own registers of Datum. -/
theorem timeCommands : Obligations.TimeCommands := by
  intro s h ps
  refine ⟨timeGet_answers, fun unlocked settled => ⟨?set, ?step⟩, fun unlocked accepted length => ?adjust,
    fun unlocked accepted length => ?freq, fun accepted length port => ?stamps, fun accepted => ?status⟩
  case set =>
    intro n accepted length record moved
    exact ⟨_, timeSet_steps unlocked settled accepted length record moved, stepDatum_reads s n⟩
  case step =>
    intro n accepted length target moved
    exact ⟨_, timeStep_steps unlocked settled accepted length target moved, stepDatum_reads s n⟩
  case adjust =>
    intro d rate r nonzero largest above below target
    have started := startSlew_datum s d rate
    exact ⟨_, startedSlew d rate, timeAdjust_slews unlocked accepted length nonzero largest above below target,
      by rw [started], rfl, startedSlew_rate d rate, by rw [started], by rw [started]⟩
  case freq =>
    intro f below above sumAbove sumBelow
    have changed := changeFreq_datum s f
    exact ⟨_, timeFreq_sets unlocked accepted length below above sumAbove sumBelow, by rw [changed], by rw [changed], by rw [changed]⟩
  case stamps =>
    exact ⟨_, timeTxstampRead_takes accepted length port, stampsTaken_same .., fun q other => stampsTaken_ne s other⟩
  case status =>
    refine ⟨_, timeStatus_answers accepted, rfl, ?_⟩
    simp only [timeStatusBytes, List.length_append, leBytes_length]

end Sys2Proof.Machine
end

section
/-! Proofs about the events of Datum: the step window, slews, the servo, calibration, PPS, the holdover oscillator and SyncE (R54, R351, R354,
R360 to R363, R365, R367, R368). -/

namespace Sys2Proof.Machine

/-! ### Parameters behind an event (R415) -/

section
variable (s : State) {id : Nat}

/-- An event may count itself as lost, and changes no other parameter. -/
theorem ringEvent_pget (code cls : Nat) (detail : List Byte) (other : id ≠ pidHostEventLost) :
    pget (ringEvent s code cls detail) id = pget s id := by
  have lost (u : State) : pget (pinc u pidHostEventLost) id = pget u id := pget_pinc_ne u other
  have hosted (u : State) (x : HostIf) : pget { u with host := x } id = pget u id := rfl
  have written (u : State) (x : Hbm) : pget { u with hbm := x } id = pget u id := rfl
  unfold ringEvent
  extract_lets h e u
  have entered : pget u id = pget s id := hosted s _
  split
  · rw [lost, entered]
  · split
    · rw [lost, entered]
    · split
      · exact (hosted u _).trans entered
      · split
        · rw [pushEvent_eq, hosted, writeHdm_eq, written, entered]
        · rw [lost, hosted, entered]

theorem logEvent_pget (code cls : Nat) (detail : List Byte) (other : id ≠ pidHostEventLost) :
    pget (logEvent s code cls detail) id = pget s id := by
  have ringed := ringEvent_pget s code cls detail other
  unfold logEvent
  rw [settleAttn_eq]
  exact ringed

theorem settleBounds_pget (s0 : State) (other : id ≠ pidHostEventLost) : pget (settleBounds s0 s) id = pget s id := by
  have half (u : State) (h : Hf) : pget (settleBound s0 u h) id = pget u id := by
    unfold settleBound
    extract_lets r0 r1 detail v
    have walked : pget v id = pget u id :=
      foldl_keeps (fun w => pget w id) (fun w b => by split <;> simp only [logEvent_pget w _ _ _ other]) _ u
    split
    · rw [logEvent_pget _ _ _ _ other, walked]
    · exact walked
  rw [settleBounds, half, half]

end

/-! ### The rate beside a slew (R351) -/

theorem withinMax_bounds (x : Int) : withinMax x ≤ maxOffset ∧ -maxOffset ≤ withinMax x := by
  unfold withinMax maxOffset
  omega

/-- A frequency beside a slew in progress gives a rate within 500 ppm. -/
theorem rateSum_freqBeside (d : Datum) (f : Int) : let r := rateSum { d with freq := freqBeside d f }
    r ≤ maxOffset ∧ -maxOffset ≤ r := by
  have added (g : Int) : rateSum { d with freq := g } = g + (rateSum d - d.freq) := by
    unfold rateSum
    cases d.slew with
    | none => simp
    | some w => by_cases active : slewActive w = true <;> simp [active]
  have sum : rateSum { d with freq := freqBeside d f } = withinMax (withinMax f + (rateSum d - d.freq)) := by
    rw [added, freqBeside]
    omega
  rw [sum]
  exact withinMax_bounds _

/-- A change to a frequency beside the slew in progress leaves the rate within 500 ppm. -/
theorem rateSum_changeFreq (s : State) (f : Int) : let r := rateSum (changeFreq s (freqBeside s.datum f)).datum
    r ≤ maxOffset ∧ -maxOffset ≤ r := by
  rw [changeFreq_datum]
  exact rateSum_freqBeside s.datum f

/-! ### The step window and the end of a slew (R54, R367) -/

section
variable {s : State}

theorem timeStepClear_waits {w : StepWin} (window : s.datum.stepWin = some w)
    (early : w.s = none ∨ s.clk < w.since + residencyInterval s w.lim) :
    exec .timeStepClear s = .next s := by
  have closed : (w.s.isSome && w.since + residencyInterval s w.lim ≤ s.clk) = false := by
    rcases early with held | early <;> simp [*]
  show execTimeStepClear s = _
  simp only [execTimeStepClear, window, closed, Bool.false_eq_true, if_false]

theorem timeStepClear_clears {w : StepWin} (window : s.datum.stepWin = some w) (stepped : w.s.isSome = true)
    (due : w.since + residencyInterval s w.lim ≤ s.clk) :
    exec .timeStepClear s = .next (settleBounds s { s with datum := { s.datum with stepWin := none } }) := by
  show execTimeStepClear s = _
  simp only [execTimeStepClear, window, stepped, due, decide_true, Bool.and_self, if_true]

theorem slewEnd_waits {w : Slew} (slew : s.datum.slew = some w) (active : slewActive w = true) : exec .slewEnd s = .next s := by
  show execSlewEnd s = _
  simp only [execSlewEnd, slew, active, if_true]

theorem slewEnd_ends {w : Slew} (slew : s.datum.slew = some w) (ended : slewActive w = false) :
    exec .slewEnd s = .next { s with datum := { s.datum with slew := none, stepWin := stepEnds s } } := by
  show execSlewEnd s = _
  simp only [execSlewEnd, slew, ended, Bool.false_eq_true, if_false]

/-- An adjustment that counts as a step starts its interval at its end. -/
theorem stepEnds_starts {x : StepWin} (window : s.datum.stepWin = some x) (held : x.s = none) :
    stepEnds s = some { s := some (now s), since := s.clk, lim := residencyLimit s } := by
  simp only [stepEnds, window, Option.map_some, held, Option.isNone_none, if_true]

/-- A step window that counts already stays as it is. -/
theorem stepEnds_stays (counting : ∀ x, s.datum.stepWin = some x → x.s.isSome = true) : stepEnds s = s.datum.stepWin := by
  unfold stepEnds
  cases window : s.datum.stepWin with
  | none => rfl
  | some x => simp [Option.isSome_iff_ne_none.mp (counting x window)]

end

/-! ### The servo (R362, R368) -/

section
variable (s : State)

/-- The servo follows source x, and a PTP reference where `ptp` says so. -/
def lockedTo (ptp : Bool) (x : Nat) : State := { s with datum := { s.datum with
  st := 1, src := x, ptpUp := ptp, valid := true, ppsPhase := if x = 0 then s.datum.ppsPhase else none } }

theorem ptpServoCorrection_idle {offset : Option Int} (lost : bestSource s offset.isSome s.datum.ppsInAt.isSome = none) :
    exec (.ptpServoCorrection offset) s = .next s := by
  show execPtpServoCorrection offset s = _
  simp only [execPtpServoCorrection, lost]

theorem ptpServoCorrection_locks {offset : Option Int} {x : Nat} (best : bestSource s offset.isSome s.datum.ppsInAt.isSome = some x) :
    exec (.ptpServoCorrection offset) s = .next
      (servoPhase (servoFreq (lockedTo s offset.isSome x)) (if x = 0 then offset.getD 0 else s.datum.ppsPhase.getD 0)) := by
  show execPtpServoCorrection offset s = _
  simp only [execPtpServoCorrection, best, lockedTo]

/-- Steering moves nothing of Datum but the frequency and the step window. -/
theorem servoFreq_datum : (servoFreq s).datum =
    { s.datum with freq := (servoFreq s).datum.freq, stepWin := (servoFreq s).datum.stepWin } := by
  unfold servoFreq
  rw [changeFreq_datum]

theorem servoFreq_pget {id : Nat} (other : id ≠ pidHostEventLost) : pget (servoFreq s) id = pget s id := by
  rw [servoFreq, changeFreq, settleBounds_pget _ _ other]
  rfl

/-- Where a correction leads counts from the present time alone. -/
theorem offsetTarget_congr {s u : State} (same : u.datum.units = s.datum.units) (d : Int) : offsetTarget u d = offsetTarget s d := by
  rw [offsetTarget, offsetTarget, now, now, same]

section
variable {s : State} {d : Int} {v : Nat}

/-- An offset of zero, or one beyond the scale, is no correction. -/
theorem servoPhase_none (still : d = 0 ∨ offsetTarget s d = none) : servoPhase s d = s := by
  unfold servoPhase
  rcases still with zero | beyond
  · split
    · rfl
    · rw [if_pos zero]
  · rw [beyond]

theorem servoPhase_steps (target : offsetTarget s d = some v) (nonzero : d ≠ 0)
    (large : pget s pidTimeStepThresholdNs * 65536 ≤ d.natAbs) (settled : s.datum.stepWin = none) : servoPhase s d = stepDatum s v := by
  simp only [servoPhase, target, nonzero, large, settled, Option.isNone_none, decide_true, Bool.and_self, if_true, if_false]

theorem servoPhase_slews (target : offsetTarget s d = some v) (nonzero : d ≠ 0)
    (small : d.natAbs < pget s pidTimeStepThresholdNs * 65536 ∨ s.datum.stepWin.isSome = true) :
    servoPhase s d = if roomPpb s.datum.freq = 0 then s else
      startSlew { s with freeCtr := s.freeCtr + 1 } d (1 + (Config.servoRate s.freeCtr).toNat % roomPpb s.datum.freq) := by
  have noStep : (pget s pidTimeStepThresholdNs * 65536 ≤ d.natAbs && s.datum.stepWin.isNone) = false := by
    rcases small with small | window
    · simp [not_le.mpr small]
    · simp [window]
  simp only [servoPhase, target, nonzero, noStep, Bool.false_eq_true, if_false]

end

/-- The state of the clock, the source it follows, and whether a PTP reference can be followed. -/
def sourceFollowed (d : Datum) : Nat × Nat × Bool := (d.st, d.src, d.ptpUp)

/-- A correction of the phase keeps the source that the clock follows, and a valid time stays valid (R362, R368). -/
theorem servoPhase_sourceFollowed (d : Int) (valid : s.datum.valid = true) :
    sourceFollowed (servoPhase s d).datum = sourceFollowed s.datum ∧ (servoPhase s d).datum.valid = true := by
  unfold servoPhase
  split
  · exact ⟨rfl, valid⟩
  · extract_lets room
    split
    · exact ⟨rfl, valid⟩
    · split
      · rw [stepDatum_datum]; exact ⟨rfl, rfl⟩
      · split
        · exact ⟨rfl, valid⟩
        · rw [startSlew_datum]; exact ⟨rfl, valid⟩

end

/-! ### Calibration (R354) -/

section
variable (s : State)

/-- The state after the calibration of an active lane that is due: a failure marks the lane and is reported. -/
def calibrated (l : Nat) (ok : Bool) : State :=
  let others := s.datum.badLanes.filter (· != l)
  let read := { s with datum := { s.datum with calAt := sset none s.datum.calAt l (some s.clk) } }
  if ok then { read with datum := { read.datum with badLanes := others } }
  else report { read with datum := { read.datum with badLanes := others ++ [l] } } (0x30 + lanePort l) 0x18 clsMajor 0x1080 l 0 0

theorem laneCalibration_run (lane : Fin 32) (ok : Bool) : exec (.laneCalibration lane ok) s =
    .next (if (laneActive lane.val && calDue s lane.val) = true then calibrated s lane.val ok else s) := by
  show execLaneCalibration lane ok s = _
  simp only [execLaneCalibration, ← Bool.not_and]
  cases laneActive lane.val && calDue s lane.val with
  | false => rfl
  | true => cases ok <;> rfl

/-- Of the time base a calibration writes its lane's time and mark, whatever it reports. -/
theorem calibrated_datum (l : Nat) (ok : Bool) : (calibrated s l ok).datum = { s.datum with
    calAt := sset none s.datum.calAt l (some s.clk)
    badLanes := s.datum.badLanes.filter (· != l) ++ if ok = true then [] else [l] } := by
  unfold calibrated
  cases ok with
  | true => simp
  | false => exact congrArg (·.1) (report_datumAndLearnQ ..)

theorem calibrated_total (l : Nat) (ok : Bool) :
    (calibrated s l ok).flt.total = if ok = false then satAdd 32 s.flt.total 1 else s.flt.total := by
  cases ok with
  | true => rfl
  | false => exact report_total ..

theorem calibrated_stn (l : Nat) (ok : Bool) : (calibrated s l ok).stn = s.stn := by
  cases ok with
  | true => rfl
  | false => exact congrArg (·.1) (report_stations ..)

theorem mem_calibrated_same (l : Nat) (ok : Bool) : l ∈ (calibrated s l ok).datum.badLanes ↔ ok = false := by
  cases ok <;> simp [calibrated_datum]

theorem mem_calibrated_ne {l j : Nat} (ok : Bool) (other : j ≠ l) :
    j ∈ (calibrated s l ok).datum.badLanes ↔ j ∈ s.datum.badLanes := by
  cases ok <;> simp [calibrated_datum, other]

end

/-! ### The sources of time and PPS (R360 to R362) -/

section
variable {s : State}

theorem ppsInLost_waits {t : Nat} (edge : s.datum.ppsInAt = some t) (recent : s.clk ≤ t + ppsLimit) : exec .ppsInLost s = .next s := by
  show execPpsInLost s = _
  simp only [execPpsInLost, edge, not_lt.mpr recent, if_false]

/-- The state without PPS_IN, before the next source is taken. -/
def withoutPpsIn (s : State) : State := { s with datum := { s.datum with ppsInAt := none, ppsPhase := none } }

theorem ppsInLost_lost {t : Nat} (edge : s.datum.ppsInAt = some t) (late : t + ppsLimit < s.clk) : exec .ppsInLost s =
    .next (logEvent (if s.datum.src = 1 then nextSource (withoutPpsIn s) else withoutPpsIn s) 0x0052 clsWarning []) := by
  show execPpsInLost s = _
  simp only [execPpsInLost, edge, late, if_true, withoutPpsIn]

theorem nextSource_unlocked (unlocked : s.datum.st ≠ 1) : nextSource s = s := by
  simp [nextSource, unlocked]

theorem nextSource_some {x : Nat} (locked : s.datum.st = 1) (best : bestSource s s.datum.ptpUp s.datum.ppsInAt.isSome = some x) :
    nextSource s = { s with datum := { s.datum with src := x } } := by
  simp [nextSource, locked, best]

theorem nextSource_none (locked : s.datum.st = 1) (lost : bestSource s s.datum.ptpUp s.datum.ppsInAt.isSome = none) :
    nextSource s = { s with datum := { s.datum with st := 2 } } := by
  simp [nextSource, locked, lost]

/-- With one reference at hand the clock follows it, whatever `ptp.source` names (R362). -/
@[simp] theorem bestSource_ptp (s : State) : bestSource s true false = some 0 := by
  simp [bestSource]

@[simp] theorem bestSource_pps (s : State) : bestSource s false true = some 1 := by
  simp [bestSource]

@[simp] theorem bestSource_neither (s : State) : bestSource s false false = none := by
  simp [bestSource]

/-- A clock that followed PPS_IN goes over to PTP, or to HOLDOVER; every other clock goes on as it is (R362). -/
theorem ppsInLost_source (s : State) : let u := if s.datum.src = 1 then nextSource (withoutPpsIn s) else withoutPpsIn s
    u.datum.ppsInAt = none ∧ u.datum.units = s.datum.units ∧
      u.datum.st = (if s.datum.st = 1 ∧ s.datum.src = 1 ∧ s.datum.ptpUp = false then 2 else s.datum.st) ∧
      u.datum.src = (if s.datum.st = 1 ∧ s.datum.src = 1 ∧ s.datum.ptpUp = true then 0 else s.datum.src) := by
  by_cases followedPps : s.datum.src = 1
  · by_cases locked : s.datum.st = 1
    · cases ptp : s.datum.ptpUp with
      | true =>
        have next := nextSource_some (s := withoutPpsIn s) (x := 0) locked (by simp [withoutPpsIn, ptp])
        rw [if_pos followedPps, next]
        simp [followedPps, locked, withoutPpsIn]
      | false =>
        have next := nextSource_none (s := withoutPpsIn s) locked (by simp [withoutPpsIn, ptp])
        rw [if_pos followedPps, next]
        simp [followedPps, locked, withoutPpsIn]
    · have stays := nextSource_unlocked (s := withoutPpsIn s) locked
      rw [if_pos followedPps, stays]
      simp [locked, withoutPpsIn]
  · simp [followedPps, withoutPpsIn]

/-- The state without a PTP reference, before the next source is taken. -/
def withoutPtp (s : State) : State := { s with datum := { s.datum with ptpUp := false } }

theorem ptpReferenceLost_run (s : State) :
    exec .ptpReferenceLost s = .next (if s.datum.src = 0 then nextSource (withoutPtp s) else withoutPtp s) := rfl

theorem ppsOutPulse_off (off : ppsOutOn s = false) : exec .ppsOutPulse s = .next s := by
  show execPpsOutPulse s = _
  simp [execPpsOutPulse, off]

theorem ppsOutPulse_rises (on : ppsOutOn s = true) (due : (ppsPhase s).1 < timeIncrement s.datum) (epoch : 0 ≤ (ppsPhase s).2)
    (fresh : s.datum.ppsOutSec ≠ some (ppsPhase s).2.toNat) : exec .ppsOutPulse s = .next { s with datum := { s.datum with
      ppsOutSec := some (ppsPhase s).2.toNat
      ppsOutUntil := some (max (s.datum.ppsOutUntil.getD 0) (s.clk + pget s pidTimePpsOutWidthUs * 1250)) } } := by
  show execPpsOutPulse s = _
  simp only [execPpsOutPulse, on, due, epoch, bne_iff_ne.mpr fresh, decide_true, Bool.and_self, if_true, usCycles]

theorem ppsOutPulseEnd_none (low : s.datum.ppsOutUntil = none) : exec .ppsOutPulseEnd s = .next s := by
  show execPpsOutPulseEnd s = _
  simp only [execPpsOutPulseEnd, low]

theorem ppsOutPulseEnd_some {x : Nat} (high : s.datum.ppsOutUntil = some x) :
    exec .ppsOutPulseEnd s = .next (if x ≤ s.clk then { s with datum := { s.datum with ppsOutUntil := none } } else s) := by
  show execPpsOutPulseEnd s = _
  simp only [execPpsOutPulseEnd, high]
  split <;> rfl

end

/-! ### Holdover (R362) -/

section
variable (s : State)

/-- The state with the offset of the holdover oscillator, which is present. -/
def withHoldOffset (ppb : BitVec 32) : State :=
  { pset s pidTimeHoldOffsetPpb ppb.toNat with datum := { s.datum with oscHold := true } }

theorem withHoldOffset_pget (ppb : BitVec 32) : pget (withHoldOffset s ppb) pidTimeHoldOffsetPpb = ppb.toNat :=
  pget_pset_same ..

/-- The state whose frequency follows the holdover oscillator. -/
def heldOver (ppb : BitVec 32) : State :=
  let u := { withHoldOffset s ppb with freeCtr := s.freeCtr + 1 }
  changeFreq u (freqBeside u.datum (toSigned 64 (Config.holdSteer s.freeCtr ppb).toNat))

theorem holdOffsetUpdate_run (ppb : BitVec 32) :
    exec (.holdOffsetUpdate ppb) s = .next (if s.datum.st = 2 then heldOver s ppb else withHoldOffset s ppb) := by
  show execHoldOffsetUpdate ppb s = _
  unfold execHoldOffsetUpdate
  by_cases holdover : s.datum.st = 2 <;> simp [holdover, heldOver, withHoldOffset]

theorem heldOver_pget (ppb : BitVec 32) : pget (heldOver s ppb) pidTimeHoldOffsetPpb = ppb.toNat := by
  rw [heldOver, changeFreq, settleBounds_pget _ _ (by decide)]
  exact withHoldOffset_pget s ppb

theorem heldOver_datum (ppb : BitVec 32) :
    (heldOver s ppb).datum.oscHold = true ∧ (heldOver s ppb).datum.slew = s.datum.slew := by
  rw [heldOver, changeFreq_datum]
  exact ⟨rfl, rfl⟩

theorem oscHoldLost_run : exec .oscHoldLost s =
    .next (if s.datum.oscHold = true then logEvent { s with datum := { s.datum with oscHold := false } } 0x0053 clsWarning [] else s) := by
  show execOscHoldLost s = _
  unfold execOscHoldLost
  split <;> rfl

end

/-! ### SyncE (R363) -/

section
variable {s : State} {k : Fin 2}

/-- An output is held low and its hold-off is gone, whether or not the squelch is logged. -/
theorem squelchOut_datum (s : State) (k : Nat) : (squelchOut s k).datum = { s.datum with
    squelch := sset false s.datum.squelch k true, holdoff := sset none s.datum.holdoff k none } := by
  unfold squelchOut
  extract_lets was u
  split
  · rfl
  · rw [logEvent_datum]

theorem synceHoldoffExpiry_none (idle : sget none s.datum.holdoff k.val = none) : exec (.synceHoldoffExpiry k) s = .next s := by
  show execSynceHoldoffExpiry k s = _
  simp only [execSynceHoldoffExpiry, idle]

theorem synceHoldoffExpiry_waits {x : Nat} (holds : sget none s.datum.holdoff k.val = some x)
    (early : s.clk < x ∨ synceLane s k.val = none) : exec (.synceHoldoffExpiry k) s = .next s := by
  have closed : (x ≤ s.clk && (synceLane s k.val).isSome) = false := by
    rcases early with early | off
    · simp [not_le.mpr early]
    · simp [off]
  show execSynceHoldoffExpiry k s = _
  simp only [execSynceHoldoffExpiry, holds, closed, Bool.false_eq_true, if_false]

theorem synceHoldoffExpiry_resumes {x : Nat} (holds : sget none s.datum.holdoff k.val = some x) (due : x ≤ s.clk)
    (on : (synceLane s k.val).isSome = true) : exec (.synceHoldoffExpiry k) s = .next { s with datum := { s.datum with
      squelch := sset false s.datum.squelch k.val false, holdoff := sset none s.datum.holdoff k.val none } } := by
  show execSynceHoldoffExpiry k s = _
  simp only [execSynceHoldoffExpiry, holds, due, on, decide_true, Bool.and_self, if_true]

end

/-! ### The events together -/

section
variable {s : State}

/-- What the end of a slew leaves of the step window (R54, R367). -/
theorem slewEnd_window (s : State) :
    (∀ x, s.datum.stepWin = some x → x.s = none → ∃ y, stepEnds s = some y ∧ y.s = some (now s) ∧ y.since = s.clk) ∧
      ((∀ x, s.datum.stepWin = some x → x.s.isSome = true) → stepEnds s = s.datum.stepWin) :=
  ⟨fun _ window held => ⟨_, stepEnds_starts window held, rfl, rfl⟩, stepEnds_stays⟩

/-- What a correction by `d` does to a clock that follows its source: nothing, a step to the target, or a slew in the room that the frequency
leaves (R368). -/
theorem servoPhase_corrects {d : Int} {v : Nat} (target : offsetTarget s d = some v) (nonzero : d ≠ 0) :
    (pget s pidTimeStepThresholdNs * 65536 ≤ d.natAbs → s.datum.stepWin = none →
      (servoPhase s d).datum.units = v ∧ (servoPhase s d).datum.slew = none ∧ (servoPhase s d).datum.stepWin.isSome = true ∧
        (servoPhase s d).tbl.learnQ = []) ∧
    (d.natAbs < pget s pidTimeStepThresholdNs * 65536 ∨ s.datum.stepWin.isSome = true → (servoPhase s d).datum.units = s.datum.units ∧
      (roomPpb s.datum.freq = 0 ∨ ∃ w, (servoPhase s d).datum.slew = some w ∧ w.offset = d ∧ w.cycles = 0 ∧
        1 ≤ w.rate.natAbs ∧ w.rate.natAbs ≤ roomPpb s.datum.freq)) := by
  refine ⟨fun large settled => ?_, fun small => ?_⟩
  · obtain ⟨units, slew, -, window⟩ := stepDatum_reads s v
    rw [servoPhase_steps target nonzero large settled]
    exact ⟨units, slew, window, stepDatum_learnQ s v⟩
  · rw [servoPhase_slews target nonzero small]
    by_cases full : roomPpb s.datum.freq = 0
    · rw [if_pos full]
      exact ⟨rfl, .inl full⟩
    · have inside := Nat.mod_lt (Config.servoRate s.freeCtr).toNat (Nat.pos_of_ne_zero full)
      rw [if_neg full, startSlew_datum]
      refine ⟨rfl, .inr ⟨_, rfl, rfl, rfl, ?_⟩⟩
      rw [startedSlew_rate]
      omega

end

/-- The clause of the servo in O56: it follows the best source, makes the time valid, and corrects by a step or a slew (R362, R368). -/
theorem ptpServoCorrection_corrects (s : State) (offset : Option Int) {x : Nat}
    (best : bestSource s offset.isSome s.datum.ppsInAt.isSome = some x) :
    let d := if x = 0 then offset.getD 0 else s.datum.ppsPhase.getD 0
    let s1 := servoFreq (lockedTo s offset.isSome x)
    ∃ u, exec (.ptpServoCorrection offset) s = .next u ∧ u.datum.st = 1 ∧ u.datum.src = x ∧ u.datum.ptpUp = offset.isSome ∧ u.datum.valid = true ∧
      (d = 0 ∨ offsetTarget s d = none → u.datum.units = s.datum.units ∧ u.datum.slew = s.datum.slew) ∧
      (∀ v, offsetTarget s d = some v → d ≠ 0 →
        (pget s pidTimeStepThresholdNs * 65536 ≤ d.natAbs → s1.datum.stepWin = none →
          u.datum.units = v ∧ u.datum.slew = none ∧ u.datum.stepWin.isSome = true ∧ u.tbl.learnQ = []) ∧
        (d.natAbs < pget s pidTimeStepThresholdNs * 65536 ∨ s1.datum.stepWin.isSome = true → u.datum.units = s.datum.units ∧
          (roomPpb s1.datum.freq = 0 ∨ ∃ w, u.datum.slew = some w ∧ w.offset = d ∧ w.cycles = 0 ∧
            1 ≤ w.rate.natAbs ∧ w.rate.natAbs ≤ roomPpb s1.datum.freq))) := by
  intro d s1
  have steered : s1.datum = { (lockedTo s offset.isSome x).datum with freq := s1.datum.freq, stepWin := s1.datum.stepWin } :=
    servoFreq_datum _
  have units : s1.datum.units = s.datum.units := by rw [steered]; rfl
  have slew : s1.datum.slew = s.datum.slew := by rw [steered]; rfl
  have source : sourceFollowed s1.datum = (1, x, offset.isSome) := by rw [steered]; rfl
  have valid : s1.datum.valid = true := by rw [steered]; rfl
  have threshold : pget s1 pidTimeStepThresholdNs = pget s pidTimeStepThresholdNs := servoFreq_pget _ (by decide)
  have target := offsetTarget_congr units d
  obtain ⟨same, stillValid⟩ := servoPhase_sourceFollowed s1 d valid
  rw [source] at same
  obtain ⟨st, src, ptp⟩ : _ = 1 ∧ _ = x ∧ _ = offset.isSome := by simpa [sourceFollowed] using same
  refine ⟨servoPhase s1 d, ptpServoCorrection_locks s best, st, src, ptp, stillValid, fun still => ?_, fun v reach nonzero => ?_⟩
  · rw [← target] at still
    rw [servoPhase_none still]
    exact ⟨units, slew⟩
  · rw [← target] at reach
    rw [← threshold, ← units]
    exact servoPhase_corrects reach nonzero

/-- The clause of a lane's calibration in O56 (R354). -/
theorem laneCalibration_marks (s : State) (lane : Fin 32) (ok : Bool) : let due := laneActive lane.val && calDue s lane.val
    ∃ u, exec (.laneCalibration lane ok) s = .next u ∧
      (lane.val ∈ u.datum.badLanes ↔ if due = true then ok = false else lane.val ∈ s.datum.badLanes) ∧
      sget none u.datum.calAt lane.val = (if due = true then some s.clk else sget none s.datum.calAt lane.val) ∧
      u.flt.total = (if due = true ∧ ok = false then satAdd 32 s.flt.total 1 else s.flt.total) ∧
      (∀ l, l ≠ lane.val → (l ∈ u.datum.badLanes ↔ l ∈ s.datum.badLanes)) ∧ u.datum.units = s.datum.units ∧ u.stn = s.stn := by
  intro due
  refine ⟨_, laneCalibration_run s lane ok, ?_⟩
  by_cases calibrates : due = true
  · simp only [due] at calibrates
    simp only [due, calibrates, if_true, true_and]
    refine ⟨mem_calibrated_same .., ?_, calibrated_total .., fun l other => mem_calibrated_ne s ok other, ?_, calibrated_stn ..⟩
    · rw [calibrated_datum, sget_sset_same]
    · rw [calibrated_datum]
  · simp only [due] at calibrates
    simp [due, calibrates]

/-- Settles O56, event by event: out of its condition an event answers the state as it is, in it the registers of Datum that it names. -/
theorem timeEvents : Obligations.TimeEvents := by
  intro s
  refine ⟨fun idle => ?stepNone, fun w window => ⟨timeStepClear_waits window, fun stepped due => ?stepClear⟩, fun idle => ?slewNone,
    fun w slew => ⟨slewEnd_waits slew, fun ended => ⟨_, slewEnd_ends slew ended, rfl, rfl, slewEnd_window s⟩⟩,
    fun offset => ⟨ptpServoCorrection_idle s, fun x best => ptpServoCorrection_corrects s offset best⟩, laneCalibration_marks s,
    fun interp => ?edge, fun idle => ?ppsNone, fun t edge => ⟨ppsInLost_waits edge, fun late => ?ppsLost⟩, ppsOutPulse_off,
    ppsOutPulse_rises, ppsOutPulseEnd_none, fun x high => ?pulseEnd, fun ppb => ?holdOffset, fun lost => ?oscNone, fun present => ?oscLost,
    fun k => ⟨?squelch, synceHoldoffExpiry_none, fun x holds => ⟨synceHoldoffExpiry_waits holds, fun due on => ?resume⟩⟩,
    fun locked ptp pps => ?toPps, fun locked ptp pps => ?toHoldover, fun other => ?stays⟩
  case stepNone => show execTimeStepClear s = _; simp only [execTimeStepClear, idle]
  case stepClear =>
    exact ⟨_, timeStepClear_clears window stepped due, settleBounds_datum .., settleBounds_stn .., by rw [settleBounds_eq]⟩
  case slewNone => show execSlewEnd s = _; simp only [execSlewEnd, idle]
  case edge => exact ⟨_, rfl, logEvent_datum ..⟩
  case ppsNone => show execPpsInLost s = _; simp only [execPpsInLost, idle]
  case ppsLost =>
    refine ⟨_, ppsInLost_lost edge late, ?_⟩
    rw [logEvent_datum]
    exact ppsInLost_source s
  case pulseEnd =>
    rw [ppsOutPulseEnd_some high]
    exact ⟨fun early => by rw [if_neg (not_le.mpr early)], fun due => by rw [if_pos due]⟩
  case holdOffset =>
    refine ⟨_, holdOffsetUpdate_run s ppb, ?_⟩
    by_cases holdover : s.datum.st = 2
    · obtain ⟨osc, slew⟩ := heldOver_datum s ppb
      rw [if_pos holdover]
      exact ⟨heldOver_pget s ppb, osc, slew, fun other => absurd holdover other, fun _ => rateSum_changeFreq ..⟩
    · rw [if_neg holdover]
      exact ⟨withHoldOffset_pget s ppb, rfl, rfl, fun _ => rfl, fun held => absurd held holdover⟩
  case oscNone => rw [oscHoldLost_run, if_neg (by simp [lost])]
  case oscLost => exact ⟨_, by rw [oscHoldLost_run, if_pos present], logEvent_datum ..⟩
  case squelch =>
    refine ⟨_, rfl, ?_⟩
    rw [squelchOut_datum]
    exact ⟨sget_sset_same false s.datum.squelch k.val true, sget_sset_same none s.datum.holdoff k.val none,
      fun j other => sget_sset_ne false false s.datum.squelch true other⟩
  case resume =>
    exact ⟨_, synceHoldoffExpiry_resumes holds due on, sget_sset_same false s.datum.squelch k.val false,
      sget_sset_same none s.datum.holdoff k.val none⟩
  case toPps =>
    have next := nextSource_some (s := withoutPtp s) (x := 1) locked (by simp [withoutPtp, pps])
    rw [ptpReferenceLost_run, if_pos ptp, next, withoutPtp]
  case toHoldover =>
    have next := nextSource_none (s := withoutPtp s) locked (by simp [withoutPtp, pps])
    rw [ptpReferenceLost_run, if_pos ptp, next, withoutPtp]
  case stays =>
    have kept : (if s.datum.src = 0 then nextSource (withoutPtp s) else withoutPtp s) = withoutPtp s := by
      split
      next ptp => exact nextSource_unlocked (other.resolve_right (not_not_intro ptp))
      next => rfl
    rw [ptpReferenceLost_run, kept, withoutPtp]

end Sys2Proof.Machine
end
